-- ==== Sys2Proof/Word.lean ====
section
/-! DEFINITION. The word types of the machine and their plainest arithmetic. -/

namespace Sys2Proof

/-- A byte. -/
abbrev Byte := BitVec 8
/-- A 64-bit general register word (R34). -/
abbrev Word := BitVec 64
/-- A 32-bit word. -/
abbrev Word32 := BitVec 32
/-- The number of a general register g0 to g31 (R34). -/
abbrev Reg := BitVec 5

/-- Quotient rounded up; the callers' divisors are positive. -/
def ceilDiv (n d : Nat) : Nat := (n + d - 1) / d

end Sys2Proof
end

