-- ==== Sys2Proof/Config.lean ====
section
/-! DEFINITION. What the manual leaves to the implementation: opaque constants without a body, so no proof can see a
value of them (logs 3 to 5, 11, 26, 29 and 34); the one configuration number that the boot configuration picks at run time lives in
State. -/

namespace Sys2Proof

/-- The bytes of the firmware ROM, by offset from its first byte: the manual gives their place (R77) and not their
contents (log 3). -/
opaque Config.romByte : Nat → Byte

/-- A free number: the n-th choice the manual leaves open. The machine applies it to State.free and advances that
counter (log 4). -/
opaque Config.freeNat : Nat → Nat

/-- A free byte string of a given length in bits, for contents the manual leaves open: identity strings, signatures
and telemetry (log 5). -/
opaque Config.freeBits : (w : Nat) → Nat → BitVec w

/-- The 64 bytes of a context image that hold a stream's state: the manual lets only the device read them and gives them
no layout (R391). The argument is the model's number of the stream's state (log 26). -/
opaque Config.streamImage : Nat → BitVec 512

/-- The 64-byte record of a spilled task: the manual gives its size and its check code but no layout (R330). The argument is
the model's number of the task (log 29). -/
opaque Config.spillRecord : Nat → BitVec 512

/-- The bytes of memory attached to a CXL port, by 4 × hub + port: what enumeration finds (R81; log 11). -/
opaque Config.cxlBytes : Nat → Nat

/-- The SHA-512 digest of the mask ROM, as measured (R409; log 5). -/
opaque Config.romDigest : BitVec 512

/-- The SHA-512 digest of a boot configuration, by its VERSION, S, POWERCAP, port mask and OWNERKEY: the manual names the function
and does not define it (R409; log 5). -/
opaque Config.bootDigest : Nat → Nat → Nat → Nat → BitVec 1064 → BitVec 512

/-- The public key of the device identity pair on P-521, as an uncompressed point (R409; log 5). -/
opaque Config.identityKey : BitVec 1064
/-- The secret of that pair, derived from fused secrets (R409; log 5). -/
opaque Config.identitySecret : BitVec 521
/-- The Fjarhal certificate chain of the identity key (R404, R409; log 5). -/
opaque Config.certificateChain : List Byte
/-- The signature, r and then s, of a message's SHA-512 digest under a secret by ECDSA on P-521, whose nonce is the third argument: the manual
names the algorithm and does not define it (R409; log 5). -/
opaque Config.sign : BitVec 521 → List Byte → Nat → BitVec 528 × BitVec 528
/-- Whether a signature, r and s, of a digest verifies under a public key by ECDSA on P-521 (R409, R410; log 5). -/
opaque Config.verifies : BitVec 1064 → BitVec 512 → BitVec 528 → BitVec 528 → Bool
/-- The Fjarhal development keys (R1, R410; log 5). -/
opaque Config.developmentKeys : List (BitVec 1064)

/-- The module is the development variant FJ-ZV412-D1 (R1; log 34). -/
opaque Config.development : Bool

end Sys2Proof
end

