-- ==== Sys2Proof/Syntax.lean ====
section
/-! DEFINITION. The abstract syntax of the Odnum instruction set and of the device's events: one constructor per row
of spec/opcode_table.json. A row with an encoding carries its encoding's operand and modifier fields, from the lowest
bit of the word upward (R27, R28); a row without one is an event of the device, and carries the agent it happens at.
Agents are named by numbers: a slot by its handle (R347), a core by handle / 8, a tile by handle / 64, a die by
handle / 8192; a line by physical address / 128. The events and the instructions that a command queue holds come first:
Lean's compiler builds only the first 245 constructors that carry fields, and what builds a later one is marked
noncomputable (the kernel evaluates it all the same). -/

namespace Sys2Proof

/-- An Ethernet port of the module (R399). -/
inductive Port where
  | host (n : Nat)
  | scaleOut (n : Nat)
  deriving DecidableEq, Repr

/-- The connection on which a packet arrives, its port and its queue pair, and the packet's sequence number there (R399, R400,
R406). -/
structure Via where
  port : Port
  qp : Nat
  psn : Nat
  deriving DecidableEq, Repr

/-- What an RDMA request names beside its address: the connection on which it arrives, and its key (R400, R406). -/
structure RemoteKey where
  via : Via
  key : Nat
  deriving DecidableEq, Repr

/-- The header of a command frame as it arrives on queue pair 1 of a host port (R402). Its OPCODE is the command itself. -/
structure CmdHeader where
  /-- The host port, 0 to 3. -/
  port : Nat
  /-- The sequence number of its packet there. -/
  psn : Nat
  /-- SEQ. -/
  seq : Nat
  /-- LEN. -/
  len : Nat
  /-- The length of the body received. -/
  received : Nat
  /-- The value of the reserved bytes. -/
  reserved : Nat
  deriving DecidableEq, Repr

/-- One instruction of the Odnum instruction set, or one event of the device. -/
inductive Instr where
  /-- TVEC_WRITE, R315: A write to TVEC prepares the trap window at the new address. -/
  | tvecWrite (v : Word)
  /-- CRUMBBASE_WRITE, R331: A write to CRUMBBASE waits until no commit-queue entry holds a crumb, then takes effect. -/
  | crumbbaseWrite (v : Word)
  /-- SPILLCTL_WRITE, R331: A write to SPILLCTL redirects new spills while reloads drain the old area. -/
  | spillctlWrite (v : Word)
  /-- THAW_MASTER, R390: A THAW write with ACT 1 resumes a frozen thread, command or transfer. -/
  | thawMaster (kind ch handle : Nat)
  /-- DISCARD_MASTER, R390: A THAW write with ACT 2 discards a frozen thread, command, transfer or ordered task. -/
  | discardMaster (kind ch handle : Nat)
  /-- MONCTL_WRITE, R416: A write to a monitor control register sets it and empties its monitor. -/
  | monctlWrite (sel : Nat) (v : Word)
  /-- REGISTER_WRITE, R382: A write to a control register with no behaviour of its own, field by field. -/
  | registerWrite (sel : Nat) (v : Word)
  /-- GETS, R134: A read request reaches a directory, which grants, forwards or asks upward. -/
  | gets (core line : Nat)
  /-- GETM, R134: A write request reaches a directory, which invalidates holders and asks upward. -/
  | getm (core line : Nat)
  /-- UPG, R134: An upgrade from S reaches a directory, served as GETM if the copy was lost. -/
  | upg (core line : Nat)
  /-- PUTE, R140: An exclusive eviction notice reaches the directory. -/
  | pute (core line : Nat)
  /-- PUTM, R140: A modified eviction with data reaches the directory. -/
  | putm (core line : Nat)
  /-- INV, R141: An invalidation reaches a core, which acknowledges and applies the LATE rule. -/
  | inv (core line : Nat)
  /-- FWD, R137: A forward reaches an owner, which returns data and drops to S. -/
  | fwd (core line : Nat)
  /-- ACK, R136: An acknowledgement without data is counted at a directory. -/
  | ack (core line : Nat)
  /-- DACK, R136: An acknowledgement with data is counted and its data taken as the line's value. -/
  | dack (core line : Nat)
  /-- GRANT, R135: A grant from the level above arrives, and the directory grants downward when all acknowledgements are in. -/
  | grant (core line : Nat)
  /-- FILL, R141: A fill reaches a miss register, installing the line or serving merged loads only. -/
  | fill (core line : Nat)
  /-- WBACK, R140: The directory's answer to an eviction frees the writeback buffer. -/
  | wback (core line : Nat)
  /-- UNCACHED_HOME_ACCESS, R139: A C = 0 access is performed at the home after recalls or invalidations. -/
  | uncachedHomeAccess (line : Nat) (write : Bool)
  /-- BISNP, R143: A CXL back-invalidate snoop is answered according to device state. -/
  | bisnp (line : Nat)
  /-- STORE_BUFFER_DRAIN, R288: A store-buffer entry performs when its ordering conditions hold. -/
  | storeBufferDrain (slot entry : Nat)
  /-- WALK_REQUEST, R93: An L2 TLB miss reaches the die's walk unit, joining, starting or queueing a walk. -/
  | walkRequest (die : Nat)
  /-- WALK_RESULT, R94: A walk ends and its result is delivered to every joined requester. -/
  | walkResult (die : Nat)
  /-- AD_UPDATE, R96: The walk unit atomically sets A or D in a leaf, restarting if it changed. -/
  | adUpdate (die : Nat)
  /-- TLBI_DROP, R99: A posted TLBI drop is applied at a target tile or die. -/
  | tlbiDrop (index : Nat)
  /-- TENSOR_CACHE_DROP, R75: A TINV drop reaches a target tile and is acknowledged. -/
  | tensorCacheDrop (index : Nat)
  /-- WINDOW_ARRIVAL, R306: The last byte of a branch-target, loop or trap window arrives and it becomes READY. -/
  | windowArrival (slot win : Nat)
  /-- WINDOW_FETCH_FAILURE, R309: A window fetch fails and its register holds the failure. -/
  | windowFetchFailure (slot win : Nat)
  /-- FETCH_BUFFER_ARRIVAL, R313: Sequentially fetched instruction bytes arrive in the fetch buffer. -/
  | fetchBufferArrival (slot : Nat)
  /-- INTERRUPT_TAKE, R384: At an instruction boundary the highest enabled pending interrupt is taken as a trap. -/
  | interruptTake (slot : Nat)
  /-- TIMER_EXPIRY, R383: TIME reaches TIMECMP and the timer interrupt becomes pending. -/
  | timerExpiry (slot : Nat)
  /-- FROZEN_COMMAND_REPORT, R389: A frozen command's report is taken as an asynchronous trap at a boundary with EXL = 0. -/
  | frozenCommandReport (slot : Nat)
  /-- TRANSFER_START, R164: A transfer reaching the head of its channel waits for its thread's stores and starts reading. -/
  | transferStart (tile ch : Nat)
  /-- LINE_RETURN, R155: A line of a transfer returns; bytes land in ascending order and the watermark advances. -/
  | lineReturn (tile ch : Nat)
  /-- TRANSFER_COMPLETE, R164: A transfer completes and its PEND count falls. -/
  | transferComplete (tile ch : Nat)
  /-- HANDLE_PUSH, R164: A completed transfer pushes its handle word into its queue once there is room. -/
  | handlePush (tile ch : Nat)
  /-- FOLLOW_ON_PLACEMENT, R165: A CPYMX follow-on is placed at the matrix queue tail once there is room. -/
  | followOnPlacement (tile ch : Nat)
  /-- STREAM_REFILL, R175: A channel copies further pattern elements into an input stream ring. -/
  | streamRefill (tile ch : Nat)
  /-- STREAM_DRAIN, R175: A channel drains pushed elements of an output stream to their addresses. -/
  | streamDrain (tile ch : Nat)
  /-- REMOTE_WRITE_ACK, R405: An acknowledgement lands the bytes of a space-5 packet, or a NAK ends the transfer. -/
  | remoteWriteAck (tile ch : Nat) (nak : Bool)
  /-- INBOUND_RDMA_WRITE, R406: An inbound RDMA WRITE is checked against its region and performed or NAKed. -/
  | inboundRdmaWrite (key : RemoteKey) (va : Nat) (data : List Byte)
  /-- INBOUND_RDMA_READ, R406: An inbound RDMA READ is checked and answered. -/
  | inboundRdmaRead (key : RemoteKey) (va len : Nat)
  /-- UNSUPPORTED_OPERATION, R400: A packet with an unsupported RoCEv2 operation is answered with a NAK. -/
  | unsupportedOperation (via : Via)
  /-- QUEUE_PUSH_ARRIVAL, R182: A word pushed from another die arrives in the queue. -/
  | queuePushArrival (queue : Nat)
  /-- QUEUE_CREDIT_RETURN, R182: A credit returned by a pop reaches the producer. -/
  | queueCreditReturn (queue : Nat)
  /-- STACK_SNAPSHOT, R111: A stack command's snapshot phase completes and its writes may begin. -/
  | stackSnapshot (core : Nat)
  /-- STACK_ELEMENT, R116: An engine delivers, writes or combines one element of a command. -/
  | stackElement (core : Nat)
  /-- STACK_COMMAND_COMPLETE, R118: A stack command completes, PEND falls and its flags enter ESTAT. -/
  | stackCommandComplete (core : Nat)
  /-- VECTOR_COMMAND_EXECUTE, R232: The pool takes a thread's oldest ready command and executes it. -/
  | vectorCommandExecute (slot : Nat)
  /-- BIN_UPDATE, R252: A key-routed element arrives and updates its bin, or is dropped while disabled. -/
  | binUpdate (core : Nat)
  /-- MATRIX_QUEUE_HEAD, R263: A matrix command reaches the head, reads its predicate and retires or executes. -/
  | matrixQueueHead (core : Nat)
  /-- ARRAY_COMMAND_START, R284: The array starts a staged array command chosen by arbitration. -/
  | arrayCommandStart (tile : Nat)
  /-- MATRIX_COMMAND_COMPLETE, R285: A matrix command's results are written and PEND falls. -/
  | matrixCommandComplete (core : Nat)
  /-- ARRAY_RAMPUP_DONE, R281: The ramp-up period ends and the array enters ON. -/
  | arrayRampupDone (tile : Nat)
  /-- ARRAY_IDLE_TIMEOUT, R281: 64 idle clk with HOLD = 0 start a ramp-down. -/
  | arrayIdleTimeout (tile : Nat)
  /-- ARRAY_HOLD_TIMEOUT, R281: 4,096 clk without a start while HOLD > 0 clear HOLD and start a ramp-down. -/
  | arrayHoldTimeout (tile : Nat)
  /-- ARRAY_RAMPDOWN_DONE, R281: The ramp-down period ends and the array enters OFF. -/
  | arrayRampdownDone (tile : Nat)
  /-- SPAWN_ARRIVAL, R328: A spawned task arrives at its target tile and is enqueued, spilled or refused. -/
  | spawnArrival (slot : Nat)
  /-- SPAWN_ANSWER, R328: The target tile's answer reaches the spawning slot and sets or clears its condition. -/
  | spawnAnswer (slot : Nat)
  /-- TASK_RELOAD, R330: A tile reloads 32 spilled records when its queue is below 512. -/
  | taskReload (tile : Nat)
  /-- TASK_DISPATCH, R332: A free task-mode slot takes the next eligible task and is loaded. -/
  | taskDispatch (slot : Nat)
  /-- CRUMB_RESTORE, R341: An aborting task restores a crumb, checked as a write, then requeues when done. -/
  | crumbRestore (tile entry : Nat)
  /-- VIRTUAL_TIME_SAMPLE, R343: Every 256 clk each core and tile samples lowest keys per domain and untaken counts. -/
  | virtualTimeSample
  /-- GVT_PUBLISH, R343: 140 clk after a sample each domain's GVT is published on every core. -/
  | gvtPublish
  /-- DOMAIN_AGE_EXPIRY, R325: A domain unfinished 2^48 clk after start stops dispatching and records DOMAGE. -/
  | domainAgeExpiry (dom : Nat)
  /-- MESSAGE_ARRIVAL, R347: A message reaches its destination slot and is accepted into the inbox or refused. -/
  | messageArrival (slot : Nat)
  /-- MESSAGE_ANSWER, R347: The destination's answer reaches the sender and sets or clears its condition. -/
  | messageAnswer (slot : Nat)
  /-- LAUNCH_EXPANSION, R358: An accepted launch creates its next piece and places it on a tile. -/
  | launchExpansion (queue : Nat)
  /-- LAUNCH_RECORD_READ, R358: A records launch reads its next 16-byte record. -/
  | launchRecordRead (queue : Nat)
  /-- PIECE_START, R360: A held piece gets room on its tile and starts with its registers loaded. -/
  | pieceStart (slot : Nat)
  /-- LM_IMAGE_COPY, R361: The local-memory image of a persistent piece has been copied before its first instruction. -/
  | lmImageCopy (slot : Nat)
  /-- LAUNCH_COMPLETION_UPDATE, R363: A finished launch adds to its completion word with release. -/
  | launchCompletionUpdate (launch : Nat)
  /-- ROTATION_BOUNDARY, R369: Every 4,096 clk each tile recomputes queue shares and reassigns slots. -/
  | rotationBoundary
  /-- PREEMPTION_REQUEST, R371: Held higher-priority work makes the tile pre-empt the lowest-priority slot. -/
  | preemptionRequest (tile prio : Nat)
  /-- SLOT_HALT, R394: A pre-empted slot reaches a boundary, captures its state and is released. -/
  | slotHalt (slot : Nat)
  /-- ANSWER_WRITE, R395: An answer to a halted instruction is written into the saved image. -/
  | answerWrite (slot : Nat)
  /-- CONTEXT_RESUME, R316: A saved context resumes on a slot of its core with stale windows. -/
  | contextResume (slot : Nat)
  /-- MIGRATION_ARRIVAL, R375: A migrated context resumes on the home tile and the forwarding table is updated. -/
  | migrationArrival (slot : Nat)
  /-- IDLE_TREE_SAMPLE, R373: Every 2,048 clk the idle tree is sampled per domain. -/
  | idleTreeSample
  /-- POWER_CONTROL_SAMPLE, R413: Every 1,100 clk the power controller reads every die and delays starts to stay in limits. -/
  | powerControlSample (watts : Nat)
  /-- CORRECTED_ERROR, R146: A corrected error is fixed and counted. -/
  | correctedError (tile : Nat)
  /-- UNCORRECTABLE_ERROR, R146: An uncorrectable error drops, poisons or recalls and raises an error record. -/
  | uncorrectableError (cause tile addr : Nat)
  /-- TAKEOVER_COMPLETE, R396: The spare takes over the logical cluster and records 7.19. -/
  | takeoverComplete (die cluster : Nat)
  /-- FLIT_CRC_FAILURE, R407: A flit fails its CRC and is replayed. -/
  | flitCrcFailure (link : Nat)
  /-- LINK_DOWN, R408: A third failed replay takes the link down and traffic is rerouted and replayed. -/
  | linkDown (link : Nat)
  /-- LINK_DEGRADED, R407: A failing lane group is retired and the link runs at half width. -/
  | linkDegraded (link : Nat)
  /-- CXL_FAILURE, R383: A CXL port failure or poison makes an error record. -/
  | cxlFailure (port : Nat) (poison : Bool) (addr : Nat)
  /-- POWER_ON, R411: Power-on performs a device reset and starts ROMCHK. -/
  | powerOn
  /-- ROMCHK_COMPLETE, R411: The ROM measurement ends, entering TRAIN or HALT. -/
  | romchkComplete (digestOk : Bool)
  /-- TRAINING_COMPLETE, R411: Training and self-test end and the device enters CONFIG. -/
  | trainingComplete
  /-- INIT_COMPLETE, R411: Initialisation ends and the device enters RUN. -/
  | initComplete
  /-- REGION_GATING, R144: A region is written back, emptied and power-gated. -/
  | regionGating (die cluster : Nat)
  /-- IDENTITY, R404: Returns part number, variant, lifecycle and certificate chain. -/
  | identity (h : CmdHeader)
  /-- ATTEST, R409: Returns a signed attestation report over a nonce. -/
  | attest (h : CmdHeader) (nonce : BitVec 512)
  /-- BOOTCFG, R410: Verifies and accepts a boot configuration. -/
  | bootcfg (h : CmdHeader) (version rdcGiB powerCap portMask : Nat) (ownerKey : BitVec 1064) (sigR sigS : BitVec 528)
  /-- QCREATE, R404: Creates a launch queue with given attributes. -/
  | qcreate (h : CmdHeader) (asid : Nat) (ptbase ttbase : Word) (mode weight maxPrio first nt : Nat)
  /-- QSET, R404: Changes a queue's weight and maximum priority at the next boundary. -/
  | qset (h : CmdHeader) (queue weight maxPrio : Nat)
  /-- QDELETE, R404: Deletes an idle launch queue. -/
  | qdelete (h : CmdHeader) (queue : Nat)
  /-- LAUNCH, R404: Submits a launch descriptor from the host to a queue. -/
  | launch (h : CmdHeader) (queue : Nat) (desc : BitVec 512)
  /-- QSTATUS, R363: Returns a queue's unexpanded launches and its fault record, clearing it. -/
  | qstatus (h : CmdHeader) (queue : Nat)
  /-- EPSET, R405: Writes an entry of the endpoint table. -/
  | epset (h : CmdHeader) (index port peer qp rkey asid : Nat)
  /-- MRREG, R406: Registers an inbound region and returns its key. -/
  | mrreg (h : CmdHeader) (asid base len : Nat) (r w : Bool)
  /-- ERRLOG, R404: Returns and removes untargeted error records, freeze reports and losses. -/
  | errlog (h : CmdHeader) (count : Nat)
  /-- LINKSTAT, R407: Returns the state and error counts of each Mengeton link. -/
  | linkstat (h : CmdHeader)
  /-- CXLINFO, R404: Returns the populated size and state of each CXL port. -/
  | cxlinfo (h : CmdHeader)
  /-- POWER, R414: Changes the power cap and gates unused tiles and clusters. -/
  | power (h : CmdHeader) (cap : Nat) (gates : List Nat)
  /-- SPAREMAP, R404: Returns the logical-to-physical cluster map of each die. -/
  | sparemap (h : CmdHeader)
  /-- RESET_ORDERLY, R412: Performs an orderly reset with write-back and returns to ROMCHK. -/
  | resetOrderly (h : CmdHeader)
  /-- RESET_FATAL, R412: Performs a fatal reset without write-back. -/
  | resetFatal (h : CmdHeader)
  /-- RATIONAL_OPERATION_COMPLETE, R219: A rational-mode operation finishes after its latency and writes g[d] and its RSTAT flags. -/
  | rationalOperationComplete (slot : Nat)
  /-- GROUP_ANSWER, R453: The answer to GNEW, GJOIN, GLEAVE, GCOUNT or GFREE returns from the die that holds the group. -/
  | groupAnswer (slot : Nat)
  /-- LNCH_ANSWER, R366: The accept or refuse answer to a LNCH reaches the issuing slot and sets or clears q[d]. -/
  | lnchAnswer (slot : Nat)
  /-- BADOP, R404: A command frame whose opcode is not listed is answered with BADOP. -/
  | badop (h : CmdHeader) (opcode : Nat)
  /-- RDMA_RETRIES_EXHAUSTED, R405: Exhausted retries end a space-5 transfer with cause 1.7. -/
  | rdmaRetriesExhausted (tile ch : Nat)
  /-- KEPT_CONFIGURATION_REAPPLIED, R412: After a reset that is not a power-on, CONFIG ends once the kept boot configuration has been re-applied, and INIT begins. -/
  | keptConfigurationReapplied
  /-- VMOV, R25: Short form that copies vb into vd in the lanes its mask admits. -/
  | vmov (d : BitVec 5) (b : BitVec 5) (m : BitVec 1)
  /-- VADD_SHORT, R25: Short form of VADD at the VSETW default width, with va = vd. -/
  | vaddShort (d : BitVec 5) (b : BitVec 5) (m : BitVec 1)
  /-- VSUB_SHORT, R25: Short form of VSUB, vd minus vb. -/
  | vsubShort (d : BitVec 5) (b : BitVec 5) (m : BitVec 1)
  /-- VMUL_SHORT, R25: Short form of VMUL. -/
  | vmulShort (d : BitVec 5) (b : BitVec 5) (m : BitVec 1)
  /-- VAND_SHORT, R25: Short form of VAND. -/
  | vandShort (d : BitVec 5) (b : BitVec 5) (m : BitVec 1)
  /-- VOR_SHORT, R25: Short form of VOR. -/
  | vorShort (d : BitVec 5) (b : BitVec 5) (m : BitVec 1)
  /-- VXOR_SHORT, R25: Short form of VXOR. -/
  | vxorShort (d : BitVec 5) (b : BitVec 5) (m : BitVec 1)
  /-- VMIN_SHORT, R25: Short form of VMIN. -/
  | vminShort (d : BitVec 5) (b : BitVec 5) (m : BitVec 1)
  /-- VMAX_SHORT, R25: Short form of VMAX. -/
  | vmaxShort (d : BitVec 5) (b : BitVec 5) (m : BitVec 1)
  /-- VFADD_SHORT, R25: Short form of VFADD; illegal under an 8-bit default width. -/
  | vfaddShort (d : BitVec 5) (b : BitVec 5) (m : BitVec 1)
  /-- VFSUB_SHORT, R25: Short form of VFSUB, vd minus vb. -/
  | vfsubShort (d : BitVec 5) (b : BitVec 5) (m : BitVec 1)
  /-- VFMUL_SHORT, R25: Short form of VFMUL. -/
  | vfmulShort (d : BitVec 5) (b : BitVec 5) (m : BitVec 1)
  /-- VFMIN_SHORT, R25: Short form of VFMIN. -/
  | vfminShort (d : BitVec 5) (b : BitVec 5) (m : BitVec 1)
  /-- VFMAX_SHORT, R25: Short form of VFMAX. -/
  | vfmaxShort (d : BitVec 5) (b : BitVec 5) (m : BitVec 1)
  /-- VFNEG, R25: Short form that writes vb with its sign inverted, NaN giving canonical NaN. -/
  | vfneg (d : BitVec 5) (b : BitVec 5) (m : BitVec 1)
  /-- VABS, R25: Short form that writes the integer magnitude of vb modulo 2^e. -/
  | vabs (d : BitVec 5) (b : BitVec 5) (m : BitVec 1)
  /-- VADD, R238: Queues an element-wise integer add. -/
  | vadd (d : BitVec 5) (a : BitVec 5) (b : BitVec 5) (k : BitVec 3) (w : BitVec 2)
  /-- VSUB, R238: Queues an element-wise integer subtract. -/
  | vsub (d : BitVec 5) (a : BitVec 5) (b : BitVec 5) (k : BitVec 3) (w : BitVec 2)
  /-- VMUL, R238: Queues an element-wise integer multiply. -/
  | vmul (d : BitVec 5) (a : BitVec 5) (b : BitVec 5) (k : BitVec 3) (w : BitVec 2)
  /-- VMIN, R238: Queues an element-wise signed minimum. -/
  | vmin (d : BitVec 5) (a : BitVec 5) (b : BitVec 5) (k : BitVec 3) (w : BitVec 2)
  /-- VMAX, R238: Queues an element-wise signed maximum. -/
  | vmax (d : BitVec 5) (a : BitVec 5) (b : BitVec 5) (k : BitVec 3) (w : BitVec 2)
  /-- VAND, R238: Queues an element-wise and. -/
  | vand (d : BitVec 5) (a : BitVec 5) (b : BitVec 5) (k : BitVec 3) (w : BitVec 2)
  /-- VOR, R238: Queues an element-wise or. -/
  | vor (d : BitVec 5) (a : BitVec 5) (b : BitVec 5) (k : BitVec 3) (w : BitVec 2)
  /-- VXOR, R238: Queues an element-wise xor. -/
  | vxor (d : BitVec 5) (a : BitVec 5) (b : BitVec 5) (k : BitVec 3) (w : BitVec 2)
  /-- VSLL, R238: Queues an element-wise left shift. -/
  | vsll (d : BitVec 5) (a : BitVec 5) (b : BitVec 5) (k : BitVec 3) (w : BitVec 2)
  /-- VSRL, R238: Queues an element-wise logical right shift. -/
  | vsrl (d : BitVec 5) (a : BitVec 5) (b : BitVec 5) (k : BitVec 3) (w : BitVec 2)
  /-- VSRA, R238: Queues an element-wise arithmetic right shift. -/
  | vsra (d : BitVec 5) (a : BitVec 5) (b : BitVec 5) (k : BitVec 3) (w : BitVec 2)
  /-- VADDSAT, R238: Queues an element-wise saturating add. -/
  | vaddsat (d : BitVec 5) (a : BitVec 5) (b : BitVec 5) (k : BitVec 3) (w : BitVec 2)
  /-- VDOT4, R239: Queues a per-lane four-way S8 dot product with final saturation. -/
  | vdot4 (d : BitVec 5) (a : BitVec 5) (b : BitVec 5) (k : BitVec 3)
  /-- VFADD, R240: Queues an element-wise floating add. -/
  | vfadd (d : BitVec 5) (a : BitVec 5) (b : BitVec 5) (k : BitVec 3) (w : BitVec 2)
  /-- VFSUB, R240: Queues an element-wise floating subtract. -/
  | vfsub (d : BitVec 5) (a : BitVec 5) (b : BitVec 5) (k : BitVec 3) (w : BitVec 2)
  /-- VFMUL, R240: Queues an element-wise floating multiply. -/
  | vfmul (d : BitVec 5) (a : BitVec 5) (b : BitVec 5) (k : BitVec 3) (w : BitVec 2)
  /-- VFMA, R240: Queues an element-wise fused multiply-add into vd. -/
  | vfma (d : BitVec 5) (a : BitVec 5) (b : BitVec 5) (k : BitVec 3) (w : BitVec 2)
  /-- VFMIN, R240: Queues an element-wise floating minimum. -/
  | vfmin (d : BitVec 5) (a : BitVec 5) (b : BitVec 5) (k : BitVec 3) (w : BitVec 2)
  /-- VFMAX, R240: Queues an element-wise floating maximum. -/
  | vfmax (d : BitVec 5) (a : BitVec 5) (b : BitVec 5) (k : BitVec 3) (w : BitVec 2)
  /-- VRCP, R241: Queues a 12-bit reciprocal estimate. -/
  | vrcp (d : BitVec 5) (a : BitVec 5) (k : BitVec 3) (w : BitVec 2)
  /-- VRSQ, R241: Queues a 12-bit reciprocal square root estimate. -/
  | vrsq (d : BitVec 5) (a : BitVec 5) (k : BitVec 3) (w : BitVec 2)
  /-- VRCPS, R242: Queues a reciprocal refinement step 2 - va x vb. -/
  | vrcps (d : BitVec 5) (a : BitVec 5) (b : BitVec 5) (k : BitVec 3) (w : BitVec 2)
  /-- VRSQS, R242: Queues a reciprocal-square-root refinement step. -/
  | vrsqs (d : BitVec 5) (a : BitVec 5) (b : BitVec 5) (k : BitVec 3) (w : BitVec 2)
  /-- VCMPEQ, R243: Queues an equality compare into a mask. -/
  | vcmpeq (d : BitVec 3) (a : BitVec 5) (b : BitVec 5) (k : BitVec 3) (w : BitVec 1)
  /-- VCMPLT, R243: Queues a signed less-than compare into a mask. -/
  | vcmplt (d : BitVec 3) (a : BitVec 5) (b : BitVec 5) (k : BitVec 3) (w : BitVec 1)
  /-- VCMPLTN, R243: Queues an unsigned less-than compare into a mask. -/
  | vcmpltn (d : BitVec 3) (a : BitVec 5) (b : BitVec 5) (k : BitVec 3) (w : BitVec 1)
  /-- VFCMPEQ, R243: Queues a floating equality compare into a mask. -/
  | vfcmpeq (d : BitVec 3) (a : BitVec 5) (b : BitVec 5) (k : BitVec 3) (w : BitVec 1)
  /-- VFCMPLT, R243: Queues a floating less-than compare into a mask. -/
  | vfcmplt (d : BitVec 3) (a : BitVec 5) (b : BitVec 5) (k : BitVec 3) (w : BitVec 1)
  /-- VSEL, R244: Queues a lane-wise select by mask. -/
  | vsel (d : BitVec 5) (a : BitVec 5) (b : BitVec 5) (k : BitVec 3) (w : BitVec 2)
  /-- VCVT, R244: Queues an element-wise format conversion. -/
  | vcvt (d : BitVec 5) (a : BitVec 5) (b : BitVec 5) (s : BitVec 5)
  /-- VLUT, R244: Queues a code-table lookup of K4 nibbles. -/
  | vlut (d : BitVec 5) (a : BitVec 5) (h : BitVec 1) (k : BitVec 3)
  /-- VBCAST, R244: Queues a broadcast of g[a] into every element. -/
  | vbcast (d : BitVec 5) (a : BitVec 5) (k : BitVec 3) (w : BitVec 2)
  /-- VLD, R245: Queues a contiguous vector load. -/
  | vld (d : BitVec 5) (a : BitVec 5) (k : BitVec 3) (w : BitVec 2)
  /-- VST, R245: Queues a contiguous vector store. -/
  | vst (d : BitVec 5) (a : BitVec 5) (k : BitVec 3) (w : BitVec 2)
  /-- VLDS, R245: Queues a strided vector load. -/
  | vlds (d : BitVec 5) (a : BitVec 5) (b : BitVec 5) (k : BitVec 3) (w : BitVec 2)
  /-- VSTS, R245: Queues a strided vector store. -/
  | vsts (d : BitVec 5) (a : BitVec 5) (b : BitVec 5) (k : BitVec 3) (w : BitVec 2)
  /-- VLDX, R245: Queues an indexed vector load. -/
  | vldx (d : BitVec 5) (a : BitVec 5) (b : BitVec 5) (k : BitVec 3) (w : BitVec 1)
  /-- VSTX, R245: Queues an indexed vector store. -/
  | vstx (d : BitVec 5) (a : BitVec 5) (b : BitVec 5) (k : BitVec 3) (w : BitVec 1)
  /-- VSTXA, R245: Queues an indexed atomic-add store. -/
  | vstxa (d : BitVec 5) (a : BitVec 5) (b : BitVec 5) (k : BitVec 3) (w : BitVec 1)
  /-- VLDT, R245: Queues a load of a tensor row segment. -/
  | vldt (d : BitVec 5) (a : BitVec 5) (k : BitVec 3) (w : BitVec 2)
  /-- VSTT, R245: Queues a store to a tensor row segment. -/
  | vstt (d : BitVec 5) (a : BitVec 5) (k : BitVec 3) (w : BitVec 2)
  /-- VPERM, R247: Queues an element permutation by index. -/
  | vperm (d : BitVec 5) (a : BitVec 5) (b : BitVec 5) (k : BitVec 3) (w : BitVec 2)
  /-- VROTL, R247: Queues an element rotation by g[b]. -/
  | vrotl (d : BitVec 5) (a : BitVec 5) (b : BitVec 5) (k : BitVec 3) (w : BitVec 2)
  /-- VTRANS, R248: Queues an 8 x 8 transpose over eight registers. -/
  | vtrans (d : BitVec 2) (w : BitVec 2)
  /-- VRSUM, R249: Queues an integer sum reduction. -/
  | vrsum (d : BitVec 5) (a : BitVec 5) (k : BitVec 3) (w : BitVec 2)
  /-- VRMIN, R249: Queues a signed minimum reduction. -/
  | vrmin (d : BitVec 5) (a : BitVec 5) (k : BitVec 3) (w : BitVec 2)
  /-- VRMAX, R249: Queues a signed maximum reduction. -/
  | vrmax (d : BitVec 5) (a : BitVec 5) (k : BitVec 3) (w : BitVec 2)
  /-- VFRSUM, R249: Queues a floating sum reduction. -/
  | vfrsum (d : BitVec 5) (a : BitVec 5) (k : BitVec 3) (w : BitVec 2)
  /-- VSCAN, R247: Queues an inclusive prefix sum over set lanes. -/
  | vscan (d : BitVec 5) (a : BitVec 5) (k : BitVec 3) (w : BitVec 2)
  /-- VCOMPRESS, R247: Queues a compression of set-lane elements. -/
  | vcompress (d : BitVec 5) (a : BitVec 5) (k : BitVec 3) (w : BitVec 2)
  /-- VEXPAND, R247: Queues an expansion into set lanes. -/
  | vexpand (d : BitVec 5) (a : BitVec 5) (k : BitVec 3) (w : BitVec 2)
  /-- VSELK, R250: Queues a top-c selection of row indices by score. -/
  | vselk (d : BitVec 5) (a : BitVec 5) (b : BitVec 5) (k : BitVec 3) (w : BitVec 2)
  /-- VIOTA, R247: Queues writing each element's index. -/
  | viota (d : BitVec 5) (k : BitVec 3) (w : BitVec 2)
  /-- VPOPK, R247: Queues a population count of a mask. -/
  | vpopk (d : BitVec 5) (k : BitVec 3) (w : BitVec 2)
  /-- KSEND, R251: Queues key-routed sends of (key, value) pairs to group members' receiving units. -/
  | ksend (d : BitVec 5) (a : BitVec 5) (b : BitVec 5) (k : BitVec 3)
  /-- VCLAIM, R254: Sets the lane request and renegotiates the grant. -/
  | vclaim (d : BitVec 5) (a : BitVec 5)
  /-- VRENEG, R254: Renegotiates the lane grant. -/
  | vreneg (d : BitVec 5)
  /-- VREL, R226: Releases the lane claim after queued commands execute. -/
  | vrel
  /-- VSETW, R254: Sets the default element width. -/
  | vsetw (w : BitVec 2)
  /-- VMVG, R254: Waits for earlier commands and reads one vector element into g[d]. -/
  | vmvg (d : BitVec 5) (a : BitVec 5) (b : BitVec 5) (w : BitVec 2)
  /-- VMVV, R254: Queues a write of g[a] into one vector element. -/
  | vmvv (d : BitVec 5) (a : BitVec 5) (b : BitVec 5) (w : BitVec 2)
  /-- VFENCE, R254: Waits for the thread's vector commands, acquires and delivers a held fault. -/
  | vfence
  /-- VBUSYQ, R254: Reads the count of pending vector commands. -/
  | vbusyq (d : BitVec 5)
  /-- KSET, R254: Queues a write of a mask register from g[a]. -/
  | kset (k : BitVec 3) (a : BitVec 5)
  /-- KGET, R254: Waits for earlier commands and reads a mask register. -/
  | kget (d : BitVec 5) (k : BitVec 3)
  /-- MMA, R270: Queues a dense matrix multiply-accumulate into an accumulator. -/
  | mma (x : BitVec 3) (m : BitVec 2) (a : BitVec 5) (b : BitVec 5) (p : BitVec 3)
  /-- MMAS, R270: Queues a multiply-accumulate with a 2:4 sparse B image. -/
  | mmas (x : BitVec 3) (m : BitVec 2) (a : BitVec 5) (b : BitVec 5) (p : BitVec 3)
  /-- MSPX, R271: Queues a sparse-fibre inner-product multiply. -/
  | mspx (x : BitVec 3) (m : BitVec 2) (a : BitVec 5) (b : BitVec 5) (p : BitVec 3)
  /-- MZERO, R272: Queues zeroing of an accumulator. -/
  | mzero (x : BitVec 3) (p : BitVec 3)
  /-- MLDACC, R273: Queues a load of a tensor window into an accumulator. -/
  | mldacc (x : BitVec 3) (m : BitVec 2) (a : BitVec 5) (b : BitVec 5) (p : BitVec 3)
  /-- MSTACC, R273: Queues a store of an accumulator into a tensor window. -/
  | mstacc (x : BitVec 3) (m : BitVec 2) (a : BitVec 5) (b : BitVec 5) (p : BitVec 3)
  /-- MWBLD, R274: Queues building a weight-buffer image from a tensor. -/
  | mwbld (m : BitVec 2) (a : BitVec 5) (b : BitVec 5) (p : BitVec 3)
  /-- TZSET, R264: Queues setting a tile predicate from a comparison. -/
  | tzset (x : BitVec 3) (a : BitVec 5) (b : BitVec 5) (c : BitVec 3)
  /-- MBURST, R282: Sets HOLD and ramps the array up at issue. -/
  | mburst (a : BitVec 5)
  /-- MFENCE, R277: Waits for the thread's matrix commands, acquires and delivers a held fault. -/
  | mfence
  /-- SGATH, R115: Queues a stack-engine gather into local memory through a channel. -/
  | sgath (x : BitVec 3) (c : BitVec 4) (a : BitVec 5) (b : BitVec 5)
  /-- SSCAT, R116: Queues a stack-engine scatter in list order. -/
  | sscat (x : BitVec 3) (a : BitVec 5) (b : BitVec 5)
  /-- SRED, R116: Queues a stack-engine reduction into a table. -/
  | sred (x : BitVec 3) (a : BitVec 5) (b : BitVec 5) (o : BitVec 3)
  /-- SCONV, R117: Queues a stack-engine format conversion. -/
  | sconv (x : BitVec 3) (a : BitVec 5) (b : BitVec 5)
  /-- SFENCE, R119: Waits for the thread's stack commands, acquires and delivers a held fault. -/
  | sfence
  /-- SSTAT, R119: Reads ESTAT and clears its RC fields. -/
  | sstat (a : BitVec 5)
  /-- CPY, R164: Queues a copy from global memory into own local memory on a channel. -/
  | cpy (x : BitVec 3) (c : BitVec 4) (a : BitVec 5) (b : BitVec 5)
  /-- CPYA, R164: Queues a copy described by a 32-byte descriptor. -/
  | cpya (x : BitVec 3) (c : BitVec 4) (a : BitVec 5)
  /-- CPYMX, R165: Queues a described copy with a matrix follow-on command. -/
  | cpymx (x : BitVec 3) (c : BitVec 4) (a : BitVec 5) (b : BitVec 5)
  /-- CWM, R168: Reads the watermark of a channel. -/
  | cwm (c : BitVec 4) (a : BitVec 5)
  /-- CWAIT, R168: Waits until a channel's earlier transfers have landed below an address, then delivers a held fault. -/
  | cwait (c : BitVec 4) (a : BitVec 5)
  /-- CSTRM, R173: Binds an input stream to a register. -/
  | cstrm (x : BitVec 3) (c : BitVec 4) (a : BitVec 5) (b : BitVec 5)
  /-- CSTRMX, R173: Binds an output stream to a register. -/
  | cstrmx (x : BitVec 3) (c : BitVec 4) (a : BitVec 5) (b : BitVec 5)
  /-- CPERM, R166: Queues a copy of a tensor window, optionally transposed, into local memory. -/
  | cperm (x : BitVec 3) (c : BitVec 4) (a : BitVec 5) (b : BitVec 5)
  /-- CSTOP, R169: Stops the caller's or all transfers on a channel. -/
  | cstop (c : BitVec 4) (a : BitVec 5)
  /-- ADD, R188: Writes g[a] + g[b] modulo 2^64. -/
  | add (d : BitVec 5) (a : BitVec 5) (b : BitVec 5)
  /-- SUB, R188: Writes g[a] - g[b] modulo 2^64. -/
  | sub (d : BitVec 5) (a : BitVec 5) (b : BitVec 5)
  /-- AND, R188: Writes the bitwise and of g[a] and g[b]. -/
  | and (d : BitVec 5) (a : BitVec 5) (b : BitVec 5)
  /-- OR, R188: Writes the bitwise or of g[a] and g[b]. -/
  | or (d : BitVec 5) (a : BitVec 5) (b : BitVec 5)
  /-- XOR, R188: Writes the bitwise xor of g[a] and g[b]. -/
  | xor (d : BitVec 5) (a : BitVec 5) (b : BitVec 5)
  /-- ANDN, R188: Writes g[a] and not g[b]. -/
  | andn (d : BitVec 5) (a : BitVec 5) (b : BitVec 5)
  /-- SLL, R188: Shifts g[a] left by g[b][5:0]. -/
  | sll (d : BitVec 5) (a : BitVec 5) (b : BitVec 5)
  /-- SRL, R188: Shifts g[a] right logically by g[b][5:0]. -/
  | srl (d : BitVec 5) (a : BitVec 5) (b : BitVec 5)
  /-- SRA, R188: Shifts g[a] right arithmetically by g[b][5:0]. -/
  | sra (d : BitVec 5) (a : BitVec 5) (b : BitVec 5)
  /-- ROL, R188: Rotates g[a] left by g[b][5:0]. -/
  | rol (d : BitVec 5) (a : BitVec 5) (b : BitVec 5)
  /-- MUL, R189: Writes the low 64 bits of the product. -/
  | mul (d : BitVec 5) (a : BitVec 5) (b : BitVec 5)
  /-- MULH, R189: Writes the high 64 bits of the signed product. -/
  | mulh (d : BitVec 5) (a : BitVec 5) (b : BitVec 5)
  /-- MULHN, R189: Writes the high 64 bits of the unsigned product. -/
  | mulhn (d : BitVec 5) (a : BitVec 5) (b : BitVec 5)
  /-- DIV, R189: Signed division truncated toward zero, with fixed results for zero divisor and overflow. -/
  | div (d : BitVec 5) (a : BitVec 5) (b : BitVec 5)
  /-- DIVN, R189: Unsigned division. -/
  | divn (d : BitVec 5) (a : BitVec 5) (b : BitVec 5)
  /-- REM, R189: Signed remainder with the sign of the dividend. -/
  | rem (d : BitVec 5) (a : BitVec 5) (b : BitVec 5)
  /-- REMN, R189: Unsigned remainder. -/
  | remn (d : BitVec 5) (a : BitVec 5) (b : BitVec 5)
  /-- MIN, R188: Signed minimum. -/
  | min (d : BitVec 5) (a : BitVec 5) (b : BitVec 5)
  /-- MAX, R188: Signed maximum. -/
  | max (d : BitVec 5) (a : BitVec 5) (b : BitVec 5)
  /-- MINN, R188: Unsigned minimum. -/
  | minn (d : BitVec 5) (a : BitVec 5) (b : BitVec 5)
  /-- MAXN, R188: Unsigned maximum. -/
  | maxn (d : BitVec 5) (a : BitVec 5) (b : BitVec 5)
  /-- CLZ, R190: Counts leading zero bits. -/
  | clz (d : BitVec 5) (a : BitVec 5)
  /-- CTZ, R190: Counts trailing zero bits. -/
  | ctz (d : BitVec 5) (a : BitVec 5)
  /-- POPC, R190: Counts one bits. -/
  | popc (d : BitVec 5) (a : BitVec 5)
  /-- BREV, R190: Reverses the bit order. -/
  | brev (d : BitVec 5) (a : BitVec 5)
  /-- BSWAP, R190: Reverses the byte order. -/
  | bswap (d : BitVec 5) (a : BitVec 5)
  /-- SEXT, R190: Sign-extends g[a] from bit g[b][5:0]. -/
  | sext (d : BitVec 5) (a : BitVec 5) (b : BitVec 5)
  /-- BFX, R190: Extracts a bit field described by g[b]. -/
  | bfx (d : BitVec 5) (a : BitVec 5) (b : BitVec 5)
  /-- BFI, R190: Inserts g[a] into g[c] at the field described by g[b]. -/
  | bfi (d : BitVec 5) (a : BitVec 5) (b : BitVec 5) (c : BitVec 5)
  /-- SEL, R191: Selects g[a] or g[b] by a condition register. -/
  | sel (d : BitVec 5) (a : BitVec 5) (b : BitVec 5) (c : BitVec 3)
  /-- ADDSAT, R188: Signed addition clamped to the 64-bit range. -/
  | addsat (d : BitVec 5) (a : BitVec 5) (b : BitVec 5)
  /-- SUBSAT, R188: Signed subtraction clamped to the 64-bit range. -/
  | subsat (d : BitVec 5) (a : BitVec 5) (b : BitVec 5)
  /-- MADD, R191: Writes g[a] x g[b] + g[c] modulo 2^64. -/
  | madd (d : BitVec 5) (a : BitVec 5) (b : BitVec 5) (c : BitVec 5)
  /-- ADDX, R191: Adds with carry in and carry out through a condition register. -/
  | addx (d : BitVec 5) (a : BitVec 5) (b : BitVec 5) (c : BitVec 3)
  /-- ADDI, R192: Adds a sign-extended 12-bit immediate. -/
  | addi (d : BitVec 5) (a : BitVec 5) (i : BitVec 12)
  /-- ANDI, R192: Ands with a sign-extended immediate. -/
  | andi (d : BitVec 5) (a : BitVec 5) (i : BitVec 12)
  /-- ORI, R192: Ors with a sign-extended immediate. -/
  | ori (d : BitVec 5) (a : BitVec 5) (i : BitVec 12)
  /-- XORI, R192: Xors with a sign-extended immediate. -/
  | xori (d : BitVec 5) (a : BitVec 5) (i : BitVec 12)
  /-- SLLI, R192: Shifts left by an immediate count. -/
  | slli (d : BitVec 5) (a : BitVec 5) (i : BitVec 6)
  /-- SRLI, R192: Shifts right logically by an immediate count. -/
  | srli (d : BitVec 5) (a : BitVec 5) (i : BitVec 6)
  /-- SRAI, R192: Shifts right arithmetically by an immediate count. -/
  | srai (d : BitVec 5) (a : BitVec 5) (i : BitVec 6)
  /-- MINI, R192: Signed minimum with an immediate. -/
  | mini (d : BitVec 5) (a : BitVec 5) (i : BitVec 12)
  /-- MAXI, R192: Signed maximum with an immediate. -/
  | maxi (d : BitVec 5) (a : BitVec 5) (i : BitVec 12)
  /-- BFXI, R192: Extracts a zero-extended field given by an immediate position and length. -/
  | bfxi (d : BitVec 5) (a : BitVec 5) (i : BitVec 12)
  /-- WIMM, R193: Writes a 16-bit immediate shifted to one of four positions. -/
  | wimm (d : BitVec 5) (p : BitVec 2) (i : BitVec 16)
  /-- WIMMK, R193: Replaces one 16-bit chunk of g[d] with an immediate. -/
  | wimmk (d : BitVec 5) (p : BitVec 2) (i : BitVec 16)
  /-- CEQ, R196: Compares for equality and combines into a condition register. -/
  | ceq (q : BitVec 3) (c : BitVec 2) (a : BitVec 5) (b : BitVec 5)
  /-- CNE, R196: Compares for inequality. -/
  | cne (q : BitVec 3) (c : BitVec 2) (a : BitVec 5) (b : BitVec 5)
  /-- CLT, R196: Signed less-than compare. -/
  | clt (q : BitVec 3) (c : BitVec 2) (a : BitVec 5) (b : BitVec 5)
  /-- CGE, R196: Signed greater-or-equal compare. -/
  | cge (q : BitVec 3) (c : BitVec 2) (a : BitVec 5) (b : BitVec 5)
  /-- CLTN, R196: Unsigned less-than compare. -/
  | cltn (q : BitVec 3) (c : BitVec 2) (a : BitVec 5) (b : BitVec 5)
  /-- CGEN, R196: Unsigned greater-or-equal compare. -/
  | cgen (q : BitVec 3) (c : BitVec 2) (a : BitVec 5) (b : BitVec 5)
  /-- CTST, R196: Tests whether g[a] and g[b] share a set bit. -/
  | ctst (q : BitVec 3) (c : BitVec 2) (a : BitVec 5) (b : BitVec 5)
  /-- CBIT, R196: Tests bit g[b][5:0] of g[a]. -/
  | cbit (q : BitVec 3) (c : BitVec 2) (a : BitVec 5) (b : BitVec 5)
  /-- CEQI, R196: Compares for equality with a 10-bit immediate. -/
  | ceqi (q : BitVec 3) (c : BitVec 2) (a : BitVec 5) (i : BitVec 10)
  /-- CNEI, R196: Compares for inequality with an immediate. -/
  | cnei (q : BitVec 3) (c : BitVec 2) (a : BitVec 5) (i : BitVec 10)
  /-- CLTI, R196: Signed less-than with an immediate. -/
  | clti (q : BitVec 3) (c : BitVec 2) (a : BitVec 5) (i : BitVec 10)
  /-- CGEI, R196: Signed greater-or-equal with an immediate. -/
  | cgei (q : BitVec 3) (c : BitVec 2) (a : BitVec 5) (i : BitVec 10)
  /-- CLTNI, R196: Unsigned less-than with a sign-extended immediate. -/
  | cltni (q : BitVec 3) (c : BitVec 2) (a : BitVec 5) (i : BitVec 10)
  /-- CGENI, R196: Unsigned greater-or-equal with a sign-extended immediate. -/
  | cgeni (q : BitVec 3) (c : BitVec 2) (a : BitVec 5) (i : BitVec 10)
  /-- QAND, R196: Ands two condition registers. -/
  | qand (q : BitVec 3) (c : BitVec 2) (a : BitVec 3) (b : BitVec 3)
  /-- QOR, R196: Ors two condition registers. -/
  | qor (q : BitVec 3) (c : BitVec 2) (a : BitVec 3) (b : BitVec 3)
  /-- QNOT, R196: Inverts a condition register. -/
  | qnot (q : BitVec 3) (c : BitVec 2) (a : BitVec 3)
  /-- QPACK, R198: Packs q0 to q7 into a general register. -/
  | qpack (a : BitVec 5)
  /-- QUNPACK, R198: Loads q1 to q7 from bits [7:1] of a general register. -/
  | qunpack (a : BitVec 5)
  /-- PREP, R309: Prepares a branch-target register PC-relative and starts its window fetch unchecked. -/
  | prep (b : BitVec 3) (i : BitVec 21)
  /-- PREPC, R309: Prepares a branch-target register PC-relative with translation checks raised at once. -/
  | prepc (b : BitVec 3) (i : BitVec 21)
  /-- PREPR, R309: Prepares a branch-target register from g[a] plus an offset. -/
  | prepr (b : BitVec 3) (a : BitVec 5) (i : BitVec 12)
  /-- PREPRC, R309: Register-relative prepare with checks raised at once. -/
  | preprc (b : BitVec 3) (a : BitVec 5) (i : BitVec 12)
  /-- BTRD, R309: Reads the image of a branch-target register. -/
  | btrd (d : BitVec 5) (b : BitVec 3)
  /-- BTCLR, R309: Invalidates a branch-target register, keeping its target. -/
  | btclr (b : BitVec 3)
  /-- JMP, R311: Conditionally transfers through a branch-target register, waiting for or refetching its window. -/
  | jmp (b : BitVec 3) (q : BitVec 3) (s : BitVec 1)
  /-- CALL, R311: Conditional transfer that writes the return address to g1. -/
  | call (b : BitVec 3) (q : BitVec 3) (s : BitVec 1)
  /-- JMPX, R311: Conditional transfer that invalidates the register after use. -/
  | jmpx (b : BitVec 3) (q : BitVec 3) (s : BitVec 1)
  /-- LSET, R318: Sets a hardware loop with a register count, skipping the body when the count is zero. -/
  | lset (s : BitVec 1) (a : BitVec 5) (i : BitVec 12)
  /-- LSETI, R318: Sets a hardware loop with an immediate count. -/
  | lseti (s : BitVec 1) (n : BitVec 9) (i : BitVec 12)
  /-- LRD, R318: Reads a loop register. -/
  | lrd (d : BitVec 5) (r : BitVec 2) (e : BitVec 1)
  /-- LWR, R318: Writes a loop register, preparing the loop window when ls is written. -/
  | lwr (a : BitVec 5) (r : BitVec 2) (e : BitVec 1)
  /-- LBRK, R318: Ends a loop set by clearing its count. -/
  | lbrk (e : BitVec 1)
  /-- LDB, R202: Loads a sign-extended byte after the checks of R201. -/
  | ldb (d : BitVec 5) (a : BitVec 5) (m : BitVec 2) (r : BitVec 2) (o : BitVec 9)
  /-- LDH, R202: Loads a sign-extended halfword. -/
  | ldh (d : BitVec 5) (a : BitVec 5) (m : BitVec 2) (r : BitVec 2) (o : BitVec 9)
  /-- LDW, R202: Loads a sign-extended word. -/
  | ldw (d : BitVec 5) (a : BitVec 5) (m : BitVec 2) (r : BitVec 2) (o : BitVec 9)
  /-- LDD, R202: Loads a doubleword. -/
  | ldd (d : BitVec 5) (a : BitVec 5) (m : BitVec 2) (r : BitVec 2) (o : BitVec 9)
  /-- LDBN, R202: Loads a zero-extended byte. -/
  | ldbn (d : BitVec 5) (a : BitVec 5) (m : BitVec 2) (r : BitVec 2) (o : BitVec 9)
  /-- LDHN, R202: Loads a zero-extended halfword. -/
  | ldhn (d : BitVec 5) (a : BitVec 5) (m : BitVec 2) (r : BitVec 2) (o : BitVec 9)
  /-- LDWN, R202: Loads a zero-extended word. -/
  | ldwn (d : BitVec 5) (a : BitVec 5) (m : BitVec 2) (r : BitVec 2) (o : BitVec 9)
  /-- LDQ, R202: Loads 16 bytes into an even register pair. -/
  | ldq (d : BitVec 4) (a : BitVec 5) (m : BitVec 2) (r : BitVec 2) (o : BitVec 9)
  /-- STB, R203: Stores a byte into the store buffer after the checks of R201. -/
  | stb (d : BitVec 5) (a : BitVec 5) (m : BitVec 2) (r : BitVec 2) (o : BitVec 9)
  /-- STH, R203: Stores a halfword. -/
  | sth (d : BitVec 5) (a : BitVec 5) (m : BitVec 2) (r : BitVec 2) (o : BitVec 9)
  /-- STW, R203: Stores a word. -/
  | stw (d : BitVec 5) (a : BitVec 5) (m : BitVec 2) (r : BitVec 2) (o : BitVec 9)
  /-- STD, R203: Stores a doubleword. -/
  | std (d : BitVec 5) (a : BitVec 5) (m : BitVec 2) (r : BitVec 2) (o : BitVec 9)
  /-- STQ, R203: Stores an even register pair as 16 bytes. -/
  | stq (d : BitVec 4) (a : BitVec 5) (m : BitVec 2) (r : BitVec 2) (o : BitVec 9)
  /-- AADD, R302: Atomic 64-bit add returning the old value. -/
  | aadd (d : BitVec 5) (a : BitVec 5) (b : BitVec 5) (p : BitVec 2) (s : BitVec 3)
  /-- AAND, R302: Atomic 64-bit and. -/
  | aand (d : BitVec 5) (a : BitVec 5) (b : BitVec 5) (p : BitVec 2) (s : BitVec 3)
  /-- AOR, R302: Atomic 64-bit or. -/
  | aor (d : BitVec 5) (a : BitVec 5) (b : BitVec 5) (p : BitVec 2) (s : BitVec 3)
  /-- AXOR, R302: Atomic 64-bit xor. -/
  | axor (d : BitVec 5) (a : BitVec 5) (b : BitVec 5) (p : BitVec 2) (s : BitVec 3)
  /-- AMIN, R302: Atomic 64-bit signed minimum. -/
  | amin (d : BitVec 5) (a : BitVec 5) (b : BitVec 5) (p : BitVec 2) (s : BitVec 3)
  /-- AMAX, R302: Atomic 64-bit signed maximum. -/
  | amax (d : BitVec 5) (a : BitVec 5) (b : BitVec 5) (p : BitVec 2) (s : BitVec 3)
  /-- AMINN, R302: Atomic 64-bit unsigned minimum. -/
  | aminn (d : BitVec 5) (a : BitVec 5) (b : BitVec 5) (p : BitVec 2) (s : BitVec 3)
  /-- AMAXN, R302: Atomic 64-bit unsigned maximum. -/
  | amaxn (d : BitVec 5) (a : BitVec 5) (b : BitVec 5) (p : BitVec 2) (s : BitVec 3)
  /-- ASWAP, R302: Atomic 64-bit swap. -/
  | aswap (d : BitVec 5) (a : BitVec 5) (b : BitVec 5) (p : BitVec 2) (s : BitVec 3)
  /-- ACAS, R302: Atomic 64-bit compare-and-swap against g[d]. -/
  | acas (d : BitVec 5) (a : BitVec 5) (b : BitVec 5) (p : BitVec 2) (s : BitVec 3)
  /-- AFADDS, R302: Atomic F32 add rounded by FRM. -/
  | afadds (d : BitVec 5) (a : BitVec 5) (b : BitVec 5) (p : BitVec 2) (s : BitVec 3)
  /-- AFADDD, R302: Atomic F64 add rounded by FRM. -/
  | afaddd (d : BitVec 5) (a : BitVec 5) (b : BitVec 5) (p : BitVec 2) (s : BitVec 3)
  /-- AADD_W, R302: Atomic 32-bit add. -/
  | aaddW (d : BitVec 5) (a : BitVec 5) (b : BitVec 5) (p : BitVec 2) (s : BitVec 3)
  /-- AAND_W, R302: Atomic 32-bit and. -/
  | aandW (d : BitVec 5) (a : BitVec 5) (b : BitVec 5) (p : BitVec 2) (s : BitVec 3)
  /-- AOR_W, R302: Atomic 32-bit or. -/
  | aorW (d : BitVec 5) (a : BitVec 5) (b : BitVec 5) (p : BitVec 2) (s : BitVec 3)
  /-- AXOR_W, R302: Atomic 32-bit xor. -/
  | axorW (d : BitVec 5) (a : BitVec 5) (b : BitVec 5) (p : BitVec 2) (s : BitVec 3)
  /-- AMIN_W, R302: Atomic 32-bit signed minimum. -/
  | aminW (d : BitVec 5) (a : BitVec 5) (b : BitVec 5) (p : BitVec 2) (s : BitVec 3)
  /-- AMAX_W, R302: Atomic 32-bit signed maximum. -/
  | amaxW (d : BitVec 5) (a : BitVec 5) (b : BitVec 5) (p : BitVec 2) (s : BitVec 3)
  /-- AMINN_W, R302: Atomic 32-bit unsigned minimum. -/
  | aminnW (d : BitVec 5) (a : BitVec 5) (b : BitVec 5) (p : BitVec 2) (s : BitVec 3)
  /-- AMAXN_W, R302: Atomic 32-bit unsigned maximum. -/
  | amaxnW (d : BitVec 5) (a : BitVec 5) (b : BitVec 5) (p : BitVec 2) (s : BitVec 3)
  /-- ASWAP_W, R302: Atomic 32-bit swap. -/
  | aswapW (d : BitVec 5) (a : BitVec 5) (b : BitVec 5) (p : BitVec 2) (s : BitVec 3)
  /-- ACAS_W, R302: Atomic 32-bit compare-and-swap. -/
  | acasW (d : BitVec 5) (a : BitVec 5) (b : BitVec 5) (p : BitVec 2) (s : BitVec 3)
  /-- FENCE, R303: Orders earlier against later accesses at a scope, waiting for the earlier side. -/
  | fence (k : BitVec 2) (s : BitVec 3)
  /-- IFENCE, R305: Waits for own stores, marks every window stale and refetches the next instruction. -/
  | ifence
  /-- QFENCE, R304: Creates a join between the thread's named command queues without waiting. -/
  | qfence (a : BitVec 5)
  /-- FADDD, R211: F64 add, or FS64 add in rational mode. -/
  | faddd (d : BitVec 5) (a : BitVec 5) (b : BitVec 5) (r : BitVec 3) (o : BitVec 1)
  /-- FSUBD, R211: F64 subtract, or FS64 in rational mode. -/
  | fsubd (d : BitVec 5) (a : BitVec 5) (b : BitVec 5) (r : BitVec 3) (o : BitVec 1)
  /-- FMULD, R211: F64 multiply, or FS64 in rational mode. -/
  | fmuld (d : BitVec 5) (a : BitVec 5) (b : BitVec 5) (r : BitVec 3) (o : BitVec 1)
  /-- FDIVD, R211: F64 divide, or FS64 in rational mode. -/
  | fdivd (d : BitVec 5) (a : BitVec 5) (b : BitVec 5) (r : BitVec 3) (o : BitVec 1)
  /-- FSQRTD, R211: F64 square root; illegal in rational mode. -/
  | fsqrtd (d : BitVec 5) (a : BitVec 5) (r : BitVec 3) (o : BitVec 1)
  /-- FMIND, R212: F64 or FS64 minimum. -/
  | fmind (d : BitVec 5) (a : BitVec 5) (b : BitVec 5)
  /-- FMAXD, R212: F64 or FS64 maximum. -/
  | fmaxd (d : BitVec 5) (a : BitVec 5) (b : BitVec 5)
  /-- FMAD, R211: F64 or FS64 fused multiply-add rounded once by FRM. -/
  | fmad (d : BitVec 5) (a : BitVec 5) (b : BitVec 5) (c : BitVec 5)
  /-- FABSD, R212: F64 or FS64 absolute value. -/
  | fabsd (d : BitVec 5) (a : BitVec 5)
  /-- FNEGD, R212: F64 or FS64 negation. -/
  | fnegd (d : BitVec 5) (a : BitVec 5)
  /-- FCLASSD, R213: Classifies an F64 or FS64 operand. -/
  | fclassd (d : BitVec 5) (a : BitVec 5)
  /-- FCEQD, R212: F64 or FS64 equality compare into g[d]. -/
  | fceqd (d : BitVec 5) (a : BitVec 5) (b : BitVec 5)
  /-- FCLTD, R212: F64 or FS64 less-than compare. -/
  | fcltd (d : BitVec 5) (a : BitVec 5) (b : BitVec 5)
  /-- FCLED, R212: F64 or FS64 less-or-equal compare. -/
  | fcled (d : BitVec 5) (a : BitVec 5) (b : BitVec 5)
  /-- FADDS, R211: F32 add. -/
  | fadds (d : BitVec 5) (a : BitVec 5) (b : BitVec 5) (r : BitVec 3) (o : BitVec 1)
  /-- FSUBS, R211: F32 subtract. -/
  | fsubs (d : BitVec 5) (a : BitVec 5) (b : BitVec 5) (r : BitVec 3) (o : BitVec 1)
  /-- FMULS, R211: F32 multiply. -/
  | fmuls (d : BitVec 5) (a : BitVec 5) (b : BitVec 5) (r : BitVec 3) (o : BitVec 1)
  /-- FDIVS, R211: F32 divide. -/
  | fdivs (d : BitVec 5) (a : BitVec 5) (b : BitVec 5) (r : BitVec 3) (o : BitVec 1)
  /-- FSQRTS, R211: F32 square root. -/
  | fsqrts (d : BitVec 5) (a : BitVec 5) (r : BitVec 3) (o : BitVec 1)
  /-- FMINS, R212: F32 minimum. -/
  | fmins (d : BitVec 5) (a : BitVec 5) (b : BitVec 5)
  /-- FMAXS, R212: F32 maximum. -/
  | fmaxs (d : BitVec 5) (a : BitVec 5) (b : BitVec 5)
  /-- FMAS, R211: F32 fused multiply-add. -/
  | fmas (d : BitVec 5) (a : BitVec 5) (b : BitVec 5) (c : BitVec 5)
  /-- FABSS, R212: F32 absolute value. -/
  | fabss (d : BitVec 5) (a : BitVec 5)
  /-- FNEGS, R212: F32 negation. -/
  | fnegs (d : BitVec 5) (a : BitVec 5)
  /-- FCLASSS, R213: Classifies an F32 operand. -/
  | fclasss (d : BitVec 5) (a : BitVec 5)
  /-- FCEQS, R212: F32 equality compare. -/
  | fceqs (d : BitVec 5) (a : BitVec 5) (b : BitVec 5)
  /-- FCLTS, R212: F32 less-than compare. -/
  | fclts (d : BitVec 5) (a : BitVec 5) (b : BitVec 5)
  /-- FCLES, R212: F32 less-or-equal compare. -/
  | fcles (d : BitVec 5) (a : BitVec 5) (b : BitVec 5)
  /-- FCVT, R215: Converts between floating and FS64 formats under FRM. -/
  | fcvt (d : BitVec 5) (a : BitVec 5) (b : BitVec 5) (c : BitVec 5)
  /-- ICVTF, R215: Converts an integer to a floating or FS64 format. -/
  | icvtf (d : BitVec 5) (a : BitVec 5) (b : BitVec 5) (c : BitVec 5)
  /-- FCVTI, R216: Converts a floating or FS64 value to an integer with clamping. -/
  | fcvti (d : BitVec 5) (a : BitVec 5) (b : BitVec 5) (c : BitVec 5)
  /-- RMODE, R217: Swaps the rational-mode bit with g[a][0]. -/
  | rmode (d : BitVec 5) (a : BitVec 5)
  /-- RMAKE, R222: Makes an FS64 value from a numerator and denominator. -/
  | rmake (d : BitVec 5) (a : BitVec 5) (b : BitVec 5) (r : BitVec 3) (o : BitVec 1)
  /-- RNUMER, R222: Returns the signed numerator of an FS64 value. -/
  | rnumer (d : BitVec 5) (a : BitVec 5)
  /-- RDENOM, R222: Returns the denominator of an FS64 value. -/
  | rdenom (d : BitVec 5) (a : BitVec 5)
  /-- RMED, R222: Forms the rounded mediant of two FS64 values. -/
  | rmed (d : BitVec 5) (a : BitVec 5) (b : BitVec 5) (r : BitVec 3) (o : BitVec 1)
  /-- RCF, R222: Performs one continued-fraction step into a register pair. -/
  | rcf (d : BitVec 4) (a : BitVec 5)
  /-- RFROMD, R222: Converts F64 to FS64. -/
  | rfromd (d : BitVec 5) (a : BitVec 5) (r : BitVec 3) (o : BitVec 1)
  /-- RTOD, R222: Converts FS64 to F64. -/
  | rtod (d : BitVec 5) (a : BitVec 5) (r : BitVec 3) (o : BitVec 1)
  /-- TSPAWN, R328: Spawns an ordered task with a timestamp and a hint, waiting for the target tile's answer. -/
  | tspawn (q : BitVec 3) (a : BitVec 5) (b : BitVec 5) (c : BitVec 5)
  /-- TSPAWNN, R328: Spawns an ordered task to the least-loaded tile. -/
  | tspawnn (q : BitVec 3) (a : BitVec 5) (b : BitVec 5)
  /-- TSPAWNU, R328: Spawns an unordered task, which the target may refuse. -/
  | tspawnu (q : BitVec 3) (a : BitVec 5) (b : BitVec 5)
  /-- CALLAT, R328: Spawns an unordered task at the home tile of an address. -/
  | callat (q : BitVec 3) (a : BitVec 5) (b : BitVec 5)
  /-- TDONE, R345: Waits for pending commands and the store buffer, then finishes the task or thread. -/
  | tdone
  /-- TTS, R344: Reads the timestamp and tiebreak into a register pair. -/
  | tts (d : BitVec 4)
  /-- TGVT, R344: Reads a domain's published GVT as an acquire. -/
  | tgvt (d : BitVec 4) (a : BitVec 5)
  /-- LNCH, R366: Submits a launch descriptor to a launch queue. -/
  | lnch (q : BitVec 3) (a : BitVec 5) (b : BitVec 5)
  /-- TIDLEQ, R374: Reads whether quiescence of a domain is declared. -/
  | tidleq (d : BitVec 5) (a : BitVec 5)
  /-- MSEND, R347: Sends a message to a thread handle and waits for the answer. -/
  | msend (q : BitVec 3) (a : BitVec 5) (b : BitVec 5)
  /-- MSENDT, R347: Sends a message stamped with VTIME. -/
  | msendt (q : BitVec 3) (a : BitVec 5) (b : BitVec 5)
  /-- MRECV, R348: Takes the lowest-timestamp message from the inbox. -/
  | mrecv (d : BitVec 5) (a : BitVec 5) (b : BitVec 5) (c : BitVec 3)
  /-- MWAIT, R349: Waits until the inbox holds a message. -/
  | mwait
  /-- MARM, R350: Arms or disarms a wake-table tag with a handle and priority. -/
  | marm (a : BitVec 5) (b : BitVec 5)
  /-- RQPUT, R352: Pushes a handle into the core's ready queue. -/
  | rqput (a : BitVec 5) (b : BitVec 5) (c : BitVec 3)
  /-- RQTAKE, R352: Takes the oldest handle of the highest non-empty level, releasing pending tags. -/
  | rqtake (d : BitVec 5) (c : BitVec 3)
  /-- KBIN, R253: Configures the core's receiving unit after pending elements are applied. -/
  | kbin (a : BitVec 5) (b : BitVec 5)
  /-- KDRAIN, R253: Waits until the thread's KSEND elements are applied. -/
  | kdrain
  /-- GNEW, R353: Creates an empty group on the issuing die. -/
  | gnew (d : BitVec 5) (c : BitVec 3)
  /-- GJOIN, R353: Adds the calling thread to a group. -/
  | gjoin (a : BitVec 5) (c : BitVec 3)
  /-- GLEAVE, R353: Removes the calling thread from a group. -/
  | gleave (a : BitVec 5)
  /-- GBAR, R354: Arrives at a group barrier and waits for every current member. -/
  | gbar (a : BitVec 5)
  /-- GCOUNT, R353: Reads the number of members of a group. -/
  | gcount (d : BitVec 5) (a : BitVec 5)
  /-- GFREE, R353: Frees an empty group. -/
  | gfree (a : BitVec 5)
  /-- QNEW, R179: Creates a hardware queue between two cores. -/
  | qnew (d : BitVec 5) (a : BitVec 5) (b : BitVec 5) (c : BitVec 3)
  /-- QBIND, R179: Binds a queue end to one of g28 to g31. -/
  | qbind (a : BitVec 5) (b : BitVec 5)
  /-- QUNBIND, R179: Unbinds a queue end and optionally frees the queue. -/
  | qunbind (a : BitVec 5) (b : BitVec 5)
  /-- QCNT, R181: Reads the number of words in a queue. -/
  | qcnt (d : BitVec 5) (a : BitVec 5)
  /-- QTRY, R181: Pops one word if the queue holds one, never waiting. -/
  | qtry (d : BitVec 5) (a : BitVec 5) (c : BitVec 3)
  /-- TDEF, R75: Checks and writes a tensor-table entry, dropping the local cached copy. -/
  | tdef (a : BitVec 5) (b : BitVec 5)
  /-- TRD, R75: Reads a dword of a cached tensor-table entry. -/
  | trd (d : BitVec 5) (a : BitVec 5) (b : BitVec 5)
  /-- TINV, R75: Drops tensor-cache entries over a scope and waits for acknowledgement. -/
  | tinv (a : BitVec 5) (s : BitVec 3)
  /-- LUTLD, R75: Loads the core's 16-entry code table. -/
  | lutld (a : BitVec 5) (b : BitVec 5)
  /-- LUTRD, R75: Reads half of the core's code table. -/
  | lutrd (d : BitVec 5) (a : BitVec 5)
  /-- CRR, R382: Reads a control register. -/
  | crr (d : BitVec 5) (b : BitVec 5) (c : BitVec 5)
  /-- CRW, R382: Writes a control register, returning its old value. -/
  | crw (d : BitVec 5) (a : BitVec 5) (b : BitVec 5) (c : BitVec 5)
  /-- CRS, R382: Sets bits of a control register. -/
  | crs (d : BitVec 5) (a : BitVec 5) (b : BitVec 5) (c : BitVec 5)
  /-- CRC, R382: Clears bits of a control register. -/
  | crc (d : BitVec 5) (a : BitVec 5) (b : BitVec 5) (c : BitVec 5)
  /-- TRAP, R386: Raises cause 0.8 with TVAL from g[a]. -/
  | trap (a : BitVec 5)
  /-- ERET, R386: Returns from a trap through a refetched branch-target register, restoring mode. -/
  | eret (b : BitVec 3)
  /-- WFI, R386: Waits for an enabled interrupt or a message. -/
  | wfi
  /-- TLBI, R99: Posts translation drops to every tile and die. -/
  | tlbi (a : BitVec 5) (b : BitVec 5)
  /-- TLBSYNC, R100: Waits until earlier drops and accesses through dropped entries complete. -/
  | tlbsync
  /-- CTXPARK, R392: Writes the thread's context image and frees its slot. -/
  | ctxpark (a : BitVec 5) (b : BitVec 5)
  /-- CTXLOAD, R393: Checks a context image and resumes its thread on the core. -/
  | ctxload (q : BitVec 3) (a : BitVec 5)
  /-- BRKPT, R386: Raises cause 0.9 at its own address. -/
  | brkpt
  /-- MONRD, R417: Reads an item of a tile or die monitor, optionally emptying it. -/
  | monrd (d : BitVec 5) (a : BitVec 5)
  deriving DecidableEq, Repr

end Sys2Proof
end

