-- ==== Sys2Proof/Machine/State.lean ====
section
/-! DEFINITION. The state of the whole device as plain data, and the state after reset. Every piece of state the manual
gives the machine is a field; the docstring of a field names its rule and its reset value. Keyed lists hold the
components that differ from their reset value, keyed by the numbers of Syntax.lean. -/

namespace Sys2Proof.Machine

open Host (Cell)

/-- What a fault or violation carries: the code source × 64 + cause (R11), the value for TVAL and whether it is a
violation, which freezes, or a fault, which traps (R47, R387). -/
structure Cause where
  /-- source × 64 + cause (R11). -/
  code : Nat
  /-- The value TVAL takes (R456). -/
  tval : Word
  /-- A violation freezes its master (R388). -/
  violation : Bool
  deriving DecidableEq, Repr

/-- A fetch of instruction bytes on its way: the identity of the thread when the instruction that started it issued (R84, R309;
log 101), and what a walk has answered it. -/
structure FetchId where
  /-- Privilege mode. -/
  mode : BitVec 2
  /-- ASID. -/
  asid : Nat
  /-- PTBASE. -/
  ptbase : Word
  /-- The failure of a walk that the fetch asked for: virtual page and cause (R94). -/
  walkFail : Option (Nat × Cause) := none
  deriving DecidableEq, Repr

/-- A 64-byte fetch window (R306, R315, R317): the bytes with the physical addresses they were read at. -/
inductive Window where
  /-- No fetch. -/
  | none
  /-- The fetch is on its way, translated and checked under the recorded identity (R309). -/
  | inFlight (id : FetchId)
  /-- All bytes are held, fetched under the recorded mode. -/
  | ready (mode : BitVec 2) (cells : List Cell)
  /-- The fetch failed; the failure is held (R306). -/
  | failed (mode : BitVec 2) (f : Cause)
  deriving DecidableEq, Repr

/-- A branch-target register: its image (R35) and its window (R306). -/
structure BtReg where
  /-- Target virtual address (R35; reset 0). -/
  target : BitVec 56
  /-- Prepared (R35; reset 0). -/
  v : Bool
  /-- Stale (R35; reset 0). -/
  s : Bool
  /-- The fetch window (R306; reset none). -/
  win : Window
  deriving DecidableEq, Repr

/-- A hardware-loop set (R317). -/
structure LoopSet where
  /-- Remaining trip count (R34; reset 0). -/
  lc : BitVec 32
  /-- First address of the body (R34; reset 0). -/
  ls : BitVec 56
  /-- Address of the body's last instruction (R34; reset 0). -/
  le : BitVec 56
  /-- The loop window is stale (R314; reset stale). -/
  stale : Bool
  /-- The 64-byte loop window (R317; reset none). -/
  win : Window
  deriving DecidableEq, Repr

/-- The fetch buffer: consecutive instruction bytes from a virtual address on (R313). -/
structure FetchBuffer where
  /-- Virtual address of the first byte held. -/
  base : Nat
  /-- The bytes, with the physical addresses they were read at. -/
  cells : List Cell
  /-- The held failure of the fetch of the byte after them (R313). -/
  fail : Option Cause
  /-- The failure of a walk that the fetch of that byte asked for: virtual page and cause (R94). -/
  walkFail : Option (Nat × Cause) := none
  deriving DecidableEq, Repr

/-- The binding of one of g28 to g31 to a queue end (R179). -/
structure Binding where
  /-- Queue identifier (R177). -/
  queue : BitVec 11
  /-- false: the consumer end; true: the producer end. -/
  producer : Bool
  deriving DecidableEq, Repr

/-- An active stream of one of g24 to g27 or v28 to v31 (R173 to R176). -/
structure Stream where
  /-- Output stream (CSTRMX). -/
  output : Bool
  /-- The channel that serves it, 0 to 15. -/
  ch : Nat
  /-- The pattern descriptor (R174). -/
  pat : BitVec 256
  /-- Ring offset in own local memory. -/
  ring : Nat
  /-- Ring size in bytes. -/
  size : Nat
  /-- Elements the channel has moved: into the ring (input) or out of it (output). -/
  moved : Nat
  /-- Elements the thread has taken (input) or pushed (output). -/
  used : Nat
  deriving DecidableEq, Repr

/-- What a store-buffer entry is (R204, R288). -/
inductive StoreKind where
  | plain
  | release
  | nonTemporal
  deriving DecidableEq, Repr

/-- One store-buffer entry (R288). -/
structure StoreEntry where
  /-- Physical address of the first byte. -/
  pa : Nat
  /-- The bytes, lowest address first. -/
  bytes : List Byte
  /-- Plain, release or .nt. -/
  kind : StoreKind
  /-- Whether the page is cacheable (R90). -/
  cacheable : Bool
  /-- ASID of the thread when the store issued (R100). -/
  asid : Nat
  /-- The store's address operand, for the TVAL of a fault that it meets when it performs (R147). -/
  va : Word
  /-- Address of the store instruction, for the EPC of that fault (R201; log 17). -/
  pc : Word
  /-- The fence epoch the entry was made in: it performs after every entry of an earlier epoch (R288). -/
  epoch : Nat
  /-- Order of the entry among the device's stores, commands and transfers. -/
  seq : Nat
  deriving DecidableEq, Repr

/-- A message in an inbox (R347, R348). -/
structure Message where
  /-- Payload. -/
  payload : Word
  /-- Timestamp flag: MSENDT, or a freeze report (R348, R389). -/
  tsFlag : Bool
  /-- Channel. -/
  ch : BitVec 2
  /-- Tag. -/
  tag : BitVec 6
  /-- Sender's handle. -/
  sender : BitVec 15
  /-- Timestamp word. -/
  ts : Word
  deriving DecidableEq, Repr

/-- A fault that a unit holds for a thread (R121, R171, R234, R279): cause code and recorded address. -/
structure HeldFault where
  /-- source × 64 + cause. -/
  code : Nat
  /-- The recorded address. -/
  addr : Word
  /-- Number of the command or transfer. -/
  seq : Nat
  deriving DecidableEq, Repr

/-- A frozen command's report to its issuing thread, waiting for its boundary (R389). -/
structure AsyncReport where
  /-- CAUSE.MASTER: 1 copy transfer, 2 stack, 3 matrix, 4 vector. -/
  master : Nat
  /-- CAUSE.CH. -/
  ch : Nat
  /-- The code of the breach. -/
  code : Nat
  /-- The breaching address. -/
  addr : Word
  deriving DecidableEq, Repr

/-- Why a slot is out of rotation (R19). -/
inductive Wait where
  | memoryReply
  | watermark
  | queue
  | window
  | fetch
  | rational
  | mwait
  | wfi
  | gbar
  | cwait
  | sfence
  | mfence
  | vfence
  | kdrain
  | tdone
  | tlbsync
  | escalation
  deriving DecidableEq, Repr

/-- The kind of work a slot holds (R321, R368). -/
inductive SlotKind where
  | empty
  | persistent
  | ordered
  | unordered
  deriving DecidableEq, Repr

/-- A task as it travels, waits or runs (R328, R332). -/
structure Task where
  /-- The model's own number of the task, by which a parent knows its children. -/
  uid : Nat
  /-- Ordered, or unordered. -/
  ordered : Bool
  /-- Function address. -/
  func : Word
  /-- Timestamp; all ones for an unordered task. -/
  ts : Word
  /-- Tiebreak, once first dispatched (R324). -/
  tiebreak : Option Word
  /-- Hint; none for a task without one. -/
  hint : Option (BitVec 32)
  /-- What g8 receives (R332): hint, all ones, or the CALLAT address. -/
  g8 : Word
  /-- g4 to g7. -/
  args : Vector Word 4
  /-- Domain. -/
  dom : Nat
  /-- TDOMAIN.EN given to an unordered task (R323). -/
  domEn : Bool
  /-- Launch queue whose attributes the task takes (R332). -/
  queue : Nat
  /-- Priority (R371). -/
  prio : Nat
  /-- The launch that counts the task as a piece (R363). -/
  launch : Option Nat
  /-- The parent's task number. -/
  parent : Option Nat
  /-- Order of arrival at its tile. -/
  arrival : Nat
  deriving DecidableEq, Repr

/-- Who requests an access: a non-speculative agent, a read of a tensor-table entry, which no signature is checked against, or a
speculative task of a domain with its key and entry (R124, R335, R336). -/
inductive Requester where
  | nonSpec
  | table
  | spec (dom : Nat) (key : Word × Word) (tile entry : Nat)
  deriving DecidableEq, Repr

/-- The stage of a task that holds a commit-queue entry (R341, R345). -/
inductive EntryStage where
  | running
  | finished
  | aborting
  deriving DecidableEq, Repr

/-- A commit-queue entry (R333 to R345). -/
structure CommitEntry where
  /-- The task. -/
  task : Task
  /-- The slot it was dispatched on. -/
  slot : Nat
  /-- Running, finished or aborting. -/
  stage : EntryStage
  /-- Read signature (R334). -/
  sigR : BitVec 1024
  /-- Write signature (R334). -/
  sigW : BitVec 1024
  /-- The blocks the task has read, exactly: by them the model keeps R298 where no message reaches the task's core
  (log 16). -/
  reads : List Nat
  /-- Block addresses of the crumbs, latest first (R339). -/
  crumbs : List Nat
  /-- Irrevocable (R326). -/
  irrevocable : Bool
  /-- The held fault or violation (R345). -/
  held : Option Cause
  /-- Numbers of the children spawned and not yet committed or discarded (R328, R341). -/
  children : List Nat
  /-- Aborted as a child: discarded when the abort ends (R341). -/
  discard : Bool
  /-- The tile to requeue on, for a migratory abort (R329). -/
  requeueTile : Option Nat
  deriving DecidableEq, Repr

/-- A group instruction on its way to the die that holds the group (R353, R453). -/
inductive GroupOp where
  | new (d : BitVec 5)
  | join
  | leave
  | count (d : BitVec 5)
  | free
  deriving DecidableEq, Repr

/-- What a target tile did with a spawned task (R328, R330). -/
inductive SpawnResult where
  | taken
  | refused
  /-- The spill that the task's arrival caused found no room (R330). -/
  | spillFull
  deriving DecidableEq, Repr

/-- What an atomic does to its bytes (R302). -/
inductive AtomicKind where
  | add
  | and
  | or
  | xor
  | min
  | max
  | minn
  | maxn
  | swap
  | cas
  | addF
  deriving DecidableEq, Repr

/-- What a slot has sent (R328, R347, R353, R366) or an operation it awaits (R219). -/
inductive Request where
  /-- A spawn to a tile, and the target's result once it has arrived. -/
  | spawn (tile : Nat) (t : Task) (res : Option SpawnResult)
  /-- A message to a handle, and the destination's answer once it has one. -/
  | message (dst : Nat) (m : Message) (res : Option Bool)
  /-- A group instruction. -/
  | group (op : GroupOp)
  /-- LNCH, accepted or refused. -/
  | lnch (accepted : Bool)
  /-- An atomic that has left its core: its operation, destination and number of bytes, the captured g[b] and g[d], the physical
  address, and once it has performed the old value and the FSTAT flags (R301, R395). -/
  | atomic (op : AtomicKind) (d : BitVec 5) (n : Nat) (v e : Word) (pa : Nat) (res : Option (Nat × Word))
  /-- A rational operation: its results, and its FSTAT and RSTAT flags. -/
  | rational (ws : List (BitVec 5 × Word)) (fs rs : Word)
  deriving DecidableEq, Repr

/-- The answer a slot awaits. -/
structure Outstanding where
  /-- What was sent. -/
  req : Request
  /-- Source registers, popped when the instruction retires (R180). -/
  srcs : List (BitVec 5)
  /-- g[a], for TVAL (R456). -/
  ga : Word
  /-- The condition register that receives the answer. -/
  qd : BitVec 3
  deriving DecidableEq, Repr

/-- A thread's unresolved QFENCE join (R304): for each named queue, the commands accepted before it. -/
structure Join where
  /-- g[a] of the QFENCE. -/
  set : Word
  /-- The command numbers that must complete first. -/
  before : List Nat
  /-- Later commands held by this join are those whose number is at least this. -/
  from_ : Nat
  deriving DecidableEq, Repr

/-- How a saved context is to resume: RSN of SAVEST (R391, R395). -/
inductive Resume where
  /-- 0: at PC. -/
  | atPc
  /-- 1: reissue the instruction at PC. -/
  | reissue
  /-- 2: resume the wait of the instruction at PC. -/
  | wait
  /-- 3: at PC once the answer to the instruction before it is written. -/
  | answer
  deriving DecidableEq, Repr

/-- A saved context's place: a thread that no slot holds (R391, R392, R394). -/
structure Park where
  /-- Physical address of its image, or its cluster-interleaved address; none for a context in migration transit (R375). -/
  image : Option Nat
  /-- The core whose cluster interleaves the image's words, for an image in the .c space (R149, R392). -/
  cluster : Option Nat
  /-- SCHED: saved by the scheduler. -/
  sched : Bool
  /-- RSN. -/
  rsn : Resume
  /-- SAVEST[44:36]: ADST, AQ and AQV. -/
  ans : Nat
  /-- SBCNT: store-buffer entries at capture. -/
  sbcnt : Nat
  /-- The wait it was saved in (R373, R395). -/
  wait : Option Wait
  /-- Parked when it yielded at MWAIT or GBAR: what arrives for it is kept (R370). -/
  yielded : Bool
  deriving DecidableEq, Repr

/-- A slot with the thread it holds, or a saved context. -/
structure Thread where
  /-- Kind of work (R321, LQOWN.KIND of R368; reset empty). -/
  kind : SlotKind
  /-- LQOWN.V (R368; reset 0). -/
  lqV : Bool
  /-- LQOWN.MOVE (R368; reset 0). -/
  lqMove : Bool
  /-- LQOWN.QUEUE (R368; reset 0). -/
  lqQueue : BitVec 12
  /-- Reserved by a forwarding entry that names its old handle (R376; reset no). -/
  reserved : Bool
  /-- The saved context this is; none for a slot (R391; reset none). -/
  park : Option Park
  /-- General registers g0 to g31 (R34; reset 0). -/
  g : Vector Word 32
  /-- Branch-target registers bt0 to bt7 (R34, R35; reset invalid, target 0). -/
  bt : Vector BtReg 8
  /-- Condition registers; bit i is q i, bit 0 holds true (R34, R36; reset 1). -/
  q : BitVec 8
  /-- Hardware-loop sets 0 and 1 (R317; reset 0). -/
  loops : Vector LoopSet 2
  /-- Trap window stale (R315; reset stale). -/
  trapStale : Bool
  /-- Trap window (R315; reset none). -/
  trapWin : Window
  /-- Program counter: address of the next instruction (R21, R391; reset 0, log 10). -/
  pc : Word
  /-- Fetch buffer (R313; reset empty). -/
  fbuf : FetchBuffer
  /-- The window through which the next instruction is entered, while it is awaited: 8 and 9 the loop windows, 10 the
  trap window (R315, R319; reset none). -/
  entering : Option Nat
  /-- The branch-target register whose window the transfer at pc awaits: refetched by it, or in flight when it issued
  (R311; reset none). -/
  refetched : Option Nat
  /-- THSTAT but for its pending bits IPE, IPM, IPT (R378; reset EE = 1, MODE 0). -/
  thstat : Word
  /-- TVEC (R379; reset 0). -/
  tvec : Word
  /-- EPC (R379; reset 0). -/
  epc : Word
  /-- CAUSE (R379; reset 0). -/
  cause : Word
  /-- TVAL (R379; reset 0). -/
  tval : Word
  /-- TIMECMP (R379; reset all ones). -/
  timecmp : Word
  /-- FRZTO (R389; reset 0). -/
  frzto : Word
  /-- THAW.RES (R390; reset 0). -/
  thaw : Word
  /-- ASID (R84; reset 0). -/
  asid : Word
  /-- PTBASE (R84; reset 0). -/
  ptbase : Word
  /-- TTBASE (R67; reset 0). -/
  ttbase : Word
  /-- FRM (R207; reset 0). -/
  frm : Word
  /-- FSTAT (R208; reset 0). -/
  fstat : Word
  /-- RSTAT (R208; reset 0). -/
  rstat : Word
  /-- ESTAT (R120; reset 0). -/
  estat : Word
  /-- CSTAT (R170; reset 0). -/
  cstat : Word
  /-- VSTAT but for REQ and GRANT, which laneReq and grant hold (R230; reset W = 2). -/
  vstat : Word
  /-- VFPC (R230; reset 0). -/
  vfpc : Word
  /-- MSTAT (R278; reset 0). -/
  mstat : Word
  /-- MFPC (R278; reset 0). -/
  mfpc : Word
  /-- TDOMAIN (R323; reset 0). -/
  tdomain : Word
  /-- VTIME (R323; reset all ones). -/
  vtime : Word
  /-- Held faults of the stack, copy, vector and matrix units (R391; reset none). -/
  held : Vector (Option HeldFault) 4
  /-- Inbox, in order of arrival, at most 16 (R348; reset empty). -/
  inbox : List Message
  /-- Bindings of g28 to g31 (R179; reset none). -/
  bind : Vector (Option Binding) 4
  /-- Streams of g24 to g27 and v28 to v31 (R173; reset none). -/
  streams : Vector (Option Stream) 8
  /-- Store buffer, oldest first, at most 8 (R288; reset empty). -/
  sb : List StoreEntry
  /-- Poison faults that stores met when they performed, oldest first: TVAL and EPC; raised at the thread's next boundary (R147,
  R201; log 17; reset none). -/
  storeFaults : List (Word × Word)
  /-- Fence epoch: each FENCE .rel that finds stores waiting begins a new one (R288, R303; reset 0). -/
  epoch : Nat
  /-- Unresolved QFENCE joins, at most 4 (R304; reset none). -/
  joins : List Join
  /-- Drops posted by this thread's TLBIs and not yet synchronised (R99, R100; reset none). -/
  tlbis : List Nat
  /-- What a waiting instruction noted when it issued: the drop whose acknowledgements TINV awaits, for CWAIT the number that every
  transfer accepted before it is below, for WFI the length of the inbox, for MWAIT and GBAR that its yield point has passed without
  a frame (R75, R168, R370, R386; reset none). -/
  posted : Option Nat
  /-- The line whose fill served the thread's waiting load without being installed (R141; reset none). -/
  served : Option Nat
  /-- Why the slot is out of rotation (R19; reset none). -/
  wait : Option Wait
  /-- Which of g28 to g31 a queue wait awaits (R19, R373; reset none). -/
  waitBind : Option (BitVec 2)
  /-- The model's count of progress when the slot last found that it waits (log 1; reset 0). -/
  waitMark : Nat
  /-- The clk from which on the slot may issue again (R184; reset 0). -/
  issueAt : Nat
  /-- The answer the slot awaits (R19, R395; reset none). -/
  outstanding : Option Outstanding
  /-- The failures of the walks that the slot's instruction asked for: virtual pages and causes (R94; reset none). -/
  walkFail : List (Nat × Cause)
  /-- Frozen, with the code and value of the freeze (R388; reset no). -/
  frozen : Option Cause
  /-- A halt is requested: the launch queue that the slot passes to (R371, R394; reset none). -/
  halt : Option Nat
  /-- Reports of frozen commands waiting for a boundary, oldest first (R389; reset none). -/
  reports : List AsyncReport
  /-- The commit-queue entry of an ordered task: its tile and index (R332; reset none). -/
  entry : Option (Nat × Nat)
  /-- The task a task-mode slot runs (R332; reset none). -/
  task : Option Task
  /-- The launch that counts the thread as a piece (R363; reset none). -/
  launch : Option Nat
  /-- Priority of the work (R371; reset 0). -/
  prio : Nat
  /-- When the work started (R371; reset 0). -/
  started : Nat
  /-- Lanes granted to the thread's claim, in lanes; 0 without a claim (R225; reset 0). -/
  grant : Nat
  /-- Lanes requested, the Q of R225; 0 without a claim (reset 0). -/
  laneReq : Nat
  /-- The lanes are renegotiated before the next instruction issues, once the thread's vector commands have executed (R224, R225;
  reset no). -/
  reneg : Bool
  /-- Vector registers v0 to v31, bit string of 64 lanes of 32 bits (R34, R228; reset 0). -/
  v : Vector (BitVec 2048) 32
  /-- Mask registers k0 to k7, one bit per lane (R34; reset 0). -/
  k : Vector (BitVec 64) 8
  deriving DecidableEq, Repr

/-- A cached leaf (R91). -/
structure TlbEntry where
  /-- ASID of the access that filled it. -/
  asid : Nat
  /-- Level of the leaf: 0, 1 or 2 (R86). -/
  level : Nat
  /-- Virtual page number at that level's page size. -/
  vpn : Nat
  /-- The entry's word (R87). -/
  leaf : Word
  /-- Physical address of the entry. -/
  leafPa : Nat
  deriving DecidableEq, Repr

/-- A cached non-leaf entry (R91). -/
structure WalkCacheEntry where
  /-- ASID. -/
  asid : Nat
  /-- Level of the entry: 3, 2 or 1. -/
  level : Nat
  /-- Virtual-address prefix down to that level. -/
  tag : Nat
  /-- Physical address of the next node. -/
  next : Nat
  deriving DecidableEq, Repr

/-- The stage of a walk (R93, R96). -/
inductive WalkStage where
  /-- In the request queue. -/
  | waiting
  /-- In flight. -/
  | walking
  /-- The leaf was found and A or D must be set (R96): the entry's address and word. -/
  | setting (e : TlbEntry)
  /-- Ended with a leaf. -/
  | found (e : TlbEntry)
  deriving DecidableEq, Repr

/-- Who asks a walk unit for a leaf (R93): the instruction of a slot, for data or for an instruction address that it checks; the fetch
of window 0 to 10 of a slot or, as 11, of its fetch buffer; a numbered command, transfer, launch or inbound packet of a core; a stack
command, which has no TLB (R103). -/
inductive WalkAsker where
  | slot (h : Nat) (fetch : Bool)
  | fetch (h win : Nat)
  | agent (n core : Nat)
  | engine (n : Nat)
  deriving DecidableEq, Repr

/-- How a walk ended for an asker. -/
inductive WalkEnd where
  | leaf (e : TlbEntry)
  | failed (c : Cause)
  deriving DecidableEq, Repr

/-- What a walk unit has answered a numbered asker, until it goes on: a failure, or the leaf of a stack command (R94, R103). -/
structure WalkAnswer where
  /-- The asker's number. -/
  num : Nat
  /-- The die of the walk unit. -/
  die : Nat
  /-- Virtual page. -/
  page : Nat
  /-- The answer. -/
  result : WalkEnd
  deriving DecidableEq, Repr

/-- A walk of a die's walk unit (R93). -/
structure Walk where
  /-- ASID. -/
  asid : Nat
  /-- Virtual page, VA[55:16]. -/
  page : Nat
  /-- PTBASE of the requester. -/
  ptbase : Word
  /-- The privilege mode of the first requester, for the reads of R82 (log 86). -/
  mode : BitVec 2
  /-- Whether D must be set (R96). -/
  dirty : Bool
  /-- Who has asked for it. -/
  requesters : List WalkAsker
  /-- Stage. -/
  stage : WalkStage
  /-- A drop reached the unit while the walk was in flight: it installs nothing (R100). -/
  dropped : Bool
  /-- The entry changed under the walk, which reads again from the root, past the walk cache (R96). -/
  fromRoot : Bool
  deriving DecidableEq, Repr

/-- A command of a vector, matrix or stack queue (R109, R231, R260): the instruction with what it captured at
acceptance. -/
structure Command where
  /-- The command's number, in order of acceptance over the device. -/
  seq : Nat
  /-- The instruction. -/
  instr : Instr
  /-- Issuing slot. -/
  slot : Nat
  /-- Address of the instruction. -/
  pc : Word
  /-- g[a] captured. -/
  ga : Word
  /-- g[b] captured. -/
  gb : Word
  /-- FRM captured. -/
  frm : Word
  /-- VSETW default width captured. -/
  width : Nat
  /-- Code table captured (R59). -/
  codes : BitVec 128
  /-- Issuing thread's mode. -/
  mode : BitVec 2
  /-- Issuing thread's ASID. -/
  asid : Nat
  /-- Issuing thread's PTBASE. -/
  ptbase : Word
  /-- Issuing thread's TTBASE. -/
  ttbase : Word
  /-- Tensor entries resolved at acceptance (R73), 512 bits each. -/
  tensors : List (BitVec 512)
  /-- Other values captured: a strip popped from a stream, a table image. -/
  extra : List (BitVec 2048)
  /-- Elements or steps already performed. -/
  done : Nat
  /-- Elements already written of an SXB block that is under way (R117). -/
  part : Nat := 0
  /-- The snapshot, once taken: indices and values (R113). -/
  snap : Option (List (Nat × Word))
  /-- Started (array commands, R281; snapshots; a vector command whose strips are in its registers, R175). -/
  started : Bool
  /-- Frozen at a breach (R122, R234, R280): the code and address. -/
  frozen : Option HeldFault
  deriving DecidableEq, Repr

/-- One update on its way to a key-receiving unit (R251, R252). -/
structure KeyUpdate where
  /-- The thread that sent it, for KDRAIN. -/
  slot : Nat
  /-- The domain of the work that sent it, for the idle tree (R373). -/
  dom : Option Nat := none
  /-- Key. -/
  key : Word
  /-- Value. -/
  value : Word
  deriving DecidableEq, Repr

/-- The state of a line in a cache; a line that is absent is I (R134). -/
inductive LineState where
  | s
  | e
  | m
  deriving DecidableEq, Repr

/-- What a core asks of the directories (R134). -/
inductive Want where
  | gets
  | getm
  | upg
  deriving DecidableEq, Repr

/-- A miss register (R134, R141). -/
structure Miss where
  /-- The line, by physical address / 128. -/
  line : Nat
  /-- The request. -/
  want : Want
  /-- The miss is the instruction cache's. -/
  instr : Bool
  /-- The request has reached the directories. -/
  sent : Bool
  /-- The grant that is on its way as a fill (R135). -/
  granted : Option LineState
  /-- An INV with LATE = 1 has reached it: its fill is not installed (R141). -/
  noInstall : Bool
  /-- A .nt load asked for it: its fill enters L1 least recently used, and the L2 order stays (R204). -/
  nt : Bool
  /-- The slots whose loads have merged into it (R141). -/
  loads : List Nat
  /-- The blocks of the line that the access which took it touches (R124). -/
  mask : BitVec 2
  /-- The requester of that access (R124). -/
  by_ : Requester
  deriving DecidableEq, Repr

/-- A message of a directory to a core that has not been acted on: an INV with its LATE bit, or a FWD (R136, R137,
R141). -/
structure DirMessage where
  /-- The core. -/
  core : Nat
  /-- A forward; otherwise an invalidation. -/
  fwd : Bool
  /-- LATE. -/
  late : Bool
  deriving DecidableEq, Repr

/-- Who asks a home for an access that performs there (R90, R114, R139): a slot's load or atomic, a numbered agent (a store,
command, transfer, launch or inbound packet). -/
inductive Asker where
  | slot (h : Nat)
  | number (n : Nat)
  deriving DecidableEq, Repr

/-- Which entry a recall frees: of a cluster directory or a die directory, a line of a remote-data cache, or an entry of a
package directory, whose line leaves the package (R128, R131, R133). -/
inductive RecallOf where
  | cluster (die cluster : Nat)
  | die (die : Nat)
  | rdc (die : Nat)
  | package
  deriving DecidableEq, Repr

/-- What a transaction of a line serves (R133, R135, R139, R142, R143). -/
inductive TxnKind where
  /-- A core's request, for its data or its instruction cache. -/
  | request (core : Nat) (want : Want) (instr : Bool)
  /-- An access that performs at the home. -/
  | home (who : Asker) (write : Bool)
  /-- A back-invalidate snoop. -/
  | snoop
  /-- A recall that makes room. -/
  | recall (what : RecallOf)
  deriving DecidableEq, Repr

/-- A transaction of a line that the directories serve, or that waits for its turn (R135, R136). -/
structure Txn where
  /-- The line. -/
  line : Nat
  /-- What it serves. -/
  kind : TxnKind
  /-- The directory that it has reached: a cluster's by core key / 32, a die's by 128 + die, or the line's home by 132. -/
  at_ : Nat
  /-- The directories that serve it, from the one where it arrived on; it waits in order of arrival at the one that it has reached
  where that is not among them (R135). -/
  held : List Nat
  /-- The directories below to which one of these has sent a message, and that have not taken it up (R136). -/
  asked : List Nat
  /-- The directory that it has reached serves it and holds the permission that it needs (R135). -/
  started : Bool
  /-- Its answers are complete, and the access at the home may perform (R139). -/
  ready : Bool
  /-- The blocks of the line that its messages name (R124). -/
  mask : BitVec 2
  /-- The requester that its messages name (R124). -/
  by_ : Requester
  /-- Messages sent and not acted on. -/
  out : List DirMessage
  /-- Answers not yet counted: the core, and whether with data (DACK) or without (ACK). -/
  answers : List (Nat × Bool)
  /-- What each directory still counts (R136): a cluster directory its cores, a die directory its clusters, the package directory
  its dies. -/
  counts : List (Nat × Nat)
  deriving DecidableEq, Repr

/-- A cluster-directory entry (R131, R132). -/
structure ClusterEntry where
  /-- State X; otherwise S. -/
  excl : Bool
  /-- Coarse mode; otherwise pointer mode. -/
  coarse : Bool
  /-- The recorded cores, 0 to 31, at most four. -/
  ptrs : List Nat
  /-- The tile vector of coarse mode. -/
  tiles : BitVec 4
  deriving DecidableEq, Repr

/-- A die-directory entry (R131). -/
structure DieEntry where
  /-- State X; otherwise S. -/
  excl : Bool
  /-- The clusters that hold the line. -/
  clusters : BitVec 18
  deriving DecidableEq, Repr

/-- A package-directory entry (R130, R131). -/
structure PackageEntry where
  /-- PDSTATE: 0 no copy, 1 shared, 2 exclusive. -/
  st : Nat
  /-- OWNER. -/
  owner : Nat
  /-- DIES. -/
  dies : BitVec 4
  deriving DecidableEq, Repr

/-- An access that performs at the home, asked for and not performed: of a C = 0 page, of an engine, a channel or a lane
pool (R90, R114, R139). -/
structure HomeReq where
  /-- Who asks. -/
  who : Asker
  /-- The line. -/
  line : Nat
  /-- A write. -/
  write : Bool
  /-- The blocks of the line that it touches (R124). -/
  mask : BitVec 2
  /-- Its requester (R124). -/
  by_ : Requester
  deriving DecidableEq, Repr

/-- What a core's eight slots share. -/
structure Core where
  /-- PERMR (R153; reset SCOPE = 3). -/
  permr : Word
  /-- PERMW (R153; reset SCOPE = 3). -/
  permw : Word
  /-- KRCV (R252; reset 0). -/
  krcv : Word
  /-- Code table, sixteen S8 entries (R58; reset 0). -/
  codes : BitVec 128
  /-- Accumulators acc0 to acc7, each 32 × 32 words of 32 bits (R34, R257; reset +0.0). -/
  acc : Vector (BitVec 32768) 8
  /-- Predicates tz0 to tz7, bit 0 holds true (R34; reset 1). -/
  tz : BitVec 8
  /-- Vector command queue, oldest first (R231; reset empty). -/
  vq : List Command
  /-- Matrix queue, oldest first (R260; reset empty). -/
  mq : List Command
  /-- Stack queue, oldest first (R109; reset empty). -/
  sq : List Command
  /-- Wake table: tag, handle, priority and whether it is pending (R350, R351; reset empty). -/
  wake : List (Nat × (BitVec 32 × Nat × Bool))
  /-- Ready queue, levels 0 to 3, oldest first (R350; reset empty). -/
  ready : Vector (List (BitVec 32)) 4
  /-- Instruction TLB, at most 32 (R91; reset empty). -/
  itlb : List TlbEntry
  /-- Data TLB, at most 64 (R91; reset empty). -/
  dtlb : List TlbEntry
  /-- Key updates that have arrived and wait (R252; reset empty). -/
  keys : List KeyUpdate
  /-- Slot that issued most recently (R184; reset 7, so slot 0 is considered first). -/
  lastSlot : Nat
  /-- Cores that visited the local memory speculatively: own-cluster cores and, as number 32, any other (R338). -/
  visitors : List Nat
  /-- Highest key recorded per domain among those visits (R338). -/
  visitKeys : List (Nat × (Word × Word))
  /-- L1 data cache: lines and states, most recently used first (R126; reset empty). -/
  l1d : List (Nat × LineState)
  /-- L1 instruction cache: lines in state S, most recently used first (R126; reset empty). -/
  l1i : List Nat
  /-- Miss registers (R134, R141; reset none). -/
  misses : List Miss
  /-- Writeback buffer: lines, E or M, and whether the directory has answered (R140; reset empty). -/
  wbuf : List (Nat × LineState × Bool)
  deriving DecidableEq, Repr

/-- An open transfer or stream of a copy channel (R155 to R176). -/
structure Transfer where
  /-- The command number. -/
  seq : Nat
  /-- Issuing slot. -/
  slot : Nat
  /-- Issuing core, whose local memory spaces 1 and 2 name. -/
  core : Nat
  /-- Source space (R156); 8 for CPERM, 9 for an SGATH delivery, 10 for a stream. -/
  ssp : Nat
  /-- Source address. -/
  src : Nat
  /-- Destination space (R156). -/
  dsp : Nat
  /-- Destination address. -/
  dst : Nat
  /-- Bytes to copy. -/
  len : Nat
  /-- Bytes landed: the watermark is dst + written (R158). -/
  written : Nat
  /-- Remote endpoint index (R157). -/
  ep : Nat
  /-- Push a handle word on completion (R157). -/
  push : Bool
  /-- Queue for the handle word. -/
  qid : BitVec 11
  /-- Follow-on matrix command of a CPYMX (R165). -/
  follow : Option Command
  /-- g[a] and g[b] of a CPERM (R166), with its tensor entry in the command. -/
  perm : Option Command
  /-- The delivered bytes of an SGATH, in order (R115). -/
  feed : List Byte
  /-- The reorder store: what each line request that has returned bytes holds, by the place of its first byte (R155). -/
  early : List (Nat × List Byte)
  /-- Source and destination overlap: each byte is read and then written (R164). -/
  bytewise : Bool
  /-- The poisoned unit of the destination that the transfer is writing whole (R147). -/
  clearing : Option (Nat × Nat)
  /-- The stream register it serves, 0 to 7 (R173). -/
  stream : Option Nat
  /-- Issuing thread's mode. -/
  mode : BitVec 2
  /-- Issuing thread's ASID. -/
  asid : Nat
  /-- Issuing thread's PTBASE. -/
  ptbase : Word
  /-- Begun (R164). -/
  started : Bool
  /-- Frozen at a permission breach (R171). -/
  frozen : Option HeldFault
  /-- Completed, and only its handle push or follow-on placement remains (R164). -/
  finishing : Bool
  /-- Stopped by the CSTOP of this slot: nothing more lands, and it leaves once none of its requests is outstanding (R169). -/
  stopped : Option Nat
  /-- Sizes of the packets sent to a remote destination and not acknowledged, oldest first (R405). -/
  unacked : List Nat
  deriving DecidableEq, Repr

/-- A copy channel (R155). -/
structure Channel where
  /-- Open transfers, current first, at most four (reset empty). -/
  transfers : List Transfer
  /-- End address of the last completed transfer (R168; reset 0). -/
  lastEnd : Word
  deriving DecidableEq, Repr

/-- The array's power state (R281). -/
inductive ArrayPower where
  | off
  | rampUp
  | on
  | rampDown
  deriving DecidableEq, Repr

/-- A monitor (R415). -/
structure Monitor where
  /-- Lowest sample (reset all ones). -/
  min : Word
  /-- Highest sample (reset 0). -/
  max : Word
  /-- Samples taken (reset 0). -/
  count : Word
  /-- The 32 bins (reset 0). -/
  bins : Vector (BitVec 32) 32
  deriving DecidableEq, Repr

/-- What a tile's eight cores share. -/
structure Tile where
  /-- MBUDGET (R283; reset LIMIT 0xFFFF). -/
  mbudget : Word
  /-- SPILLCTL (R331; reset 0). -/
  spillctl : Word
  /-- CRUMBBASE (R331; reset 0). -/
  crumbbase : Word
  /-- CTXBASE (R394; reset 0). -/
  ctxbase : Word
  /-- MONCTL0 to MONCTL3 (R416; reset 0). -/
  monctl : Vector Word 4
  /-- MONSEL (R416; reset 0). -/
  monsel : Word
  /-- Monitors 0 to 3 (R415; reset empty). -/
  monitors : Vector Monitor 4
  /-- Copy channels 0 to 15 (R155; reset empty). -/
  chans : Vector Channel 16
  /-- Untaken tasks, in order of arrival (R330; reset empty). -/
  tasks : List Task
  /-- Aborted tasks whose requeue found the queue full and no spill area: held until the queue has room (R341; log 87;
  reset none). -/
  requeued : List Task
  /-- Spilled tasks, in order of arrival: the area they lie in and their record number there (R330; reset empty). -/
  spilled : List (Word × Nat × Task)
  /-- Commit queue, at most 128 entries by index (R333; reset empty). -/
  commit : List (Nat × CommitEntry)
  /-- Count of untaken tasks at the last virtual-time sample (R329, R343; reset 0). -/
  untakenSample : Nat
  /-- Weight buffer: bytes that are not zero, canonical as memory is (R265; reset 0, log 12). -/
  weights : List Cell
  /-- Weight-buffer slots poisoned by an uncorrectable error (R146; reset none). -/
  weightPoison : List Nat
  /-- Array power state (R281; reset off). -/
  array : ArrayPower
  /-- When the ramp under way began and how long it lasts (R281; reset 0). -/
  ramp : Nat × Nat
  /-- When the array last executed an array command, or came ON (R281; reset 0). -/
  arrayLast : Nat
  /-- When the array last started an array command, or came ON (R281; reset 0). -/
  arrayStart : Nat
  /-- HOLD of MBURST (R282; reset 0). -/
  hold : Nat
  /-- The core, 0 to 7, whose unbudgeted queue the array served last (R284; reset 7, so core 0 is considered first). -/
  served : Nat
  /-- L2 TLB, at most 4,096 (R91; reset empty). -/
  l2tlb : List TlbEntry
  /-- Tensor cache, at most 256 entries: ASID, tid and the entry (R73; reset empty). -/
  tcache : List (Nat × Nat × BitVec 512)
  /-- Slots each queue is to receive, from the last rotation boundary or gain of demand (R369; reset none). -/
  shares : List (Nat × Nat)
  /-- Queues that had demand when last looked at (R369; reset none). -/
  demand : List Nat
  /-- The tile's region is power-gated (R144, R414; reset no). -/
  gated : Bool
  /-- A POWER command has asked for the tile to be gated (R414; reset no). -/
  gating : Bool
  /-- L2 slice: lines and whether they are dirty, most recently used first (R126; reset empty). -/
  l2 : List (Nat × Bool)
  /-- Corrected errors since the last virtual-time sample (R146, R415; reset 0). -/
  corrected : Nat
  /-- The power controller delays the tile's array starts and vector commands (R413; reset no). -/
  delayed : Bool
  deriving DecidableEq, Repr

/-- A hardware queue (R177, R182). -/
structure HwQueue where
  /-- Owner ASID. -/
  asid : Nat
  /-- Consumer's global core number. -/
  cons : Nat
  /-- Producer's global core number. -/
  prod : Nat
  /-- Words at the consumer, oldest first. -/
  words : List Word
  /-- Words on the way between dies, oldest first. -/
  transit : List Word
  /-- The producer's credits (R182). -/
  credits : Nat
  /-- Credits on their way back. -/
  returning : Nat
  /-- Thread bound to the consumer end. -/
  consBound : Option Nat
  /-- Thread bound to the producer end. -/
  prodBound : Option Nat
  deriving DecidableEq, Repr

/-- A thread group (R353). -/
structure Group where
  /-- Owner ASID. -/
  asid : Nat
  /-- Members' handles. -/
  members : List Nat
  /-- Members that have arrived at the barrier (R354). -/
  arrived : List Nat
  /-- Members released from the barrier that have not gone on yet (R354). -/
  released : List Nat
  deriving DecidableEq, Repr

/-- An error-log record (R383). -/
structure ErrRecord where
  /-- Cause code. -/
  code : Nat
  /-- TVAL. -/
  tval : Word
  /-- Target thread when made, if ERRTGT.V was 1. -/
  target : Option Nat
  deriving DecidableEq, Repr

/-- What a die holds. -/
structure Die where
  /-- ERRTGT.V and HANDLE (R383; reset 0). -/
  errtgt : Word
  /-- ERRTGT.DROP (R383; reset 0). -/
  errdrop : Nat
  /-- Error log, oldest first, at most 64 (R383; reset empty). -/
  errlog : List ErrRecord
  /-- Thread groups by index (R353; reset none). -/
  groups : List (Nat × Group)
  /-- Forwarding table: old handle and new handle, at most 256 (R376; reset empty). -/
  forward : List (Nat × Nat)
  /-- Walk cache, at most 1,024 (R91; reset empty). -/
  wcache : List WalkCacheEntry
  /-- Walks in flight and waiting, oldest first (R93; reset none). -/
  walks : List Walk
  /-- DMONCTL of the 64 die monitors by number (R416; reset 0). -/
  dmonctl : List (Nat × Word)
  /-- The die monitors by number (R415; reset empty). -/
  dmonitors : List (Nat × Monitor)
  /-- Spare clusters left, of two (R396; reset 2). -/
  spares : Nat
  /-- Logical clusters that a spare has taken over, with the spare's number, 18 or 19 (R396, R404; reset none). -/
  spareMap : List (Nat × Nat)
  /-- Logical clusters whose takeover by a spare is under way: their tiles are stopped (R396; reset none). -/
  takeover : List Nat
  /-- Logical clusters that have failed the self-test of this training (R396, R411; reset none). -/
  failedTest : List Nat
  /-- Remote-data cache: lines and states by index (R129; reset empty). -/
  rdc : List (Nat × (Nat × LineState))
  /-- Die directory by line, most recently used first (R131; reset empty). -/
  ddir : List (Nat × DieEntry)
  /-- Cluster directories, by 18 × line + cluster, most recently used first (R131; reset empty). -/
  cdir : List (Nat × ClusterEntry)
  deriving DecidableEq, Repr

/-- An ordered domain (R322, R343, R362). -/
structure Domain where
  /-- Active (R362; reset no). -/
  active : Bool
  /-- Owner queue. -/
  queue : Nat
  /-- Commit-queue limit per tile. -/
  cqlim : Nat
  /-- Start time (R324). -/
  start : Nat
  /-- Published GVT: timestamp and tiebreak (R343; reset all ones). -/
  gvt : Word × Word
  /-- The sample taken and not yet published (R343). -/
  sampled : Option (Word × Word)
  /-- Stopped by age or by a takeover: dispatches nothing (R325, R396). -/
  stopped : Bool
  /-- The last idle-tree sample was all idle (R373; reset no). -/
  idle : Bool
  /-- Quiescence is declared (R373; reset no). -/
  quiescent : Bool
  /-- Something was dispatched or accepted since the last idle sample (R373). -/
  busy : Bool
  deriving DecidableEq, Repr

/-- A piece of a launch that is held until its tile has room (R359): the tile it is placed on, and what it starts with,
in the form of a task (R360). -/
structure Piece where
  tile : Nat
  task : Task
  deriving DecidableEq, Repr

/-- A launch (R356 to R363). -/
structure Launch where
  /-- Launch queue. -/
  queue : Nat
  /-- The descriptor. -/
  desc : BitVec 512
  /-- Pieces created. -/
  made : Nat
  /-- Pieces ended. -/
  ended : Nat
  /-- Records read. -/
  recs : Nat
  /-- The record being expanded: key, row0, rows left, flags (R358). -/
  cur : Option (Nat × Nat × Nat × Nat)
  /-- Expansion has ended. -/
  expanded : Bool
  /-- The completion update adds 0x8000000000000001 (R363). -/
  failed : Bool
  /-- min(PRIO, MAXPRIO) at acceptance (R355). -/
  prio : Nat
  /-- The piece that is held (R359). -/
  held : Option Piece
  /-- The persistent piece being started: its slot (R361). -/
  starting : Option Nat
  /-- Bytes of the local-memory image copied for it (R361). -/
  copied : Nat
  /-- A piece of it has issued its first instruction (R415). -/
  begun : Bool := false
  deriving DecidableEq, Repr

/-- A launch queue (R355). -/
structure LQueue where
  asid : Nat
  ptbase : Word
  ttbase : Word
  mode : BitVec 2
  weight : Nat
  maxPrio : Nat
  first : Nat
  nt : Nat
  /-- Weight and maximum priority that a QSET gives from the next boundary on (R404). -/
  pending : Option (Nat × Nat)
  /-- Launches accepted and not finished expanding, oldest first (R355). -/
  launches : List Nat
  /-- The cause and address recorded for QSTATUS (R363). -/
  record : Option (Nat × Word)
  deriving DecidableEq, Repr

/-- A tensor-cache or translation drop that has been posted and awaits its targets (R76, R99). -/
structure Drop where
  /-- Number of the drop. -/
  id : Nat
  /-- KIND of a TLBI, or 4 for a TINV. -/
  kind : Nat
  /-- ASID named. -/
  asid : Nat
  /-- Virtual page (TLBI), or tensor identifier, 4,096 for all of them (TINV). -/
  page : Nat
  /-- Targets it has not reached: tiles by number, dies as 512 + number. -/
  targets : List Nat
  /-- Targets it has reached. -/
  applied : List Nat
  /-- What the model's next number was when it last reached a target (R100). -/
  last : Nat
  deriving DecidableEq, Repr

/-- An entry of the endpoint table (R405). -/
structure Endpoint where
  port : Nat
  peer : Nat
  qp : Nat
  rkey : Nat
  asid : Nat
  /-- The path MTU that the connection negotiated, in bytes, at most 4,096 (R400). -/
  mtu : Nat
  deriving DecidableEq, Repr

/-- An inbound region (R406). -/
structure Region where
  asid : Nat
  base : Nat
  len : Nat
  r : Bool
  w : Bool
  deriving DecidableEq, Repr

/-- An inbound RDMA packet that has arrived and waits (R406). -/
structure Inbound where
  /-- Its number, in order of arrival. -/
  num : Nat
  /-- The connection it came on. -/
  via : Via
  /-- Region key. -/
  key : Nat
  /-- Virtual address. -/
  va : Nat
  /-- The bytes to write; none for a read. -/
  data : Option (List Byte)
  /-- Bytes to read. -/
  len : Nat
  deriving DecidableEq, Repr

/-- A frame that the device has sent out of a port (R143, R400, R402, R405, R406). -/
inductive Frame where
  /-- The answer to a command, on queue pair 1 of its port: OPCODE, the header whose SEQ it echoes, STATUS, CODE and the result body,
  whose length is LEN; every other byte is zero (R402). -/
  | answer (opcode : Nat) (h : CmdHeader) (status code : Nat) (body : List Byte)
  /-- An RDMA WRITE packet to an endpoint (R405). -/
  | write (ep va : Nat) (data : List Byte)
  /-- An RDMA READ request to an endpoint (R405). -/
  | read (ep va len : Nat)
  /-- The acknowledgement of an inbound write, or the data of an inbound read (R406). -/
  | reply (via : Via) (data : List Byte)
  /-- A NAK (R400, R406). -/
  | nak (via : Via)
  /-- The answer to a back-invalidate snoop, with the line's data where a fatal reset poisons it (R143). -/
  | birsp (line : Nat) (poisoned : Bool)
  deriving DecidableEq, Repr

/-- The state of a Mengeton link (R407). -/
inductive LinkState where
  | train
  | up
  | degraded
  | down
  deriving DecidableEq, Repr

/-- A Mengeton link (R407, R408). -/
structure Link where
  /-- State. -/
  state : LinkState
  /-- Flit errors counted. -/
  errors : Nat
  deriving DecidableEq, Repr

/-- An accepted boot configuration (R410). -/
structure BootConfig where
  version : Nat
  rdcGiB : Nat
  powerCap : Nat
  portMask : Nat
  ownerKey : BitVec 1064
  /-- Its signature: r. -/
  sigR : BitVec 528
  /-- Its signature: s. -/
  sigS : BitVec 528
  deriving DecidableEq, Repr

/-- Boot phase (R410). -/
inductive Phase where
  | off
  | romchk
  | train
  | config
  | init
  | run
  | failed
  deriving DecidableEq, Repr

/-- A command frame that waits for what precedes it on its host queue pair (R403). -/
structure HeldCommand where
  /-- Its number, in order of arrival. -/
  num : Nat
  /-- Its header. -/
  header : CmdHeader
  /-- The command. -/
  cmd : Instr
  deriving DecidableEq, Repr

/-- What the next step does, where the agenda names it (log 2). -/
inductive Pick where
  /-- An event of the opcode table. -/
  | event (i : Instr)
  /-- The slot with this handle takes an issue opportunity. -/
  | issue (slot : Nat)
  deriving DecidableEq, Repr

/-- Why a step stops with a fault. No instruction of the opcode table ends in one: the exceptions of the manual are
next states. -/
inductive Fault where
  /-- Raised by step for an agenda entry that names an agent the device does not have (R2, R347): safe, the manual has
  no such event. -/
  | noSuchAgent
  deriving DecidableEq, Repr

/-- Why a step is refused. -/
inductive Refusal where
  /-- Raised by exec for an instruction without a meaning yet: safe. -/
  | notModelled (mnemonic : String)
  deriving DecidableEq, Repr

/-- The state of the device. -/
structure State where
  /-- Handle of the slot in focus, whose thread th is (log 1; reset 0). -/
  cur : Nat
  /-- The thread in focus. -/
  th : Thread
  /-- The other slots, by handle, absent slots at their reset value; and the saved contexts, by handle + 32,768 × n with n
  at least 1 (log 1). -/
  threads : List (Nat × Thread)
  /-- Cores by handle / 8; absent cores are at their reset value. -/
  cores : List (Nat × Core)
  /-- Tiles by handle / 64; absent tiles are at their reset value. -/
  tiles : List (Nat × Tile)
  /-- Dies 0 to 3; absent dies are at their reset value. -/
  dies : List (Nat × Die)
  /-- Memory: HBM, local-memory windows and CXL by physical address, canonical (R77; reset nothing listed). -/
  mem : List Cell
  /-- Poisoned units: first physical address and size in bytes (R146, R147; reset none). -/
  poison : List (Nat × Nat)
  /-- Hardware queues by identifier (R177; reset none). -/
  queues : List (Nat × HwQueue)
  /-- Domains 0 to 15; absent ones are at their reset value (R322). -/
  domains : List (Nat × Domain)
  /-- Launch queues 0 to 4,095 (R355; reset none). -/
  lqueues : List (Nat × LQueue)
  /-- Launches not yet finished, by the model's number (R363; reset none). -/
  launches : List (Nat × Launch)
  /-- Posted drops (R99, R76; reset none). -/
  drops : List Drop
  /-- Device time counter TIME (R5, R379; reset 0). -/
  time : Nat
  /-- The next steps, where they are prescribed (log 2; reset empty). -/
  agenda : List Pick
  /-- The next free choice (log 4; DESIGN CHOICE: reset 0; no statement rests on it). -/
  free : Nat
  /-- The model's count of progress: a waiting slot looks again once it has risen (log 1; reset 0). -/
  progress : Nat
  /-- The next number the model gives a task, command, launch or drop (log 1; reset 1). -/
  fresh : Nat
  /-- Freezes recorded by the firmware for the host: handle, code, value (R389; reset none). -/
  fwlog : List (Nat × Nat × Word)
  /-- Size S of each die's remote-data cache, in GiB: 0, 8, 16, 24 or 32 (R79; reset 24). -/
  rdcGiB : Nat
  /-- Populated bytes of each CXL port, by 4 × hub + port (R81; reset none, log 11). -/
  cxl : List (Nat × Nat)
  /-- Contexts in migration transit, by the old handle: the destination tile and the context's number among the threads
  (R375; reset none). -/
  migrating : List (Nat × Nat × Nat)
  /-- Boot phase (R411; reset off). -/
  phase : Phase
  /-- Package directory by line; absent lines have no copy (R130, R131; reset none). -/
  pdir : List (Nat × PackageEntry)
  /-- Transactions of the directories, in order of arrival; of a line the first is served (R135; reset none). -/
  txns : List Txn
  /-- Accesses on their way to their homes (R139; reset none). -/
  homeReqs : List HomeReq
  /-- What the walk units have answered numbered askers (R94; reset none). -/
  walkAnswers : List WalkAnswer
  /-- What the homes of modified lines hold: the 128 bytes last written back (R134, R145; reset none). -/
  behind : List (Nat × List Byte)
  /-- What the L2 slices hold of dirty lines that a core has modified since: the 128 bytes (R128, R145; reset none). -/
  l2behind : List (Nat × List Byte)
  /-- Endpoint table (R405; reset no entry set). -/
  endpoints : List (Nat × Endpoint)
  /-- Inbound regions by key (R406; reset none). -/
  regions : List (Nat × Region)
  /-- Inbound packets that wait for an abort or a watermark, oldest first (R336, R406; reset none). -/
  inbound : List Inbound
  /-- Command frames that wait, oldest first (R403; reset none). -/
  commands : List HeldCommand
  /-- Frames sent out of the ports, oldest first (R402, R405, R406; reset none). -/
  sent : List Frame
  /-- Mengeton links 0–1, 2–3, 0–2 and 1–3 (R407, R416; reset TRAIN). -/
  links : Vector Link 4
  /-- The relay dies of the diagonal pairs 0–3 and 1–2 (R14, R408; reset 1 and 0). -/
  relays : Nat × Nat
  /-- CXL ports that have failed (R383; reset none). -/
  cxlDown : List Nat
  /-- The accepted boot configuration (R410, R412; none before the first). -/
  boot : Option BootConfig
  /-- The fused owner key (R410; none before the first acceptance). -/
  ownerKey : Option (BitVec 1064)
  /-- The rollback counter (R409, R410; 0 before the first acceptance). -/
  rollback : Nat
  /-- Power cap in W, from the boot configuration or a POWER command (R413; reset 3,000). -/
  powerCap : Nat
  /-- The device has been powered on and a reset since then is in progress or past (R411, R412; reset no). -/
  warm : Bool
  /-- The reset in progress is a fatal one (R143, R145; reset no). -/
  fatal : Bool
  /-- Losses of a fatal reset that ERRLOG reports: poisoned lines (R145, R404; reset none). -/
  losses : List Nat
  deriving DecidableEq, Repr

/-- A branch-target register at the start of a thread (R34). -/
def BtReg.reset : BtReg := { target := 0, v := false, s := false, win := .none }
/-- A loop set at the start of a thread (R34). -/
def LoopSet.reset : LoopSet := { lc := 0, ls := 0, le := 0, stale := true, win := .none }

/-- A slot after reset: no thread, every register at its start value (R34). -/
def Thread.reset : Thread :=
  { kind := .empty, lqV := false, lqMove := false, lqQueue := 0, reserved := false, park := none
    g := Vector.replicate 32 0, bt := Vector.replicate 8 BtReg.reset, q := 1, loops := Vector.replicate 2 LoopSet.reset
    trapStale := true, trapWin := .none, pc := 0, fbuf := { base := 0, cells := [], fail := none }
    entering := none, refetched := none
    thstat := 8, tvec := 0, epc := 0, cause := 0, tval := 0, timecmp := 0xFFFFFFFFFFFFFFFF, frzto := 0, thaw := 0
    asid := 0, ptbase := 0, ttbase := 0, frm := 0, fstat := 0, rstat := 0, estat := 0, cstat := 0, vstat := 0x0002000000000000, vfpc := 0
    mstat := 0, mfpc := 0, tdomain := 0, vtime := 0xFFFFFFFFFFFFFFFF
    held := Vector.replicate 4 none, inbox := [], bind := Vector.replicate 4 none, streams := Vector.replicate 8 none
    sb := [], storeFaults := [], epoch := 0, joins := [], tlbis := [], posted := none, served := none, wait := none, waitBind := none, waitMark := 0, issueAt := 0, outstanding := none, walkFail := []
    frozen := none, halt := none, reports := [], entry := none, task := none, launch := none, prio := 0, started := 0
    grant := 0, laneReq := 0, reneg := false, v := Vector.replicate 32 0, k := Vector.replicate 8 0 }

/-- A core after device reset. -/
def Core.reset : Core :=
  { permr := 3, permw := 3, krcv := 0, codes := 0, acc := Vector.replicate 8 0, tz := 1, vq := [], mq := [], sq := []
    wake := [], ready := Vector.replicate 4 [], itlb := [], dtlb := [], keys := [], lastSlot := 7, visitors := []
    visitKeys := [], l1d := [], l1i := [], misses := [], wbuf := [] }

/-- A copy channel after device reset. -/
def Channel.reset : Channel := { transfers := [], lastEnd := 0 }

/-- An empty monitor (R415). -/
def Monitor.reset : Monitor := { min := 0xFFFFFFFFFFFFFFFF, max := 0, count := 0, bins := Vector.replicate 32 0 }

/-- A tile after device reset. -/
def Tile.reset : Tile :=
  { mbudget := 0xFFFF000000000000, spillctl := 0, crumbbase := 0, ctxbase := 0, monctl := Vector.replicate 4 0, monsel := 0
    monitors := Vector.replicate 4 Monitor.reset, chans := Vector.replicate 16 Channel.reset, tasks := [], requeued := [], spilled := [], commit := []
    untakenSample := 0, weights := [], weightPoison := [], array := .off, ramp := (0, 0), arrayLast := 0, arrayStart := 0, hold := 0, served := 7, l2tlb := [], tcache := []
    shares := [], demand := [], gated := false, gating := false, l2 := [], corrected := 0, delayed := false }

/-- A die after device reset. -/
def Die.reset : Die :=
  { errtgt := 0, errdrop := 0, errlog := [], groups := [], forward := [], wcache := [], walks := [], dmonctl := []
    dmonitors := [], spares := 2, spareMap := [], takeover := [], failedTest := [], rdc := [], ddir := [], cdir := [] }

/-- A domain that has never been active (R343). -/
def Domain.reset : Domain :=
  { active := false, queue := 0, cqlim := 128, start := 0, gvt := (0xFFFFFFFFFFFFFFFF, 0xFFFFFFFFFFFFFFFF)
    sampled := none, stopped := false, idle := false, quiescent := false, busy := false }

/-- The device right after reset. -/
def State.reset : State :=
  { cur := 0, th := Thread.reset, threads := [], cores := [], tiles := [], dies := [], mem := [], poison := []
    queues := [], domains := [], lqueues := [], launches := [], drops := [], time := 0, agenda := [], free := 0
    progress := 0, fresh := 1, fwlog := [], rdcGiB := 24, cxl := [], migrating := [], phase := .off
    pdir := [], txns := [], homeReqs := [], walkAnswers := [], behind := [], l2behind := [], endpoints := [], regions := [], inbound := [], commands := [], sent := []
    links := Vector.replicate 4 { state := .train, errors := 0 }, relays := (1, 0), cxlDown := [], boot := none, ownerKey := none
    rollback := 0, powerCap := 3000, warm := false, fatal := false, losses := [] }

end Sys2Proof.Machine
end

