-- ==== Sys2Proof/Machine/Ops.lean ====
section
/-! DEFINITION. The named operations over the state: keyed lists, components, bytes of memory, the action type of a
meaning, waits, registers with their queue and stream bindings, messages, freezing, taking an exception, the return
from one, and the end of an instruction. -/

namespace Sys2Proof.Machine

open Host (Cell)

/-! Keyed lists, in rising order of key. -/

/-- The entry of a key, or the given value. -/
def assocGet (d : α) (k : Nat) : List (Nat × α) → α
  | [] => d
  | (k', v) :: l => if k' = k then v else assocGet d k l

/-- The entry of a key, if any. -/
def assocFind (k : Nat) : List (Nat × α) → Option α
  | [] => none
  | (k', v) :: l => if k' = k then some v else assocFind k l

/-- Replaces or inserts the entry of a key. -/
def assocSet (k : Nat) (v : α) : List (Nat × α) → List (Nat × α)
  | [] => [(k, v)]
  | (k', v') :: l => if k' = k then (k, v) :: l else if k < k' then (k, v) :: (k', v') :: l else (k', v') :: assocSet k v l

/-- Removes the entry of a key. -/
def assocErase (k : Nat) (l : List (Nat × α)) : List (Nat × α) := l.filter (fun p => p.1 != k)

/-- The lowest number below a bound that is no key of the list. -/
def lowestFree (bound : Nat) (used : List Nat) : Option Nat := (List.range bound).find? (fun i => !used.contains i)

/-! Register files. -/

/-- A general register of a file, g0 included as stored. -/
def regGet (v : Vector α 32) (r : BitVec 5) : α := v[r.toNat]'r.isLt
/-- Replaces a general register of a file. -/
def regSet (v : Vector α 32) (r : BitVec 5) (x : α) : Vector α 32 := v.set r.toNat x r.isLt
/-- An entry of a file of eight. -/
def get8 (v : Vector α 8) (r : BitVec 3) : α := v[r.toNat]'r.isLt
/-- Replaces an entry of a file of eight. -/
def set8 (v : Vector α 8) (r : BitVec 3) (x : α) : Vector α 8 := v.set r.toNat x r.isLt
/-- An entry of a file of four. -/
def get4 (v : Vector α 4) (r : BitVec 2) : α := v[r.toNat]'r.isLt
/-- Replaces an entry of a file of four. -/
def set4 (v : Vector α 4) (r : BitVec 2) (x : α) : Vector α 4 := v.set r.toNat x r.isLt
/-- One of a pair. -/
def get2 (v : Vector α 2) (r : BitVec 1) : α := v[r.toNat]'r.isLt
/-- Replaces one of a pair. -/
def set2 (v : Vector α 2) (r : BitVec 1) (x : α) : Vector α 2 := v.set r.toNat x r.isLt

/-! Numbers of agents (R80, R347). -/

/-- The core key of a slot or of a saved context. -/
def coreOf (h : Nat) : Nat := h % 32768 / 8
/-- The tile key of a slot or of a saved context. -/
def tileOf (h : Nat) : Nat := h % 32768 / 64
/-- The die of a slot or of a saved context. -/
def dieOf (h : Nat) : Nat := h % 32768 / 8192
/-- The logical tile, 0 to 71, of a tile key. -/
def logicalTile (t : Nat) : Nat := t % 128
/-- The global core number of a core key (R80). -/
def globalCore (c : Nat) : Nat := 576 * (c / 1024) + 8 * (c / 8 % 128) + c % 8
/-- The core key of a global core number (R80). -/
def coreKey (n : Nat) : Nat := 1024 * (n / 576) + 8 * (n % 576 / 8) + n % 8
/-- The tile key of a global tile number 72 × die + tile (R355). -/
def tileKey (n : Nat) : Nat := 128 * (n / 72) + n % 72
/-- The global tile number of a tile key (R355). -/
def globalTile (t : Nat) : Nat := 72 * (t / 128) + t % 128

/-! Components. -/

/-- The thread of a slot. -/
def State.thread (s : State) (h : Nat) : Thread := if h = s.cur then s.th else assocGet Thread.reset h s.threads
/-- Replaces the thread of a slot. -/
def State.setThread (s : State) (h : Nat) (t : Thread) : State :=
  if h = s.cur then { s with th := t } else { s with threads := assocSet h t s.threads }
/-- Puts a slot in focus. -/
def State.focus (s : State) (h : Nat) : State :=
  if h = s.cur then s
  else { s with cur := h, th := assocGet Thread.reset h s.threads, threads := assocErase h (assocSet s.cur s.th s.threads) }
/-- The handles of the slots that hold or have held work, the slot in focus first. -/
def State.slots (s : State) : List Nat := s.cur :: s.threads.map (·.1)
/-- A core. -/
def State.core (s : State) (c : Nat) : Core := assocGet Core.reset c s.cores
/-- Replaces a core. -/
def State.setCore (s : State) (c : Nat) (x : Core) : State := { s with cores := assocSet c x s.cores }
/-- A tile. -/
def State.tile (s : State) (t : Nat) : Tile := assocGet Tile.reset t s.tiles
/-- Replaces a tile. -/
def State.setTile (s : State) (t : Nat) (x : Tile) : State := { s with tiles := assocSet t x s.tiles }
/-- A die. -/
def State.die (s : State) (d : Nat) : Die := assocGet Die.reset d s.dies
/-- Replaces a die. -/
def State.setDie (s : State) (d : Nat) (x : Die) : State := { s with dies := assocSet d x s.dies }
/-- A domain. -/
def State.domain (s : State) (d : Nat) : Domain := assocGet Domain.reset d s.domains
/-- Replaces a domain. -/
def State.setDomain (s : State) (d : Nat) (x : Domain) : State := { s with domains := assocSet d x s.domains }
/-- The core of the slot in focus. -/
def State.myCore (s : State) : Core := s.core (coreOf s.cur)
/-- Changes the core of the slot in focus. -/
def State.modCore (s : State) (f : Core → Core) : State := s.setCore (coreOf s.cur) (f s.myCore)
/-- The tile of the slot in focus. -/
def State.myTile (s : State) : Tile := s.tile (tileOf s.cur)
/-- Changes the tile of the slot in focus. -/
def State.modTile (s : State) (f : Tile → Tile) : State := s.setTile (tileOf s.cur) (f s.myTile)
/-- Changes the thread of a slot. -/
def State.modThread (s : State) (h : Nat) (f : Thread → Thread) : State := s.setThread h (f (s.thread h))
/-- A number the model has not used yet. -/
def State.freshen (s : State) : Nat × State := (s.fresh, { s with fresh := s.fresh + 1 })
/-- A free choice below a bound (log 4). -/
def State.choose (s : State) (bound : Nat) : Nat × State := (Config.freeNat s.free % bound, { s with free := s.free + 1 })

/-! Bytes (R3, R77). -/

/-- The byte a list of cells holds at an address; an address it does not list reads as 0. -/
def cellGet (a : Nat) : List Cell → Byte
  | [] => 0#8
  | (a', b) :: l => if a' = a then b else cellGet a l

/-- Writes a byte and keeps the canonical form: addresses strictly rising, no entry that is 0. -/
def cellSet (a : Nat) (b : Byte) : List Cell → List Cell
  | [] => if b = 0#8 then [] else [(a, b)]
  | (a', b') :: l =>
    if a' = a then (if b = 0#8 then l else (a, b) :: l)
    else if a < a' then (if b = 0#8 then (a', b') :: l else (a, b) :: (a', b') :: l)
    else (a', b') :: cellSet a b l

/-- Whether every address of a list is above a bound. -/
def cellsAbove (a : Nat) (l : List Cell) : Bool := l.all (fun c => decide (a < c.1))

/-- The canonical form of a list of cells. -/
def cellsWf : List Cell → Bool
  | [] => true
  | (a, b) :: l => b != 0#8 && cellsAbove a l && cellsWf l

/-- First physical address of the firmware ROM (R77). -/
def romBase : Nat := 0x18000000000
/-- Whether a physical address lies in the firmware ROM (R77). -/
def inRom (pa : Nat) : Bool := decide (romBase ≤ pa) && decide (pa < romBase + 0x800000)

/-- The byte at a physical address. -/
def State.byte (s : State) (pa : Nat) : Byte := if inRom pa then Config.romByte (pa - romBase) else cellGet pa s.mem
/-- Writes a byte at a physical address; the ROM keeps its bytes. -/
def State.setByte (s : State) (pa : Nat) (b : Byte) : State := if inRom pa then s else { s with mem := cellSet pa b s.mem }
/-- The n bytes from a physical address on. -/
def State.bytes (s : State) (pa n : Nat) : List Byte := (List.range n).map (fun i => s.byte (pa + i))
/-- Writes bytes from a physical address on. -/
def State.setBytes (s : State) (pa : Nat) : List Byte → State
  | [] => s
  | b :: bs => (s.setByte pa b).setBytes (pa + 1) bs

/-- Whether a byte range meets a poisoned unit (R147). -/
def State.poisoned (s : State) (pa n : Nat) : Bool := s.poison.any fun u => decide (u.1 < pa + n) && decide (pa < u.1 + u.2)
/-- Whether a write of a byte range is narrower than a poisoned unit it meets (R147). -/
def State.poisonNarrow (s : State) (pa n : Nat) : Bool :=
  s.poison.any fun u => decide (u.1 < pa + n) && decide (pa < u.1 + u.2) && !(decide (pa ≤ u.1) && decide (u.1 + u.2 ≤ pa + n))
/-- A write clears the poison of every unit it covers (R147). -/
def State.clearPoison (s : State) (pa n : Nat) : State :=
  { s with poison := s.poison.filter fun u => !(decide (pa ≤ u.1) && decide (u.1 + u.2 ≤ pa + n)) }

/-- Poison travels with bytes that are copied from one place to another (R147). -/
def State.copyPoison (s : State) (src dst n : Nat) : State :=
  { s with poison := (s.poison.filterMap fun u =>
      let lo := max u.1 src
      let hi := min (u.1 + u.2) (src + n)
      if lo < hi then some (dst + (lo - src), hi - lo) else none) ++ s.poison }

/-- The value of bytes, little-endian (R3). -/
def leNat : List Byte → Nat
  | [] => 0
  | b :: bs => b.toNat + 256 * leNat bs
/-- The n bytes of a value, little-endian (R3). -/
def leBytes : Nat → Nat → List Byte
  | 0, _ => []
  | n + 1, x => BitVec.ofNat 8 x :: leBytes n (x / 256)
/-- The 64-bit word at a physical address. -/
def State.word (s : State) (pa : Nat) : Word := BitVec.ofNat 64 (leNat (s.bytes pa 8))

/-- The field x[hi:lo] as a number (R3). -/
def field (x : Nat) (hi lo : Nat) : Nat := x / 2 ^ lo % 2 ^ (hi + 1 - lo)
/-- The field x[hi:lo] of a word. -/
def wfield (x : BitVec w) (hi lo : Nat) : Nat := field x.toNat hi lo
/-- Replaces the field [hi:lo] of a word by a number. -/
def setField (x : Word) (hi lo : Nat) (v : Nat) : Word :=
  let m := BitVec.ofNat 64 ((2 ^ (hi + 1 - lo) - 1) * 2 ^ lo)
  (x &&& ~~~m) ||| (BitVec.ofNat 64 (v * 2 ^ lo) &&& m)
/-- A field [hi:lo] of a word read as two's complement (R45). -/
def sfield (x : BitVec w) (hi lo : Nat) : Int :=
  let n := hi + 1 - lo
  let v := wfield x hi lo
  if 2 ^ (n - 1) ≤ v then (v : Int) - 2 ^ n else v

/-! Actions. A meaning is an action: it ends with a state, or it ends early with a state (a trap taken, a freeze, a
wait). Both are next states of the machine. -/

/-- An action on the state that may end the instruction's effect early. -/
abbrev Act (α : Type) := StateT State (Except State) α

/-- Ends the instruction's effect with the state as it stands. -/
def stopHere : Act α := fun s => .error s
/-- The state an action leaves, ended early or not. -/
def after (a : Act Unit) (s : State) : State :=
  match a s with
  | .ok (_, s') => s'
  | .error s' => s'
/-- The outcome of a meaning: a next state. -/
def done (a : Act Unit) (s : State) : Host.Outcome State Fault Refusal := .next (after a s)
/-- Changes the thread in focus. -/
def modTh (f : Thread → Thread) : Act Unit := modify fun s => { s with th := f s.th }
/-- Performs a list of actions in order. -/
def seqActs : List (Act Unit) → Act Unit
  | [] => pure ()
  | a :: as => do a; seqActs as
/-- Takes the slot out of rotation; its instruction is executed again from unchanged sources (R19, R46). -/
def waitFor (w : Wait) : Act α := do
  modTh fun t => { t with wait := some w }
  stopHere
/-- Waits unless a condition holds (R46, WaitUntil). -/
def waitUntil (w : Wait) (c : State → Bool) : Act Unit := do
  let s ← get
  if c s then pure () else waitFor w

/-! Modes and the status register (R378). -/

/-- Current mode: 0 U, 1 S, 3 M. -/
def Thread.mode (t : Thread) : BitVec 2 := t.thstat.extractLsb' 8 2
/-- EXL. -/
def Thread.exl (t : Thread) : Bool := t.thstat.getLsbD 7
/-- IE. -/
def Thread.ie (t : Thread) : Bool := t.thstat.getLsbD 5
/-- S or M mode. -/
def Thread.privileged (t : Thread) : Bool := t.mode != 0#2

/-- THSTAT's saved mode and enable, current mode, enable and EXL at trap entry (R385). -/
def thstatEnter (x : Word) : Word :=
  let m := wfield x 9 8
  let x := setField x 11 10 m
  let x := setField x 6 6 (wfield x 5 5)
  let x := setField x 5 5 0
  let x := setField x 7 7 1
  setField x 9 8 (if m = 3 then 3 else 1)

/-- THSTAT at the completion of ERET (R386). -/
def thstatReturn (x : Word) : Word :=
  let x := setField x 9 8 (wfield x 11 10)
  let x := setField x 5 5 (wfield x 6 6)
  let x := setField x 7 7 0
  setField x 11 10 0

/-! Cause codes (R11, R387). -/

/-- The 9-bit code source × 64 + cause (R11). -/
def code (src cause : Nat) : Nat := src * 64 + cause

/-! Messages (R347 to R351, R383). -/

/-- The thread that a handle reaches: through its die's forwarding table, then the thread parked at a yield that keeps what arrives
for the handle, and otherwise the slot (R347, R370, R376; log 95). -/
def State.forwarded (s : State) (h : Nat) : Nat :=
  let n := ((assocFind h (s.die (dieOf h)).forward).getD h) % 32768
  ((s.threads.find? fun t => t.1 % 32768 == n && t.2.park.any (·.yielded)).map (·.1)).getD n

/-- Pushes a wake-table tag's handle, or makes the tag pending if its level is full (R351). -/
def Core.wakeTag (c : Core) (tag : Nat) : Core :=
  match assocFind tag c.wake with
  | some (h, p, false) =>
    let lvl := get4 c.ready (BitVec.ofNat 2 p)
    if lvl.length < 16 then
      { c with ready := set4 c.ready (BitVec.ofNat 2 p) (lvl ++ [h]), wake := assocErase tag c.wake }
    else { c with wake := assocSet tag (h, p, true) c.wake }
  | _ => c

/-- Whether the slot accepts a message: it holds a thread and its inbox has a free entry (R347). -/
def State.accepts (s : State) (h : Nat) : Bool :=
  (s.thread h).kind != .empty && decide ((s.thread h).inbox.length < 16)

/-- The domain whose work a thread is on the idle tree: a task's domain, or TDOMAIN.DOM of a persistent thread, whatever EN is
(R322, R362, R373). -/
def Thread.workDomain (t : Thread) : Option Nat :=
  match t.kind with
  | .empty => none
  | .persistent => some (wfield t.tdomain 3 0)
  | _ => t.task.map (·.dom)

/-- Notes that work of a domain was dispatched or has accepted a message since the last idle sample (R373). -/
def State.noteWork (s : State) (t : Thread) : State :=
  match t.workDomain with
  | some d => s.setDomain d { s.domain d with busy := true, quiescent := false }
  | none => s

/-- Enters a message into a slot's inbox; channel 3 sets IPI (R383); an armed tag of the core is pushed (R351). A slot
in MWAIT or WFI wakes (R349, R386). -/
def State.enterMessage (s : State) (h : Nat) (m : Message) : State :=
  let s := s.modThread h fun t =>
    { t with inbox := t.inbox ++ [m]
             thstat := if m.ch = 3#2 then setField t.thstat 18 18 1 else t.thstat }
  let s := s.noteWork (s.thread h)
  s.setCore (coreOf h) ((s.core (coreOf h)).wakeTag m.tag.toNat)

/-- Records a freeze that no thread receives, for the host (R389). -/
def State.logFirmware (s : State) (h : Nat) (codeNo : Nat) (v : Word) : State :=
  { s with fwlog := s.fwlog ++ [(h, codeNo, v)] }

/-- The report of a thread's freeze: a message on channel 2 with tag 62 to the handle in FRZTO, or the firmware's
record (R389). -/
def State.reportFreeze (s : State) (h : Nat) (c : Cause) : State :=
  let frz := (s.thread h).frzto
  let dst := s.forwarded (wfield frz 14 0)
  let m : Message :=
    { payload := c.tval, tsFlag := true, ch := 2#2, tag := 62#6, sender := BitVec.ofNat 15 h
      ts := BitVec.ofNat 64 (2 ^ 63 + c.code) }
  if frz.getLsbD 15 && s.accepts dst then s.enterMessage dst m else s.logFirmware h c.code c.tval

/-- Freezes the thread of a slot with its state kept, and reports it (R388, R389). -/
def State.freezeThread (s : State) (h : Nat) (c : Cause) : State :=
  (s.modThread h fun t => { t with frozen := some c, wait := none, entering := none }).reportFreeze h c

/-! What THSTAT shows (R378, R383). -/

/-- The die whose log holds an error record for a slot's thread, its own die first (R383; log 92). -/
def State.errorDie (s : State) (h : Nat) : Option Nat :=
  (dieOf h :: List.range 4).find? fun d => (s.die d).errlog.any fun r => r.target == some h
/-- The oldest error record that targets a slot's thread (R383). -/
def State.errorFor (s : State) (h : Nat) : Option ErrRecord :=
  (s.errorDie h).bind fun d => (s.die d).errlog.find? fun r => r.target == some h

/-- Whether the timer interrupt is pending (R383). -/
def State.timerPending (s : State) (h : Nat) : Bool := decide ((s.thread h).timecmp.toNat ≤ s.time)

/-- THSTAT with its pending bits IPE, IPM and IPT (R378). -/
def State.thstat (s : State) (h : Nat) : Word :=
  let t := s.thread h
  let x := setField t.thstat 19 19 (if (s.errorFor h).isSome then 1 else 0)
  let x := setField x 17 17 (if t.inbox.isEmpty then 0 else 1)
  setField x 16 16 (if s.timerPending h then 1 else 0)

/-! Taking an exception (R385). -/

/-- The fixed handler address in M mode (R377). -/
def mModeVector : Word := 0x0000018000000100#64

/-- The handler address: TVEC, or the fixed ROM address in M mode (R377, R385). -/
def Thread.handler (t : Thread) : Word := if t.mode = 3#2 then mModeVector else t.tvec

/-- The identity under which the thread fetches in a mode (R84, R309). -/
def Thread.fetchId (t : Thread) (mode : BitVec 2) : FetchId := { mode := mode, asid := wfield t.asid 13 0, ptbase := t.ptbase }

/-- An empty fetch buffer at an address. -/
def emptyFbuf (a : Word) : FetchBuffer := { base := a.toNat, cells := [], fail := none }

/-- The saved registers and the status at trap entry (R385): EPC, TVAL, CAUSE and THSTAT. -/
def Thread.saveTrap (t : Thread) (int async : Bool) (master ch codeNo : Nat) (tval epc : Word) : Thread :=
  { t with
    epc := epc &&& ~~~1#64
    tval := tval
    cause := BitVec.ofNat 64 ((if int then 2 ^ 63 else 0) + (if async then 2 ^ 62 else 0) + master * 2 ^ 59 + ch * 2 ^ 55 + codeNo)
    thstat := thstatEnter t.thstat
    wait := none
    refetched := none
    outstanding := none
    walkFail := []
    posted := none
    waitBind := none
    served := none }

/-- The transfer to the handler through the trap window: a held, unstale window fetched under the mode now entered
gives its bytes; one in flight under that mode is awaited; otherwise the window is refetched and the thread waits for it
(R315). -/
def Thread.enterHandler (t : Thread) : Thread :=
  let a := t.handler
  let awaited : Thread := { t with pc := a, fbuf := emptyFbuf a, entering := some 10, wait := some .window }
  let refetched : Thread := { awaited with trapWin := .inFlight (t.fetchId t.mode), trapStale := false }
  match t.trapWin, t.trapStale || t.mode = 3#2 with
  | .ready m cells, false =>
    if m = t.mode then { t with pc := a, fbuf := { base := a.toNat, cells := cells, fail := none }, entering := none }
    else refetched
  | .inFlight m, false => if m.mode = t.mode then awaited else refetched
  | _, _ => refetched

/-- TrapEntry of R385: a fault raised while EXL = 1 freezes the thread with 7.8 and writes nothing, so that the TVAL of its
report is the one that stands (R389); otherwise EPC, TVAL, CAUSE and THSTAT are written and the thread transfers to its
handler. -/
def State.trapEntry (s : State) (int async : Bool) (master ch codeNo : Nat) (tval epc : Word) : State :=
  if !int && !async && s.th.exl then s.freezeThread s.cur { code := code 7 8, tval := s.th.tval, violation := true }
  else { s with th := (s.th.saveTrap int async master ch codeNo tval epc).enterHandler }

/-- The address EPC takes for a fault: the faulting instruction's, but for TRAP the next one's (R385, R386). -/
def faultEpc (codeNo : Nat) (pc : Word) : Word := if codeNo = code 0 8 then pc + 4#64 else pc

/-- Delivers a fault or violation to the thread in focus: trap entry, or a freeze (R47, R388), with EPC at the instruction and
TVAL as the check states (R201, R456; log 43). -/
def State.deliver (s : State) (c : Cause) : State :=
  if c.violation then
    ({ s with th := { s.th with epc := s.th.pc &&& ~~~1#64, tval := c.tval } } : State).freezeThread s.cur c
  else s.trapEntry false false 0 0 c.code c.tval (faultEpc c.code s.th.pc)

/-! Speculative tasks (R326, R340, R345). -/

/-- A commit-queue entry of a tile. -/
def State.entry (s : State) (t e : Nat) : Option CommitEntry := assocFind e (s.tile t).commit
/-- Replaces a commit-queue entry. -/
def State.setEntry (s : State) (t e : Nat) (x : CommitEntry) : State :=
  s.setTile t { s.tile t with commit := assocSet e x (s.tile t).commit }
/-- The entry of the task in focus, if it is an ordered task. -/
def State.myEntry (s : State) : Option (Nat × Nat × CommitEntry) :=
  match s.th.entry with
  | some (t, e) => (s.entry t e).map fun x => (t, e, x)
  | none => none
/-- Whether the thread in focus is a speculative task: an ordered task that is not irrevocable (R321). -/
def State.speculative (s : State) : Bool :=
  match s.myEntry with
  | some (_, _, x) => !x.irrevocable
  | none => false
/-- A task's key (R324). -/
def Task.key (t : Task) : Word × Word := (t.ts, t.tiebreak.getD 0#64)
/-- Whether a key is below another: timestamp first (R324). -/
def keyLt (a b : Word × Word) : Bool := decide (a.1.toNat < b.1.toNat) || (a.1 == b.1 && decide (a.2.toNat < b.2.toNat))
/-- Whether a commit-queue entry's task is the earliest of its domain (R326). -/
def State.earliest (s : State) (x : CommitEntry) : Bool := (s.domain x.task.dom).gvt == x.task.key

/-- Waits as for the write-set escalation and then goes on irrevocably; nothing for any other issuer (R19, R340). -/
def escalate : Act Unit := do
  let s ← get
  match s.myEntry with
  | some (t, e, x) =>
    if x.irrevocable then pure ()
    else if s.earliest x then set (s.setEntry t e { x with irrevocable := true })
    else waitFor .escalation
  | none => pure ()

/-- Raises a fault or violation. A speculative task's is held in its entry and the slot waits as for the escalation
(R47, R345); any other is delivered. -/
def raise (c : Cause) : Act α := do
  let s ← get
  match s.myEntry with
  | some (t, e, x) =>
    if x.irrevocable then set (s.deliver c)
    else set ((s.setEntry t e { x with held := some c }).modThread s.cur fun th => { th with wait := some .escalation })
  | none => set (s.deliver c)
  stopHere

/-- Fault(src, cause) with its TVAL (R47, R456). -/
def fault (src cause : Nat) (tval : Word) : Act α := raise { code := code src cause, tval := tval, violation := false }
/-- Violation(src, cause) with its TVAL (R47, R388). -/
def violation (src cause : Nat) (tval : Word) : Act α := raise { code := code src cause, tval := tval, violation := true }

/-- Raises a fault unless a condition holds. -/
def require (c : Bool) (src cause : Nat) (tval : Word) : Act Unit := if c then pure () else fault src cause tval

/-- The instruction word at the program counter, zero-extended, as TVAL takes it (R32, R456). -/
def State.instrWord (s : State) : Word :=
  let off := s.th.pc.toNat - s.th.fbuf.base
  let bs := (s.th.fbuf.cells.drop off).map (·.2)
  match bs with
  | b0 :: _ => BitVec.ofNat 64 (leNat (bs.take (if b0.getLsbD 0 then 4 else 2)))
  | [] => 0#64

/-- Requires S or M mode: privilege 0.2 in U mode, TVAL the instruction (R33). -/
def requireS : Act Unit := do
  let s ← get
  require s.th.privileged 0 2 s.instrWord

/-! Local-memory windows (R80, R149). -/

/-- First physical address of the local-memory window (R77). -/
def lmBase : Nat := 0x10000000000
/-- Whether a physical address lies in the local-memory window. -/
def inLm (pa : Nat) : Bool := decide (lmBase ≤ pa) && decide (pa < lmBase + 0x24000000)
/-- The window of a core by its global number (R80). -/
def window (n : Nat) : Nat := lmBase + 0x40000 * n
/-- The window of the issuing core. -/
def State.myWindow (s : State) : Nat := window (globalCore (coreOf s.cur))

/-! Registers, with the queue and stream bindings of g24 to g31 (R175, R180, R194). -/

/-- The stream of a general register, if g24 to g27 has one. -/
def Thread.gStream (t : Thread) (r : BitVec 5) : Option Stream :=
  if 24 ≤ r.toNat ∧ r.toNat < 28 then get8 t.streams (BitVec.ofNat 3 (r.toNat - 24)) else none
/-- The binding of a general register, if g28 to g31 has one. -/
def Thread.gBind (t : Thread) (r : BitVec 5) : Option Binding :=
  if 28 ≤ r.toNat then get4 t.bind (BitVec.ofNat 2 (r.toNat - 28)) else none

/-- Element size of a stream in bytes (R174). -/
def Stream.esize (x : Stream) : Nat := 2 ^ wfield x.pat 65 64
/-- Elements of a stream's pattern (R174). -/
def Stream.total (x : Stream) : Nat := (wfield x.pat 127 112 + 1) * (wfield x.pat 143 128 + 1) * (wfield x.pat 159 144 + 1)
/-- Elements the ring holds. -/
def Stream.capacity (x : Stream) : Nat := x.size / x.esize
/-- Physical address of the ring place of element i, for a stream of a core with this window. -/
def Stream.place (x : Stream) (win i : Nat) : Nat := win + x.ring + i * x.esize % x.size
/-- Extends an element to 64 bits by SGN (R175). -/
def Stream.extend (x : Stream) (v : Nat) : Word :=
  if x.pat.getLsbD 66 then (BitVec.ofNat (8 * x.esize) v).signExtend 64 else BitVec.ofNat 64 v
/-- The element that the next pop of an input stream takes (R175). -/
def State.streamHead (s : State) (x : Stream) : Word :=
  x.extend (leNat (s.bytes (x.place s.myWindow x.used) x.esize))

/-- The queue of an identifier. -/
def State.queue (s : State) (id : BitVec 11) : Option HwQueue := assocFind id.toNat s.queues
/-- Whether a queue's two ends lie on one die (R177). -/
def HwQueue.local_ (q : HwQueue) : Bool := q.cons / 576 == q.prod / 576
/-- Whether a word can be pushed now: room on one die, a credit between dies (R177, R182). -/
def HwQueue.canPush (q : HwQueue) : Bool := if q.local_ then decide (q.words.length < 16) else decide (0 < q.credits)
/-- Pushes a word (R180, R182). -/
def HwQueue.push (q : HwQueue) (x : Word) : HwQueue :=
  if q.local_ then { q with words := q.words ++ [x] } else { q with transit := q.transit ++ [x], credits := q.credits - 1 }
/-- Removes the oldest word; between dies its credit starts back (R182). -/
def HwQueue.pop (q : HwQueue) : HwQueue :=
  { q with words := q.words.tail, returning := if q.local_ then q.returning else q.returning + 1 }

/-- The value of a general register as a source operand: g0 is 0; a consumer-bound register gives the queue's oldest
word, an input-streaming one the next element; one that cannot be read, bound to a producer end or streaming out, what it
holds, for TVAL (R34, R175, R180, R456). -/
def State.rd (s : State) (r : BitVec 5) : Word :=
  if r = 0#5 then 0#64
  else match s.th.gBind r with
    | some b => if b.producer then regGet s.th.g r else (match s.queue b.queue with
      | some q => q.words.headD 0#64
      | none => 0#64)
    | none => match s.th.gStream r with
      | some x => if x.output then regGet s.th.g r else s.streamHead x
      | none => regGet s.th.g r

/-- The value TVAL takes for a check of an instruction with these general registers: the first of them, which its a field
names or, where that names none, its b field; or 0 (R456). -/
def State.checkValue (s : State) (gs : List (BitVec 5)) : Word :=
  match gs with
  | r :: _ => s.rd r
  | [] => 0#64

/-- Ends the stream of a register: the register leaves stream mode and its transfer completes (R176). -/
def State.endStream (s : State) (r : Nat) : State :=
  match get8 s.th.streams (BitVec.ofNat 3 r) with
  | some x =>
    let s := { s with th := { s.th with streams := set8 s.th.streams (BitVec.ofNat 3 r) none
                                        cstat := setField s.th.cstat 38 32 (wfield s.th.cstat 38 32 - 1) } }
    let t := s.myTile
    let c := t.chans.toList.getD x.ch Channel.reset
    let c := { c with transfers := c.transfers.filter fun y => !(y.stream == some r && y.slot == s.cur) }
    s.setTile (tileOf s.cur) { t with chans := t.chans.setIfInBounds x.ch c }
  | none => s

/-- Takes one word or element from a source register that is bound to a queue or a stream. The register of a stream keeps
the element last popped, for when the stream ends; the last element of an input stream ends it (R175, R176, R180). -/
def State.popSource (s : State) (r : BitVec 5) : State :=
  match s.th.gBind r with
  | some b => (match s.queue b.queue with
    | some q => { s with queues := assocSet b.queue.toNat q.pop s.queues }
    | none => s)
  | none => match s.th.gStream r with
    | some x =>
      let v := s.streamHead x
      let i := BitVec.ofNat 3 (r.toNat - 24)
      let s := { s with th := { s.th with streams := set8 s.th.streams i (some { x with used := x.used + 1 })
                                          g := regSet s.th.g r v } }
      if x.used + 1 = x.total then s.endStream (r.toNat - 24) else s
    | none => s

/-- Pops every distinct source register once, in the order given (R175, R180). -/
def State.popSources (s : State) (rs : List (BitVec 5)) : State := rs.eraseDups.foldl State.popSource s

/-- Writes a general register: g0 discards; a producer-bound register pushes; an output-streaming one puts the element
into the ring; an input-streaming one ends its stream and holds the value (R34, R175, R176, R180, R194). -/
def State.wr (s : State) (r : BitVec 5) (x : Word) : State :=
  if r = 0#5 then s
  else match s.th.gBind r with
    | some b => (match s.queue b.queue with
      | some q => { s with queues := assocSet b.queue.toNat (q.push x) s.queues }
      | none => s)
    | none => match s.th.gStream r with
      | some y =>
        if y.output then
          let s := (s.clearPoison (y.place s.myWindow y.used) y.esize).setBytes (y.place s.myWindow y.used) (leBytes y.esize x.toNat)
          { s with th := { s.th with streams := set8 s.th.streams (BitVec.ofNat 3 (r.toNat - 24)) (some { y with used := y.used + 1 }) } }
        else
          let s := s.endStream (r.toNat - 24)
          { s with th := { s.th with g := regSet s.th.g r x } }
      | none => { s with th := { s.th with g := regSet s.th.g r x } }

/-- Writes registers in the order given. -/
def State.wrs (s : State) (ws : List (BitVec 5 × Word)) : State := ws.foldl (fun s w => s.wr w.1 w.2) s

/-- A condition register; q0 reads true (R34). -/
def State.q (s : State) (i : BitVec 3) : Bool := i == 0#3 || s.th.q.getLsbD i.toNat
/-- Writes a condition register; a write to q0 is discarded (R34). -/
def State.setQ (s : State) (i : BitVec 3) (b : Bool) : State :=
  if i = 0#3 then s
  else { s with th := { s.th with q := if b then s.th.q ||| (1#8 <<< i.toNat) else s.th.q &&& ~~~(1#8 <<< i.toNat) } }

/-! The end of an instruction (R319). -/

/-- Enters a loop body at ls through the set's loop window: held bytes of the current mode that are not stale go to the
fetch buffer; otherwise the window is refetched and the thread waits for it (R319). -/
def Thread.enterLoop (t : Thread) (n : BitVec 1) : Thread :=
  let l := get2 t.loops n
  let a := l.ls.zeroExtend 64
  let refetch : Thread :=
    { t with pc := a, fbuf := emptyFbuf a, entering := some (8 + n.toNat), wait := some .window
             loops := set2 t.loops n { l with win := .inFlight (t.fetchId t.mode), stale := false } }
  match l.win, l.stale with
  | .ready m cells, false => if m = t.mode then { t with pc := a, fbuf := { base := a.toNat, cells := cells, fail := none } } else refetch
  | .inFlight m, false =>
    if m.mode = t.mode then { t with pc := a, fbuf := emptyFbuf a, entering := some (8 + n.toNat), wait := some .window } else refetch
  | _, _ => refetch

/-- One loop set's part of EndOfBody: the thread, and whether the body repeats (R319). -/
def Thread.endOfBody (t : Thread) (n : BitVec 1) (addr : Word) : Thread × Bool :=
  let l := get2 t.loops n
  if l.lc ≠ 0#32 ∧ l.le.zeroExtend 64 = addr then
    let t := { t with loops := set2 t.loops n { l with lc := l.lc - 1#32 } }
    if l.lc - 1#32 ≠ 0#32 then (t.enterLoop n, true) else (t, false)
  else (t, false)

/-- The marks of an instruction in progress, cleared when it ends. -/
def Thread.settle (t : Thread) : Thread :=
  { t with wait := none, refetched := none, outstanding := none, walkFail := [], posted := none, served := none, waitBind := none }

/-- The thread after an instruction retired without a taken transfer, where the next instruction in sequence is given:
EndOfBody for set 1 and then set 0, and otherwise that instruction (R319). -/
def Thread.advanceTo (t : Thread) (next : Word) : Thread :=
  let a := t.pc
  let r1 := t.settle.endOfBody 1#1 a
  if r1.2 then r1.1
  else
    let r0 := r1.1.endOfBody 0#1 a
    if r0.2 then r0.1 else { r0.1 with pc := next }

/-- The thread after an instruction of the given length retired without a taken transfer. -/
def Thread.advance (t : Thread) (len : Nat) : Thread := t.advanceTo (t.pc + BitVec.ofNat 64 len)

/-- Retires the instruction in focus. -/
def State.retire (s : State) (len : Nat) : State := { s with th := s.th.advance len }

/-- The end of an instruction: sources popped, destinations written in order, and the instruction retired. -/
def State.finish (s : State) (len : Nat) (srcs : List (BitVec 5)) (ws : List (BitVec 5 × Word)) : State :=
  ((s.popSources srcs).wrs ws).retire len

/-- The end of an instruction, as an action. -/
def finish (len : Nat) (srcs : List (BitVec 5)) (ws : List (BitVec 5 × Word)) : Act Unit :=
  modify fun s => s.finish len srcs ws

/-- The state of a transfer taken: the fetch buffer holds the window's bytes and the target is next (R311). -/
def Thread.jumpTo (t : Thread) (target : Word) (cells : List Cell) : Thread :=
  { t.settle with pc := target, fbuf := { base := target.toNat, cells := cells, fail := none } }

end Sys2Proof.Machine
end

