-- ==== Sys2Proof/Machine/Flags.lean ====
section
/-! DEFINITION. The truth values of compares and their combination into a condition register, the carry of ADDX, the
saturation of ADDSAT and SUBSAT, and the field-by-field writes of control registers (R188, R191, R196, R197, R382). -/

namespace Sys2Proof.Machine

/-- The combine field: set, and-into, or-into (R197). -/
def combine (c : BitVec 2) (old t : Bool) : Bool :=
  match c.toNat with
  | 0 => t
  | 1 => old && t
  | _ => old || t

/-- A signed value clamped to 64 bits (R188). -/
def clamp64 (v : Int) : Word :=
  if v < -(2 ^ 63) then 0x8000000000000000#64
  else if 2 ^ 63 - 1 < v then 0x7FFFFFFFFFFFFFFF#64
  else BitVec.ofInt 64 v

/-- The 65-bit sum of ADDX (R191). -/
def addxSum (x y : Word) (carry : Bool) : Nat := x.toNat + y.toNat + (if carry then 1 else 0)

/-- The three writing forms (R382). -/
inductive CrOp where
  | write
  | set
  | clear
  deriving DecidableEq, Repr

/-- A register's value after a write, field by field: rw holds its RW bits and w1c its W1C bits, old is what the instruction
read, and now what that read left (R6, R382). -/
def fieldWrite (rw w1c : Word) (op : CrOp) (old now x : Word) : Word :=
  let new : Word := match op with
    | .write => x
    | .set => old ||| x
    | .clear => old &&& ~~~x
  let kept : Word := match op with
    | .set => now
    | _ => now &&& ~~~x
  (now &&& ~~~(rw ||| w1c)) ||| (new &&& rw) ||| (kept &&& w1c)

end Sys2Proof.Machine
end

