-- ==== Sys2Proof/Machine/Float.lean ====
section
/-! DEFINITION. Element formats and exact arithmetic: the binary floating formats and RoundF (R48, R51 to R55), the FS64
rationals and RoundQ (R49, R60, R61), shared-exponent blocks (R56, R57), the narrow sums (R62, R63, R65), and the value
of an element of any format. -/

namespace Sys2Proof.Machine

/-- An exact value: NaN, an infinity, or ±n/d with a sign that a zero keeps; d is positive. -/
inductive Num where
  | nan
  | inf (neg : Bool)
  | fin (neg : Bool) (n d : Nat)
  deriving DecidableEq, Repr

/-- Sign of a value. -/
def Num.neg : Num → Bool
  | .nan => false
  | .inf s => s
  | .fin s _ _ => s
/-- Whether a value is NaN. -/
def Num.isNan : Num → Bool
  | .nan => true
  | _ => false
/-- Whether a value is an infinity. -/
def Num.isInf : Num → Bool
  | .inf _ => true
  | _ => false
/-- Whether a value is a zero. -/
def Num.isZero : Num → Bool
  | .fin _ 0 _ => true
  | _ => false
/-- A value with its sign inverted. -/
def Num.negate : Num → Num
  | .nan => .nan
  | .inf s => .inf !s
  | .fin s n d => .fin (!s) n d
/-- A value's magnitude. -/
def Num.abs : Num → Num
  | .nan => .nan
  | .inf _ => .inf false
  | .fin _ n d => .fin false n d
/-- An integer as a value. -/
def Num.ofInt (i : Int) : Num := .fin (decide (i < 0)) i.natAbs 1
/-- The signed numerator of a finite value over its denominator. -/
def signed (neg : Bool) (n : Nat) : Int := if neg then -(n : Int) else n
/-- A quotient of an integer as a value; a zero has the given sign. -/
def Num.ofFrac (i : Int) (d : Nat) (zeroNeg : Bool) : Num := if i = 0 then .fin zeroNeg 0 1 else .fin (decide (i < 0)) i.natAbs d

/-! Status flags, as FSTAT, VSTAT, MSTAT and ESTAT place them (R207); RSTAT's INX, UNF, OVF and IND (R207). -/

/-- Inexact. -/
def flagNX : Word := 1
/-- Underflow. -/
def flagUF : Word := 2
/-- Overflow. -/
def flagOF : Word := 4
/-- Division by zero. -/
def flagDZ : Word := 8
/-- Invalid. -/
def flagNV : Word := 16
/-- Indeterminate (RSTAT). -/
def flagIND : Word := 8

/-! Binary floating formats (R51). -/

/-- A binary floating format. -/
structure FFmt where
  /-- Exponent bits. -/
  eb : Nat
  /-- Fraction bits. -/
  fb : Nat
  /-- E4M3: no infinity, and one NaN magnitude (R52). -/
  e4m3 : Bool
  deriving DecidableEq, Repr

def f64 : FFmt := ⟨11, 52, false⟩
def f32 : FFmt := ⟨8, 23, false⟩
def f16 : FFmt := ⟨5, 10, false⟩
def bf16 : FFmt := ⟨8, 7, false⟩
def e4m3 : FFmt := ⟨4, 3, true⟩
def e5m2 : FFmt := ⟨5, 2, false⟩

/-- The binary floating format of a code (R51). -/
def ffmtOf (c : Nat) : Option FFmt :=
  match c with
  | 8 => some f16
  | 9 => some bf16
  | 10 => some f32
  | 11 => some f64
  | 12 => some e4m3
  | 13 => some e5m2
  | _ => none

namespace FFmt
/-- Width in bits. -/
def width (f : FFmt) : Nat := 1 + f.eb + f.fb
/-- Bias. -/
def bias (f : FFmt) : Nat := 2 ^ (f.eb - 1) - 1
/-- Exponent of the weight of the last fraction bit in the lowest binade. -/
def qmin (f : FFmt) : Int := 1 - (f.bias : Int) - f.fb
/-- Encoding of the largest finite magnitude (R51). -/
def maxBits (f : FFmt) : Nat := if f.e4m3 then 2 ^ (f.width - 1) - 2 else (2 ^ f.eb - 1) * 2 ^ f.fb - 1
/-- Encoding of +∞. -/
def infBits (f : FFmt) : Nat := (2 ^ f.eb - 1) * 2 ^ f.fb
/-- The canonical quiet NaN (R51). -/
def nanBits (f : FFmt) : Nat := if f.e4m3 then 2 ^ (f.width - 1) - 1 else f.infBits + 2 ^ (f.fb - 1)
/-- Adds a sign bit. -/
def withSign (f : FFmt) (neg : Bool) (m : Nat) : Nat := if neg then 2 ^ (f.width - 1) + m else m
end FFmt

/-- m × 2^q as an exact value. -/
def Num.scaled (neg : Bool) (m : Nat) (q : Int) : Num :=
  if 0 ≤ q then .fin neg (m * 2 ^ q.toNat) 1 else .fin neg m (2 ^ (-q).toNat)

/-- The value of an encoding (R51, R52). -/
def FFmt.read (f : FFmt) (bits : Nat) : Num :=
  let m := bits % 2 ^ (f.width - 1)
  let neg := bits / 2 ^ (f.width - 1) % 2 == 1
  let e := m / 2 ^ f.fb
  let fr := m % 2 ^ f.fb
  if f.e4m3 then
    if m = 2 ^ (f.width - 1) - 1 then .nan
    else if e = 0 then Num.scaled neg fr f.qmin
    else Num.scaled neg (2 ^ f.fb + fr) (f.qmin + e - 1)
  else if e = 2 ^ f.eb - 1 then (if fr = 0 then .inf neg else .nan)
  else if e = 0 then Num.scaled neg fr f.qmin
  else Num.scaled neg (2 ^ f.fb + fr) (f.qmin + e - 1)

/-- Whether n/d is at least 2^k. -/
def geTwoPow (n d : Nat) (k : Int) : Bool :=
  if 0 ≤ k then decide (d * 2 ^ k.toNat ≤ n) else decide (d ≤ n * 2 ^ (-k).toNat)
/-- floor(log2(n/d)) of a positive n/d. -/
def floorLog2 (n d : Nat) : Int :=
  let k : Int := (n.log2 : Int) - d.log2
  if geTwoPow n d k then k else k - 1
/-- n/d divided by 2^q, as a fraction. -/
def overTwoPow (n d : Nat) (q : Int) : Nat × Nat := if 0 ≤ q then (n, d * 2 ^ q.toNat) else (n * 2 ^ (-q).toNat, d)

/-- n/d rounded to an integer by a rounding code (R54). -/
def roundNat (rm : Nat) (neg : Bool) (n d : Nat) : Nat :=
  let q := n / d
  let r := n % d
  let up := match rm with
    | 0 => decide (d < 2 * r) || (2 * r == d && q % 2 == 1)
    | 1 => false
    | 2 => neg && r != 0
    | 3 => !neg && r != 0
    | _ => decide (d ≤ 2 * r)
  if up then q + 1 else q

/-- RoundF (R48): the encoding and the flags. -/
def roundF (f : FFmt) (rm : Nat) (ovs : Bool) (x : Num) : Nat × Word :=
  match x with
  | .nan => (f.nanBits, 0)
  | .inf s =>
    if ovs then (f.withSign s f.maxBits, flagNX)
    else if f.e4m3 then (f.nanBits, flagNV)
    else (f.withSign s f.infBits, 0)
  | .fin s 0 _ => (f.withSign s 0, 0)
  | .fin s n d =>
    let e := floorLog2 n d
    let q := if e - f.fb < f.qmin then f.qmin else e - f.fb
    let (n', d') := overTwoPow n d q
    let m := roundNat rm s n' d'
    let bits := if m = 0 then 0 else (q - f.qmin).toNat * 2 ^ f.fb + m
    if f.maxBits < bits then
      let trunc := rm == 1 || (rm == 2 && !s) || (rm == 3 && s)
      let y := if trunc || ovs then f.withSign s f.maxBits
        else if f.e4m3 then f.nanBits
        else f.withSign s f.infBits
      (y, flagOF ||| flagNX)
    else
      let exact := m * d' == n'
      (f.withSign s bits, if exact then 0 else if bits < 2 ^ f.fb then flagNX ||| flagUF else flagNX)

/-! Exact operations; none where the operation is invalid or indeterminate. NaN operands are handled before them. -/

/-- The sum; an exact zero takes the sign of both addends, or + (− if rdn) where they differ (R211). -/
def Num.add (rdn : Bool) : Num → Num → Option Num
  | .nan, _ => some .nan
  | _, .nan => some .nan
  | .inf a, .inf b => if a = b then some (.inf a) else none
  | .inf a, _ => some (.inf a)
  | _, .inf b => some (.inf b)
  | .fin s n d, .fin t m e => some (.ofFrac (signed s n * e + signed t m * d) (d * e) (if s = t then s else rdn))

/-- The product (R62, R211). -/
def Num.mul : Num → Num → Option Num
  | .nan, _ => some .nan
  | _, .nan => some .nan
  | .fin s n d, .fin t m e => some (.fin (s != t) (n * m) (d * e))
  | x, y => if x.isZero || y.isZero then none else some (.inf (x.neg != y.neg))

/-- The quotient by a value that is not zero (R211). -/
def Num.div : Num → Num → Option Num
  | .nan, _ => some .nan
  | _, .nan => some .nan
  | .inf _, .inf _ => none
  | .inf s, y => some (.inf (s != y.neg))
  | x, .inf t => some (.fin (x.neg != t) 0 1)
  | .fin s n d, .fin t m e => some (.fin (s != t) (n * e) (d * m))

/-- x × y + z, formed exactly (R211). -/
def Num.fma (rdn : Bool) (x y z : Num) : Option Num := (x.mul y).bind fun p => p.add rdn z

/-- Comparison of values that are not NaN: less (R212, R218). -/
def Num.lt : Num → Num → Bool
  | .nan, _ => false
  | _, .nan => false
  | .inf a, .inf b => a && !b
  | .inf a, _ => a
  | _, .inf b => !b
  | .fin s n d, .fin t m e => decide (signed s n * e < signed t m * d)
/-- Comparison of values that are not NaN: equal (R212, R218). -/
def Num.eq : Num → Num → Bool
  | .nan, _ => false
  | _, .nan => false
  | .inf a, .inf b => a == b
  | .fin s n d, .fin t m e => signed s n * (e : Int) == signed t m * (d : Int)
  | _, _ => false

/-- floor(√n), bit by bit from bit i down, r the bits found. -/
def isqrtFrom (n : Nat) : Nat → Nat → Nat
  | 0, r => r
  | i + 1, r => let t := r + 2 ^ i; isqrtFrom n i (if t * t ≤ n then t else r)
/-- floor(√n). -/
def isqrt (n : Nat) : Nat := isqrtFrom n (n.log2 / 2 + 1) 0

/-- Bits kept below the point in a square root: no rounding boundary of any format lies further down. -/
def sqrtGuard : Nat := 640
/-- √(n/d): exact where it is a multiple of 1/(d × 2^guard), and otherwise a value in the same gap of that grid, which
every rounding of the device treats alike. -/
def sqrtFrac (n d : Nat) : Nat × Nat :=
  let t := n * d * 4 ^ sqrtGuard
  let r := isqrt t
  if r * r = t then (r, d * 2 ^ sqrtGuard) else (2 * r + 1, d * 2 ^ (sqrtGuard + 1))

/-- The square root; none for a negative value other than −0 (R211). -/
def Num.sqrt : Num → Option Num
  | .nan => some .nan
  | .inf s => if s then none else some (.inf false)
  | .fin s 0 d => some (.fin s 0 d)
  | .fin s n d => if s then none else let r := sqrtFrac n d; some (.fin false r.1 r.2)

/-- A binary operation's result: NaN operands give canonical NaN without a flag, an invalid operation gives it with NV,
an infinite exact result is not rounded, and any other is (R211). -/
def finishF (f : FFmt) (rm : Nat) (ovs : Bool) (nanOperand : Bool) (r : Option Num) : Nat × Word :=
  if nanOperand then (f.nanBits, 0)
  else match r with
    | none => (f.nanBits, flagNV)
    | some (.inf s) => (f.withSign s f.infBits, 0)
    | some x => roundF f rm ovs x

/-- The quotient of BinaryArith: a finite nonzero value over a zero gives ∞ with DZ (R211); ∞ over a zero is that exact
infinity (DEDUCED: R207's DZ is for a finite dividend). -/
def divF (f : FFmt) (rm : Nat) (ovs : Bool) (x y : Num) : Nat × Word :=
  if x.isNan || y.isNan then (f.nanBits, 0)
  else if y.isZero then
    if x.isZero then (f.nanBits, flagNV)
    else (f.withSign (x.neg != y.neg) f.infBits, if x.isInf then 0 else flagDZ)
  else finishF f rm ovs false (x.div y)

/-- FMIN and FMAX on encodings: NaN if either is, otherwise an operand bit for bit, −0 below +0 (R212). -/
def minMaxF (f : FFmt) (max : Bool) (x y : Nat) : Nat :=
  let a := f.read x
  let b := f.read y
  if a.isNan || b.isNan then f.nanBits
  else
    let less := a.lt b || (a.isZero && b.isZero && a.neg && !b.neg)
    if less != max then x else y

/-! FS64 (R60, R61). -/

/-- Number of bits of a natural number. -/
def bitLen (n : Nat) : Nat := if n = 0 then 0 else n.log2 + 1
/-- Whether the reduced fraction n/d is representable (R49). -/
def inS (n d : Nat) : Bool := decide (bitLen n + bitLen d ≤ 57)

/-- The value of an FS64 word (R61). -/
def fsRead (w : Word) : Num :=
  let s := w.getLsbD 63
  let b := wfield w 62 57
  let v := wfield w 56 0
  if b = 0 then (if v = 1 then .inf s else .nan)
  else if 57 ≤ b then .nan
  else
    let n := v / 2 ^ b
    let d := v % 2 ^ b
    if d < 2 ^ (b - 1) then .nan
    else if n = 0 then (if d = 1 then .fin false 0 1 else .nan)
    else if Nat.gcd n d ≠ 1 then .nan
    else .fin s n d

/-- The canonical word of a representable reduced fraction. -/
def fsWord (s : Bool) (n d : Nat) : Word :=
  if n = 0 then 0x0200000000000001#64
  else BitVec.ofNat 64 ((if s then 2 ^ 63 else 0) + bitLen d * 2 ^ 57 + n * 2 ^ bitLen d + d)
/-- The NaN code. -/
def fsNan : Word := 0
/-- The word of an infinity. -/
def fsInf (s : Bool) : Word := if s then 0x8000000000000001#64 else 1#64
/-- The word of a value that is representable. -/
def fsEncode : Num → Word
  | .nan => fsNan
  | .inf s => fsInf s
  | .fin s n d => let g := Nat.gcd n d; fsWord s (n / g) (d / g)
/-- Whether a word is canonical (R61). -/
def fsCanonical (w : Word) : Bool := fsEncode (fsRead w) == w

/-- The largest k of i bits for which (a + kc)/(b + kd) is representable and on the side of x that a/b is on, found bit by
bit. -/
def slideFrom (a b c d xn xd : Nat) (left : Bool) : Nat → Nat → Nat
  | 0, k => k
  | i + 1, k =>
    let k' := k + 2 ^ i
    let n := a + k' * c
    let m := b + k' * d
    let ok := inS n m && (if left then decide (n * xd < xn * m) else decide (xn * m < n * xd))
    slideFrom a b c d xn xd left i (if ok then k' else k)

/-- The representable neighbours below and above a fraction that is not representable, by the Stern–Brocot descent with
whole runs at a time (R49). -/
def bracket (xn xd : Nat) : Nat → (Nat × Nat) × (Nat × Nat) → (Nat × Nat) × (Nat × Nat)
  | 0, r => r
  | fuel + 1, ((a, b), (c, d)) =>
    let k := slideFrom a b c d xn xd true 58 0
    let l := (a + k * c, b + k * d)
    let j := slideFrom c d l.1 l.2 xn xd false 58 0
    let h := (c + j * l.1, d + j * l.2)
    if k = 0 ∧ j = 0 then (l, h) else bracket xn xd fuel (l, h)

/-- The largest finite FS64 magnitude. -/
def fsMax : Nat := 2 ^ 56 - 1

/-- RoundQ (R49): the word and the RSTAT flags. -/
def roundQ (rm : Nat) (ovs : Bool) (x : Num) : Word × Word :=
  match x with
  | .nan => (fsNan, 0)
  | .inf s => if ovs then (fsWord s fsMax 1, flagNX) else (fsInf s, 0)
  | .fin s n0 d0 =>
    let g := Nat.gcd n0 d0
    let n := n0 / g
    let d := d0 / g
    if n = 0 ∨ inS n d then (fsWord s n d, 0)
    else if fsMax * d < n then
      let trunc := rm == 1 || (rm == 2 && !s) || (rm == 3 && s)
      (if trunc || ovs then fsWord s fsMax 1 else fsInf s, flagOF ||| flagNX)
    else
      let ((ln, ld), (hn, hd)) := bracket n d 130 ((0, 1), (1, 0))
      let p : Nat × Nat := if rm = 0 then (ln + hn, ld + hd) else (ln * hd + hn * ld, 2 * ld * hd)
      let low := match rm with
        | 1 => true
        | 2 => !s
        | 3 => s
        | _ =>
          if n * p.2 < p.1 * d then true
          else if p.1 * d < n * p.2 then false
          else if ld ≠ hd then decide (ld < hd)
          else ln % 2 == 0
      let r := if low then fsWord s ln ld else fsWord s hn hd
      (r, if ln = 0 then flagNX ||| flagUF else flagNX)

/-- A rational operation's result (R218). -/
def finishQ (rm : Nat) (ovs : Bool) (nanOperand : Bool) (r : Option Num) : Word × Word :=
  if nanOperand then (fsNan, 0)
  else match r with
    | none => (fsNan, flagIND)
    | some (.inf s) => (fsInf s, 0)
    | some x => roundQ rm ovs x

/-! Integer formats and element values (R50, R69). -/

/-- Signedness and width of an integer format code (R50). -/
def intFmtOf (c : Nat) : Option (Bool × Nat) := if c < 4 then some (true, 8 * 2 ^ c) else if c < 8 then some (false, 8 * 2 ^ (c - 4)) else none
/-- The mantissa width of an SXB format code (R69). -/
def sxbOf (c : Nat) : Option Nat := if 0x10 ≤ c ∧ c ≤ 0x16 then some (c - 0x10 + 2) else none
/-- Whether a format code is reserved (R69). -/
def reservedFormat (c : Nat) : Bool := decide (0x17 ≤ c)
/-- Width of an element of a format (R69). -/
def fmtWidth (c : Nat) : Nat :=
  match intFmtOf c with
  | some (_, w) => w
  | none => match ffmtOf c with
    | some f => f.width
    | none => if c = 14 then 4 else if c = 15 then 64 else c - 0x10 + 2

/-- Two's complement of the low w bits. -/
def toSigned (w x : Nat) : Int := if x % 2 ^ w < 2 ^ (w - 1) then (x % 2 ^ w : Nat) else (x % 2 ^ w : Nat) - (2 ^ w : Nat)
/-- The low w bits of an integer. -/
def ofSigned (w : Nat) (i : Int) : Nat := (i % (2 ^ w : Nat)).toNat

/-- The value of a stored element of an integer, floating or FS64 format (R50 to R52, R61). -/
def elemValue (c bits : Nat) : Num :=
  match intFmtOf c with
  | some (sg, w) => if sg then .ofInt (toSigned w bits) else .fin false (bits % 2 ^ w) 1
  | none => match ffmtOf c with
    | some f => f.read bits
    | none => fsRead (BitVec.ofNat 64 bits)

/-- The value of a K4 element under a code table (R58). -/
def k4Value (table : BitVec 128) (bits : Nat) : Num := .ofInt (toSigned 8 (field table.toNat (8 * (bits % 16) + 7) (8 * (bits % 16))))

/-- The value of an SXB element of mantissa width m in a block of exponent e (R56). -/
def sxbValue (m e bits : Nat) : Num :=
  if e = 0 then .fin false 0 1
  else if e = 255 then .nan
  else
    let i := toSigned m bits
    Num.scaled (decide (i < 0)) i.natAbs ((e : Int) - 127 - (m - 1))

/-- SXBEncode (R57): the block's exponent, its mantissas and the flags (log 45). -/
def sxbEncode (xs : List Num) (m rm : Nat) (ovs : Bool) : Nat × List Nat × Word :=
  let zeros := xs.map fun _ => 0
  if xs.any Num.isNan then (255, zeros, 0)
  else if xs.all Num.isZero then (0, zeros, 0)
  else
    let eb : Int :=
      if xs.any Num.isInf then 255
      else (xs.filterMap fun x => match x with
        | .fin _ n d => if n = 0 then none else some (floorLog2 n d)
        | _ => none).foldl (fun a b => if a < b then b else a) (-5000) + 128
    let eb := if eb < 1 then 1 else eb
    if 254 < eb ∧ !ovs then (255, zeros, flagOF ||| flagNX)
    else
      let past := decide (254 < eb)
      let eb := if 254 < eb then 254 else eb
      let step := eb - 127 - (m - 1)
      let top : Int := 2 ^ (m - 1) - 1
      let one (x : Num) : Int × Bool := match x with
        | .fin s n d =>
          let (a, b) := overTwoPow n d step
          let r := signed s (roundNat rm s a b)
          let c := if top < r then top else if r < -(2 ^ (m - 1)) then -(2 ^ (m - 1)) else r
          (c, decide (c * (b : Int) ≠ signed s a))
        | .inf s => (if s then -(2 ^ (m - 1)) else top, true)
        | .nan => (0, false)
      let ms := xs.map one
      let fl : Word := (if past then flagOF ||| flagNX else 0) ||| (if ms.any (·.2) then flagNX else 0)
      if ms.all fun r => r.1 == 0 then (0, zeros, fl ||| flagUF) else (eb.toNat, ms.map fun r => ofSigned m r.1, fl)

/-! Sums of products (R62, R63, R65, R66). -/

/-- The product of two elements (R62). -/
def product (x y : Num) : Num := (x.mul y).getD .nan

/-- NarrowGroup (R63): an F32 encoding and its flags; NV where no factor is NaN but the result is. -/
def narrowGroup (ps : List Num) (nanFactor ovs : Bool) : Nat × Word :=
  let pos := ps.any fun p => p == .inf false
  let neg := ps.any fun p => p == .inf true
  if ps.any Num.isNan || (pos && neg) then (f32.nanBits, if nanFactor then 0 else flagNV)
  else if pos then (f32.infBits, 0)
  else if neg then (f32.withSign true f32.infBits, 0)
  else
    let fins := ps.filterMap fun p => match p with
      | .fin s n d => if n = 0 then none else some (s, n, d)
      | _ => none
    match fins.map fun p => floorLog2 p.2.1 p.2.2 with
    | [] => (0, 0)
    | e :: es =>
      let emax := es.foldl (fun a b => if a < b then b else a) e + 1
      let q := emax - 58
      let s : Int := (fins.map fun p => let (a, b) := overTwoPow p.2.1 p.2.2 q; (signed p.1 a) / (b : Int)).foldl (· + ·) 0
      if s = 0 then (0, 0) else roundF f32 0 ovs (Num.scaled (decide (s < 0)) s.natAbs q)

/-- One F32 addition of an accumulation: RNE under the instruction's OVS, ∞ − ∞ giving NaN (R63); with its flags. -/
def accAdd (f : FFmt) (ovs : Bool) (a b : Num) : Nat × Word :=
  if a.isNan || b.isNan then (f.nanBits, 0)
  else match a.add false b with
    | none => (f.nanBits, flagNV)
    | some x => roundF f 0 ovs x

/-- Lists cut into groups of n. -/
def chunks (n : Nat) (fuel : Nat) (l : List α) : List (List α) :=
  match fuel, l with
  | 0, _ => []
  | _, [] => []
  | f + 1, l => l.take n :: chunks n f (l.drop n)

/-- NarrowAccumulate (R63): from an F32 accumulator over the factor pairs, in groups of 32; the result and its flags. -/
def narrowAccumulate (acc : Nat) (ps : List (Num × Num)) (ovs : Bool) : Nat × Word :=
  (chunks 32 ps.length ps).foldl (fun a g =>
    let r := narrowGroup (g.map fun p => product p.1 p.2) (g.any fun p => p.1.isNan || p.2.isNan) ovs
    let t := accAdd f32 ovs (f32.read a.1) (f32.read r.1)
    (t.1, a.2 ||| r.2 ||| t.2)) (acc, 0)

/-- One fused step of an accumulator (R66, R271). -/
def fusedStep (f : FFmt) (ovs : Bool) (acc : Nat) (x y : Num) : Nat × Word :=
  let z := f.read acc
  if x.isNan || y.isNan || z.isNan then (f.nanBits, 0)
  else match Num.fma false x y z with
    | none => (f.nanBits, flagNV)
    | some v => roundF f 0 ovs v

/-- A chain of fused steps in ascending k (R66). -/
def fusedChain (f : FFmt) (acc : Nat) (ps : List (Num × Num)) (ovs : Bool) : Nat × Word :=
  ps.foldl (fun a p => let t := fusedStep f ovs a.1 p.1 p.2; (t.1, a.2 ||| t.2)) (acc, 0)

/-- A pair of SXB blocks: mantissa widths, exponents and mantissas (R65). -/
def blockPair (ma mb ea eb : Nat) (xs ys : List Int) (ovs : Bool) : Nat × Word :=
  let p : Int := (List.zipWith (· * ·) xs ys).foldl (· + ·) 0
  if ea = 255 ∨ eb = 255 then (f32.nanBits, 0)
  else if ea = 0 ∨ eb = 0 ∨ p = 0 then (0, 0)
  else roundF f32 0 ovs (Num.scaled (decide (p < 0)) p.natAbs ((ea : Int) + eb - 254 - (ma - 1) - (mb - 1)))

/-! Conversions (R215, R216). -/

/-- A value rounded to an integer format with clamping: the element and whether the value was out of range, and inexact
(R216). -/
def toInteger (sg : Bool) (w rm : Nat) (x : Num) : Int × Bool × Bool :=
  let lo : Int := if sg then -(2 ^ (w - 1)) else 0
  let hi : Int := if sg then 2 ^ (w - 1) - 1 else 2 ^ w - 1
  match x with
  | .nan => (0, true, false)
  | .inf s => (if s then lo else hi, true, false)
  | .fin s n d =>
    let r := signed s (roundNat rm s n d)
    if r < lo then (lo, true, false)
    else if hi < r then (hi, true, false)
    else (r, false, decide (r * (d : Int) ≠ signed s n))

/-- Near12 of a positive fraction (R241): the nearest value of at most 12 significant bits. -/
def near12 (n d : Nat) : Nat × Nat :=
  let q := floorLog2 n d - 11
  let (a, b) := overTwoPow n d q
  let m := roundNat 0 false a b
  if 0 ≤ q then (m * 2 ^ q.toNat, 1) else (m, 2 ^ (-q).toNat)

end Sys2Proof.Machine
end

