-- ==== Sys2Proof/Machine/Monitor.lean ====
section
/-! DEFINITION. The monitors of tiles and dies and the samples they take (R415, R416). -/

namespace Sys2Proof.Machine

/-- The bin a sample enters (R415). -/
def binOf (v : Nat) : Nat := if v = 0 then 0 else min (v.log2 + 1) 31

/-- A monitor after a sample: bins saturate (R415). -/
def Monitor.add (m : Monitor) (v : Nat) : Monitor :=
  let b := binOf v
  let old := m.bins.toList.getD b 0
  { min := if v < m.min.toNat then BitVec.ofNat 64 v else m.min
    max := if m.max.toNat < v then BitVec.ofNat 64 v else m.max
    count := m.count + 1#64
    bins := m.bins.setIfInBounds b (if old = 0xFFFFFFFF#32 then old else old + 1#32) }

/-- The event code of a control register as it counts: a code that is not valid for the monitor is 0 (R416). -/
def eventCode (ctl : Word) (die : Bool) : Nat :=
  let c := wfield ctl 15 8
  if die then (if 9 ≤ c ∧ c ≤ 12 then c else 0) else (if c ≤ 9 then c else 0)

/-- The monitor of a control register takes a sample of an event, if it is enabled for it and its DOM and CORE fields
admit one (R415, R416). -/
def Monitor.take (m : Monitor) (ctl : Word) (die : Bool) (ev : Nat) (v : Nat → Nat → Option Nat) : Monitor :=
  if ctl.getLsbD 63 && eventCode ctl die == ev && ev != 0 then
    match v (wfield ctl 7 4) (wfield ctl 3 0) with
    | some n => m.add n
    | none => m
  else m

/-- Offers a sample of an event to a tile's monitors; its value is given by the DOM and CORE filters. -/
def State.sampleTile (s : State) (tile ev : Nat) (v : Nat → Nat → Option Nat) : State :=
  let t := s.tile tile
  let m (i : BitVec 2) : Monitor := (get4 t.monitors i).take (get4 t.monctl i) false ev v
  let new : Vector Monitor 4 := #v[m 0, m 1, m 2, m 3]
  if new == t.monitors then s else s.setTile tile { t with monitors := new }

/-- Offers a sample of an event to a die's monitors. -/
def State.sampleDie (s : State) (die ev : Nat) (v : Nat → Nat → Option Nat) : State :=
  let d := s.die die
  let ms := d.dmonctl.map fun c => (c.1, (assocGet Monitor.reset c.1 d.dmonitors).take c.2 true ev v)
  let new := ms.foldl (fun l m => if m.2 = Monitor.reset then l else assocSet m.1 m.2 l) d.dmonitors
  if new = d.dmonitors then s else s.setDie die { d with dmonitors := new }

/-- Whether a CORE filter admits a core, 0 to 7 of its tile: other values take no samples (R416). -/
def coreFilter (f core : Nat) : Bool := f == 15 || (f == core && decide (f < 8))
/-- Whether a DOM filter admits a domain; a task of no domain is admitted by 15 only. -/
def domFilter (f : Nat) (dom : Option Nat) : Bool := f == 15 || dom == some f

/-- A latency event of a core of a tile: one sample whose value is a free number, since the model counts no clk of latency
(R415; log 22). -/
def State.sampleLatency (s : State) (core ev : Nat) (dom : Option Nat) : State :=
  let (v, s) := s.choose (2 ^ 32)
  s.sampleTile (core / 8) ev fun d c => if coreFilter c (core % 8) && (ev != 5 || domFilter d dom) then some v else none

end Sys2Proof.Machine
end

