-- ==== Sys2Proof/Machine/Translate.lean ====
section
/-! DEFINITION. The physical map, page tables, translation caches and walks (R77 to R101), the checks of a memory
access up to step 9 of R201, and what a store does to windows. -/

namespace Sys2Proof.Machine

open Host (Cell)

/-! The physical map (R77 to R82). -/

/-- Bytes of HBM per die. -/
def hbmPerDie : Nat := 0x3000000000
/-- Whether a physical address lies in HBM, the reserved cache range included. -/
def inHbm (pa : Nat) : Bool := decide (pa < 4 * hbmPerDie)
/-- The die that homes an HBM address (R77). -/
def hbmDie (pa : Nat) : Nat := pa / hbmPerDie
/-- The global HBM stack that an address lies in: 4 KiB granules rotate over the three stacks of their die (R78). -/
def hbmStack (pa : Nat) : Nat := 3 * hbmDie pa + pa / 4096 % 2 ^ 36 % 3
/-- First physical address of the CXL windows. -/
def cxlBase : Nat := 0x100000000000
/-- The port, 4 × hub + port, whose window holds a physical address (R77). -/
def cxlPort (pa : Nat) : Option Nat :=
  if cxlBase ≤ pa ∧ pa < cxlBase + 8 * 0x8000000000 then some ((pa - cxlBase) / 0x8000000000) else none

/-- The kind of an access. -/
inductive AccessKind where
  | load
  | store
  | rmw
  | fetch
  deriving DecidableEq, Repr

/-- Whether the access writes. -/
def AccessKind.writes (k : AccessKind) : Bool := k == .store || k == .rmw

/-- Whether the map lists an address that programs can reach (R77, R79, R81). -/
def State.mapped (s : State) (pa : Nat) : Bool :=
  if inHbm pa then decide (pa % hbmPerDie < hbmPerDie - s.rdcGiB * 2 ^ 30)
  else if inLm pa then true
  else if inRom pa then true
  else match cxlPort pa with
    | some p => decide ((pa - cxlBase) % 0x8000000000 < assocGet 0 p s.cxl)
    | none => false

/-- The check of a physical address against the map (R82); v is the value TVAL takes. -/
def State.mapCheck (s : State) (pa : Nat) (mode : BitVec 2) (k : AccessKind) (v : Word) : Option Cause :=
  if !s.mapped pa then some { code := code 1 7, tval := v, violation := false }
  else if inRom pa && !(mode == 3#2 && (k == .load || k == .fetch)) then some { code := code 1 8, tval := v, violation := true }
  else none

/-! Page-table entries (R86 to R89). -/

/-- Bytes of a page of a level: 64 KiB, 64 MiB, 64 GiB (R86). -/
def pageSize (level : Nat) : Nat := 2 ^ (16 + 10 * level)
/-- Whether an entry serves an access of an ASID at an address (R91). -/
def TlbEntry.serves (e : TlbEntry) (asid va : Nat) : Bool :=
  (e.asid == asid || e.leaf.getLsbD 5) && va / pageSize e.level == e.vpn
/-- The physical address a leaf gives (R86, R87). -/
def TlbEntry.pa (e : TlbEntry) (va : Nat) : Nat := wfield e.leaf 51 16 * 65536 + va % pageSize e.level
/-- D of a leaf. -/
def TlbEntry.dirty (e : TlbEntry) : Bool := e.leaf.getLsbD 7
/-- C of a leaf. -/
def TlbEntry.cacheable (e : TlbEntry) : Bool := e.leaf.getLsbD 8
/-- M of a leaf. -/
def TlbEntry.migratory (e : TlbEntry) : Bool := e.leaf.getLsbD 9

/-- Whether a leaf permits an access in a mode (R89). -/
def leafPermits (leaf : Word) (mode : BitVec 2) (k : AccessKind) : Bool :=
  let r := leaf.getLsbD 1
  let w := leaf.getLsbD 2
  let x := leaf.getLsbD 3
  let u := leaf.getLsbD 4
  (match k with
    | .load => r
    | .store => w
    | .rmw => r && w
    | .fetch => x) &&
  (if mode = 0#2 then u else if k = .fetch then !u else true)

/-- Whether an entry with V = 1 is a leaf (R87). -/
def pteLeaf (e : Word) : Bool := e.getLsbD 1 || e.getLsbD 2 || e.getLsbD 3

/-- The cause of a malformed or invalid entry of a level, in the order of R88. -/
def pteCheck (e : Word) (level : Nat) : Option Nat :=
  if !e.getLsbD 0 then some 4
  else if wfield e 59 52 ≠ 0 ∨ (!pteLeaf e ∧ wfield e 12 1 ≠ 0) ∨ (pteLeaf e ∧ wfield e 15 10 ≠ 0) then some 5
  else if (!pteLeaf e ∧ level = 0) ∨ (pteLeaf e ∧ level = 3) then some 5
  else if pteLeaf e ∧ e.getLsbD 2 ∧ !e.getLsbD 1 then some 5
  else if pteLeaf e ∧ ((level = 1 ∧ wfield e 25 16 ≠ 0) ∨ (level = 2 ∧ wfield e 35 16 ≠ 0)) then some 5
  else none

/-- A source-1 fault. -/
def fault1 (cause : Nat) (v : Word) : Cause := { code := code 1 cause, tval := v, violation := false }

/-- What a walk finds: the addresses it read, the non-leaf entries there, and a leaf or a fault (R86, R88). -/
structure WalkFound where
  reads : List Nat
  nodes : List WalkCacheEntry
  result : Except Cause TlbEntry

/-- The walk from a node of a level down (R86, R88): TVAL of a fault is the virtual address. -/
def State.walkFrom (s : State) (mode : BitVec 2) (asid va : Nat) : (level : Nat) → (node : Nat) → WalkFound
  | level, node =>
    let v := BitVec.ofNat 64 va
    let pa := node + 8 * (va / 2 ^ (16 + 10 * level) % 1024)
    match s.mapCheck pa mode .load v with
    | some c => ⟨[], [], .error c⟩
    | none =>
      let e := s.word pa
      match pteCheck e level with
        | some c => ⟨[pa], [], .error (fault1 c v)⟩
        | none =>
          if s.poisoned pa 8 then ⟨[pa], [], .error (fault1 6 v)⟩
          else if pteLeaf e then
            ⟨[pa], [], .ok { asid := asid, level := level, vpn := va / pageSize level, leaf := e, leafPa := pa }⟩
          else match level with
            | 0 => ⟨[pa], [], .error (fault1 5 v)⟩
            | l + 1 =>
              let next := wfield e 51 13 * 8192
              let r := State.walkFrom s mode asid va l next
              ⟨pa :: r.reads, { asid := asid, level := l + 1, tag := va / 2 ^ (16 + 10 * (l + 1)), next := next } :: r.nodes, r.result⟩

/-- The deepest non-leaf the walk cache of a die holds for an address: the level and node to go on from (R92). -/
def State.walkStart (s : State) (die asid va : Nat) (ptbase : Word) : Nat × Nat :=
  let hit (l : Nat) := (s.die die).wcache.find? fun e => e.asid == asid && e.level == l && e.tag == va / 2 ^ (16 + 10 * l)
  match hit 1 with
  | some e => (0, e.next)
  | none => match hit 2 with
    | some e => (1, e.next)
    | none => match hit 3 with
      | some e => (2, e.next)
      | none => (3, wfield ptbase 51 13 * 8192)

/-- The walk of an address for a die: from the deepest level that the walk cache holds, or as a restart from the root (R86, R92,
R96). -/
def State.walk (s : State) (die : Nat) (mode : BitVec 2) (asid va : Nat) (ptbase : Word) (fromRoot : Bool) : WalkFound :=
  let p := if fromRoot then (3, wfield ptbase 51 13 * 8192) else s.walkStart die asid va ptbase
  s.walkFrom mode asid va p.1 p.2

/-- Inserts into a bounded cache: an entry the new one replaces is removed, and at capacity a victim that the manual
does not name goes (R91; log 13). -/
def cacheInsert (cap : Nat) (same : α → Bool) (x : α) (choice : Nat) (l : List α) : List α :=
  let l := l.filter fun y => !same y
  if l.length < cap then x :: l else x :: l.eraseIdx (choice % l.length)

/-- Installs the non-leaves a walk read in the die's walk cache (R91). -/
def State.installNodes (s : State) (die : Nat) (ns : List WalkCacheEntry) : State :=
  ns.foldl (fun s n =>
    let c := s.choose (2 ^ 64)
    let d := c.2.die die
    c.2.setDie die { d with wcache := cacheInsert 1024 (fun e => e.asid == n.asid && e.level == n.level && e.tag == n.tag) n c.1 d.wcache }) s

/-- Whether two cached leaves are for one page. -/
def TlbEntry.same (a b : TlbEntry) : Bool := a.asid == b.asid && a.level == b.level && a.vpn == b.vpn

/-- Installs a leaf in a tile's L2 TLB (R91). -/
def State.installL2 (s : State) (tile : Nat) (e : TlbEntry) : State :=
  let c := s.choose (2 ^ 64)
  c.2.setTile tile { c.2.tile tile with l2tlb := cacheInsert 4096 e.same e c.1 (c.2.tile tile).l2tlb }

/-- Installs a leaf in a core's instruction or data TLB (R91). -/
def State.installCore (s : State) (core : Nat) (k : AccessKind) (e : TlbEntry) : State :=
  let c := s.choose (2 ^ 64)
  let x := c.2.core core
  c.2.setCore core (if k = .fetch then { x with itlb := cacheInsert 32 e.same e c.1 x.itlb }
                    else { x with dtlb := cacheInsert 64 e.same e c.1 x.dtlb })

/-- The cached translation of an address: the core's TLB, then the tile's L2 TLB (R91, R92). -/
def State.tlbLookup (s : State) (core : Nat) (k : AccessKind) (asid va : Nat) : Option TlbEntry :=
  let x := s.core core
  match (if k = .fetch then x.itlb else x.dtlb).find? (·.serves asid va) with
  | some e => some e
  | none => (s.tile (core / 8)).l2tlb.find? (·.serves asid va)

/-- The bits of a leaf that an update of A or D needs unchanged: V, the permissions R, W, X and U, and FRAME (R96). -/
def leafKeep : Word := 0x000FFFFFFFFF001F#64

/-- The atomic update of A and, for a store, D in an in-memory leaf: only if the entry still has V = 1 and its frame and
permissions are unchanged (R96). Answers none where the walk must restart. -/
def State.setAD (s : State) (e : TlbEntry) (dirty : Bool) : Option (State × TlbEntry) :=
  let now := s.word e.leafPa
  if now.getLsbD 0 ∧ now &&& leafKeep = e.leaf &&& leafKeep then
    let new := now ||| (if dirty then 0xC0#64 else 0x40#64)
    some (if new = now then s else s.setBytes e.leafPa (leBytes 8 new.toNat), { e with leaf := new })
  else none

/-- The identity under which an access is translated and checked: core, mode, ASID and PTBASE of the issuer. -/
structure Issuer where
  core : Nat
  mode : BitVec 2
  asid : Nat
  ptbase : Word
  deriving DecidableEq, Repr

/-- The identity of the thread in focus. -/
def State.issuer (s : State) : Issuer :=
  { core := coreOf s.cur, mode := s.th.mode, asid := wfield s.th.asid 13 0, ptbase := s.th.ptbase }

/-- The range and PTBASE checks of a virtual address (R83, R84). -/
def vaCheck (w : Issuer) (va : Nat) : Option Cause :=
  if 2 ^ 56 ≤ va then some (fault1 2 (BitVec.ofNat 64 va))
  else if !w.ptbase.getLsbD 0 then some (fault1 3 (BitVec.ofNat 64 va))
  else none

/-! The windows of a thread, as askers of the walk units. -/

/-- The address a window is fetched at, and its window: 0 to 7 the branch-target registers, 8 and 9 the loop windows,
10 the trap window. -/
def Thread.windowAt (t : Thread) (win : Nat) : Nat × Window :=
  if win < 8 then
    let b := get8 t.bt (BitVec.ofNat 3 win)
    (b.target.toNat, if b.v then b.win else .none)
  else if win < 10 then
    let l := get2 t.loops (BitVec.ofNat 1 (win - 8))
    (l.ls.toNat, l.win)
  else ((if t.entering = some 10 then t.pc else t.tvec).toNat, t.trapWin)

/-- Replaces a window. -/
def Thread.setWindow (t : Thread) (win : Nat) (w : Window) : Thread :=
  if win < 8 then
    let i := BitVec.ofNat 3 win
    { t with bt := set8 t.bt i { get8 t.bt i with win := w } }
  else if win < 10 then
    let i := BitVec.ofNat 1 (win - 8)
    { t with loops := set2 t.loops i { get2 t.loops i with win := w } }
  else { t with trapWin := w }

/-! Leaves for accesses (R91 to R96). -/

/-- Posts an asker's request for a walk to the walk unit of a die, once. A unit whose request queue of 2,048 is full takes none: the
request stays with its asker, who offers it again (R93). -/
def State.postWalk (s : State) (die : Nat) (q : WalkAsker) (w : Issuer) (page : Nat) (dirty : Bool) : State :=
  let x := s.die die
  if (x.walks.any fun y => y.asid == w.asid && y.page == page && y.requesters.contains q && y.dirty == dirty) ||
      decide (2048 ≤ (x.walks.filter fun y => y.stage == .waiting).length) then s
  else s.setDie die { x with walks := x.walks ++
    [{ asid := w.asid, page := page, ptbase := w.ptbase, mode := w.mode, dirty := dirty, requesters := [q], stage := .waiting
       dropped := false, fromRoot := false }] }

/-- The answers of the walk units that an asker has had are gone: it goes on, or stops (R94). -/
def State.dropAnswers (s : State) (n : Nat) : State := { s with walkAnswers := s.walkAnswers.filter fun x => x.num != n }

/-- Takes the failure of a walk of a page that an asker asked for, if it has had one (R94). -/
def State.takeFailure (s : State) (q : WalkAsker) (page : Nat) : Option (State × Cause) :=
  let numbered (n : Nat) : Option (State × Cause) :=
    (s.walkAnswers.find? fun x => x.num == n && x.page == page).bind fun x => match x.result with
      | .failed c => some (s.dropAnswers n, c)
      | .leaf _ => none
  match q with
  | .slot h _ => (assocFind page (s.thread h).walkFail).map fun c =>
      (s.modThread h fun t => { t with walkFail := t.walkFail.filter fun f => f.1 != page }, c)
  | .fetch h win =>
    let had := if win < 11 then (match ((s.thread h).windowAt win).2 with
      | .inFlight id => id.walkFail
      | _ => none) else (s.thread h).fbuf.walkFail
    (had.filter fun f => f.1 == page).map fun f => (s, f.2)
  | .agent n _ => numbered n
  | .engine n => numbered n

/-- The leaf that an asker has for an address: in its TLBs, or for a stack command the walk unit's answer (R91, R92, R103). -/
def State.leafOf (s : State) (q : WalkAsker) (w : Issuer) (va : Nat) (k : AccessKind) : Option TlbEntry :=
  match q with
  | .engine n => (s.walkAnswers.find? fun x => x.num == n && x.page == va / 65536).bind fun x => match x.result with
    | .leaf e => some e
    | .failed _ => none
  | _ => s.tlbLookup w.core k w.asid va

/-- A leaf found in the TLBs is held by its core's TLB (R91). -/
def State.keepLeaf (s : State) (q : WalkAsker) (w : Issuer) (k : AccessKind) (e : TlbEntry) : State :=
  match q with
  | .engine _ => s
  | _ => s.installCore w.core k e

/-- The leaf of an access of an asker through a die's walk unit: the range checks, the failure of a walk that it asked for, a TLB's
leaf with the permission check, or a request for a walk, which a write also makes to set D. None while it waits (R83, R84, R88, R89,
R91 to R94, R96). -/
def State.leafFor (s : State) (q : WalkAsker) (w : Issuer) (die va : Nat) (k : AccessKind) : State × Option (Except Cause TlbEntry) :=
  let v := BitVec.ofNat 64 va
  match vaCheck w va with
  | some c => (s, some (.error c))
  | none => match s.takeFailure q (va / 65536) with
    | some (s, c) => (s, some (.error { c with tval := v }))
    | none => match s.leafOf q w va k with
      | none => (s.postWalk die q w (va / 65536) false, none)
      | some e =>
        let s := s.keepLeaf q w k e
        if !leafPermits e.leaf w.mode k then (s, some (.error { code := code 1 9, tval := v, violation := true }))
        else if k.writes && !e.dirty then (s.postWalk die q w (va / 65536) true, none)
        else (s, some (.ok e))

/-- A virtual address translated through the walk unit of its issuer's die and checked against the map (R82): its physical address and
leaf; none while it waits for a walk. -/
def State.locateFor (s : State) (q : WalkAsker) (w : Issuer) (va : Nat) (k : AccessKind) :
    State × Option (Except Cause (Nat × TlbEntry)) :=
  match s.leafFor q w (w.core / 1024) va k with
  | (s, none) => (s, none)
  | (s, some (.error c)) => (s, some (.error c))
  | (s, some (.ok e)) => match s.mapCheck (e.pa va) w.mode k (BitVec.ofNat 64 va) with
    | some c => (s, some (.error c))
    | none => (s, some (.ok (e.pa va, e)))

/-- Where a virtual address lies now for an issuer, without any effect; none where it does not translate. -/
def State.peekVa (s : State) (w : Issuer) (va : Nat) (k : AccessKind) : Option Nat :=
  if (vaCheck w va).isSome then none
  else match s.tlbLookup w.core k w.asid va with
    | some e => some (e.pa va)
    | none => match (s.walk (w.core / 1024) w.mode w.asid va w.ptbase false).result with
      | .ok e => some (e.pa va)
      | .error _ => none

/-! Local-memory permission (R153, R154). -/

/-- The narrowest scope that contains two cores: 1 core, 2 tile, 3 cluster, 4 die, 5 package (R154). -/
def scopeOf (a b : Nat) : Nat :=
  if a = b then 1
  else if a / 8 = b / 8 then 2
  else if a / 32 = b / 32 then 3
  else if a / 1024 = b / 1024 then 4
  else 5

/-- The core key whose local memory holds an address of the window. -/
def lmCore (pa : Nat) : Nat := coreKey ((pa - lmBase) / 0x40000)
/-- The offset of an address of the window in its core's local memory. -/
def lmOffset (pa : Nat) : Nat := (pa - lmBase) % 0x40000

/-- Whether a PERMR or PERMW image admits an accessor of a scope and ASID at an offset (R153, R154). -/
def permAdmits (reg : Word) (scope asid off : Nat) : Bool :=
  decide (scope ≤ wfield reg 2 0) && (!reg.getLsbD 31 || wfield reg 45 32 == asid) && decide (1024 * wfield reg 23 16 ≤ off)

/-- Whether an access to a physical address passes the PERMR and PERMW checks (R154); an address outside the
local-memory window passes. -/
def State.lmPermits (s : State) (w : Issuer) (pa : Nat) (k : AccessKind) : Bool :=
  if inLm pa then
    let x := lmCore pa
    let c := s.core x
    let sc := scopeOf w.core x
    x == w.core || w.mode == 3#2 ||
      ((k == .store || permAdmits c.permr sc w.asid (lmOffset pa)) && (!k.writes || permAdmits c.permw sc w.asid (lmOffset pa)))
  else true

/-! Watermarks (R158, R159). -/

/-- The place in a transfer's destination range, in bytes from its start, of a physical address; none outside it or
where the destination takes no watermark wait (R158, R159). -/
def Transfer.index (t : Transfer) (pa : Nat) : Option Nat :=
  let own := window (globalCore (t.core))
  let within (a : Nat) : Option Nat := if t.dst ≤ a ∧ a < t.dst + t.len then some (a - t.dst) else none
  if t.stream.isSome ∨ !inLm pa then none
  else match t.dsp with
    | 1 => if own ≤ pa ∧ pa < own + 0x40000 then within (pa - own) else none
    | 2 =>
      let base := globalCore (t.core) / 32 * 32
      let n := (pa - lmBase) / 0x40000
      if base ≤ n ∧ n < base + 32 then within (lmOffset pa / 8 * 256 + (n - base) * 8 + pa % 8) else none
    | 3 => within pa
    | _ => none

/-- Whether a transfer's watermark is at the end of its range: it has completed, or has been stopped (R164, R169). -/
def Transfer.over (t : Transfer) : Bool := t.finishing || t.stopped.isSome
/-- Every open transfer of the device. -/
def State.transfers (s : State) : List Transfer := s.tiles.flatMap fun t => t.2.chans.toList.flatMap (·.transfers)

/-- Whether some byte of a range lies at or above the watermark of an open transfer that counts (R159). -/
def State.unlandedBy (s : State) (pa n : Nat) (counts : Transfer → Bool) : Bool :=
  s.transfers.any fun t => counts t && !t.over && (List.range n).any fun i =>
    match t.index (pa + i) with
    | some k => decide (t.written ≤ k)
    | none => false

/-- Whether some byte of a range lies at or above the watermark of an open transfer, other than the one with the given
number (R159, R160). -/
def State.unlanded (s : State) (pa n self : Nat) : Bool := s.unlandedBy pa n fun t => t.seq != self

/-! Windows and stores (R313, R314). -/

/-- The instruction bytes the fetch buffer holds from an address on. -/
def FetchBuffer.from_ (b : FetchBuffer) (pc : Nat) : List Cell := if b.base ≤ pc then b.cells.drop (pc - b.base) else []
/-- The failure of the byte after those that the fetch buffer holds, where the bytes from an address on run up to it: an instruction beyond
it does not need that byte (R313). -/
def FetchBuffer.failure (b : FetchBuffer) (pc : Nat) : Option Cause :=
  if b.base ≤ pc ∧ pc ≤ b.base + b.cells.length then b.fail else none

/-- Whether two byte ranges overlap. -/
def overlap (a n b m : Nat) : Bool := decide (a < b + m) && decide (b < a + n)

/-- Marks every valid branch-target register, both loop windows and the trap window stale (R100, R305, R315, R316). -/
def Thread.staleAll (t : Thread) : Thread :=
  { t with
    bt := t.bt.map fun b => if b.v then { b with s := true } else b
    loops := t.loops.map fun l => { l with stale := true }
    trapStale := true }

end Sys2Proof.Machine
end

