-- ==== Sys2Proof/Machine/Coherence.lean ====
section
/-! DEFINITION. Caches and directories (R124 to R145): where copies of a line are, the transactions that move them, and what
an access needs of them. A line's latest value is the memory of State; a cache entry carries its state and not a second copy of
its data, and State.behind and State.l2behind hold what the home and the L2 slice of a modified line were last written back
with (log 21). Protocol.lean has the events. -/

namespace Sys2Proof.Machine

/-! Signatures (R334). -/

/-- The bit h_k of a block in a signature (R334). -/
def sigIndex (a k : Nat) : Nat :=
  let r := ((a <<< (7 * k)) ||| (a >>> (46 - 7 * k))) % 2 ^ 46
  (r % 1024) ^^^ (r / 2 ^ 10 % 1024) ^^^ (r / 2 ^ 20 % 1024) ^^^ (r / 2 ^ 30 % 1024) ^^^ (r / 2 ^ 40 % 64)

/-- The bits h_0 to h_3 of a block (R334). -/
def sigBits (a : Nat) : BitVec 1024 :=
  (1#1024 <<< sigIndex a 0) ||| (1#1024 <<< sigIndex a 1) ||| (1#1024 <<< sigIndex a 2) ||| (1#1024 <<< sigIndex a 3)

/-- Adds a block to a signature (R334). -/
def sigAdd (sig : BitVec 1024) (a : Nat) : BitVec 1024 := sig ||| sigBits a
/-- A test for a block hits when all four bits are set (R334). -/
def sigHit (sig : BitVec 1024) (a : Nat) : Bool := sig &&& sigBits a == sigBits a

/-- Every commit-queue entry of the device, by tile and index. -/
def State.entries (s : State) : List (Nat × Nat × CommitEntry) :=
  s.tiles.flatMap fun t => t.2.commit.map fun e => (t.1, e.1, e.2)

/-! Lines and homes (R124, R127). -/

/-- Whether lines of an address can be cached: HBM and CXL memory (R90, R125). -/
def coherent (pa : Nat) : Bool := inHbm pa || (cxlPort pa).isSome
/-- The line of a physical address. -/
def lineOf (pa : Nat) : Nat := pa / 128
/-- The die that homes a line; none for a line homed on a hub (R127). -/
def lineDie (line : Nat) : Option Nat := if inHbm (128 * line) then some (hbmDie (128 * line)) else none
/-- The key of a line's home tile on a die (R127). -/
def lineTile (die line : Nat) : Nat := 128 * die + line % 2 ^ 41 % 72
/-- The key of a cluster of a die in its cluster directories. -/
def clusterKey (line cluster : Nat) : Nat := 18 * line + cluster
/-- The die of a core key. -/
def coreDie (c : Nat) : Nat := c / 1024
/-- The logical cluster of a core key on its die. -/
def coreCluster (c : Nat) : Nat := c / 32 % 32
/-- A core's number in its cluster: tile position and core (R131). -/
def coreInCluster (c : Nat) : Nat := c % 32
/-- The core key of a core of a cluster of a die. -/
def clusterCore (die cluster i : Nat) : Nat := 1024 * die + 32 * cluster + i

/-- The entry of a key in a list in order of use. -/
def mruFind (k : Nat) (l : List (Nat × α)) : Option α := (l.find? fun e => e.1 == k).map (·.2)
/-- Removes the entry of a key. -/
def mruErase (k : Nat) (l : List (Nat × α)) : List (Nat × α) := l.filter fun e => e.1 != k
/-- Makes an entry the most recently used one. -/
def mruSet (k : Nat) (v : α) (l : List (Nat × α)) : List (Nat × α) := (k, v) :: mruErase k l
/-- The least recently used entry of a set that is full (R126). -/
def victim (sameSet : Nat → Bool) (ways : Nat) (l : List (Nat × α)) : Option (Nat × α) :=
  let set := l.filter fun e => sameSet e.1
  if set.length < ways then none else set.getLast?

/-- The blocks of a line that a byte range touches (R124). -/
def blockMask (line pa n : Nat) : BitVec 2 :=
  (if overlap (128 * line) 64 pa n then 1#2 else 0#2) ||| (if overlap (128 * line + 64) 64 pa n then 2#2 else 0#2)
/-- The requester that the thread in focus is. -/
def State.requester (s : State) : Requester :=
  match s.myEntry with
  | some (t, e, x) => if x.irrevocable then .nonSpec else .spec x.task.dom x.task.key t e
  | none => .nonSpec

/-! Copies. -/

/-- Changes a core. -/
def State.modCoreAt (s : State) (c : Nat) (f : Core → Core) : State := s.setCore c (f (s.core c))
/-- Changes a die. -/
def State.modDie (s : State) (d : Nat) (f : Die → Die) : State := s.setDie d (f (s.die d))
/-- Changes a tile. -/
def State.modTileAt (s : State) (t : Nat) (f : Tile → Tile) : State := s.setTile t (f (s.tile t))

/-- The home of a line holds its latest value: it has been written back (R128, R137). -/
def State.writtenBack (s : State) (line : Nat) : State :=
  { s with behind := mruErase line s.behind, l2behind := mruErase line s.l2behind }
/-- Whether the home tile's L2 slice holds a line that its home does not (R128). -/
def State.l2Dirty (s : State) (line : Nat) : Bool :=
  (lineDie line).any fun d => (mruFind line (s.tile (lineTile d line)).l2).getD false
/-- Before a store to a cached line the bytes of its home, and of a dirty L2 slice, are kept, if they were the latest (R134,
R145). -/
def State.noteBehind (s : State) (line : Nat) : State :=
  let now := s.bytes (128 * line) 128
  { s with behind := if s.behind.any fun b => b.1 == line then s.behind else (line, now) :: s.behind
           l2behind := if !s.l2Dirty line || s.l2behind.any fun b => b.1 == line then s.l2behind else (line, now) :: s.l2behind }
/-- A dirty line leaves its L2 slice: the home takes what the slice held, which a core's copy may have overtaken (R128). -/
def State.l2WriteBack (s : State) (line : Nat) : State :=
  match mruFind line s.l2behind with
  | some bs => { s with behind := mruSet line bs s.behind, l2behind := mruErase line s.l2behind }
  | none => s.writtenBack line

/-- Installs a line in its home tile's L2 slice; a dirty line that makes room is written back to HBM. A gated tile caches none
(R126, R128, R144). -/
def State.installL2Line (s : State) (line : Nat) (dirty : Bool) : State :=
  match lineDie line with
  | none => if dirty then s.writtenBack line else s
  | some d =>
    let t := lineTile d line
    if (s.tile t).gated then (if dirty then s.writtenBack line else s)
    else
      let s := if dirty then { s with l2behind := mruErase line s.l2behind } else s
      let l := (s.tile t).l2
      let dirty := dirty || (mruFind line l).getD false
      let l := mruErase line l
      match victim (fun k => k / 72 % 512 == line / 72 % 512) 16 l with
      | none => s.modTileAt t fun x => { x with l2 := (line, dirty) :: l }
      | some (v, vd) =>
        let s := s.modTileAt t fun x => { x with l2 := (line, dirty) :: mruErase v l }
        if vd then s.l2WriteBack v else s

/-- Data that leaves the L1s of a die in M: to the L2 slice on the home die, to the remote-data cache on another die that
has one, and otherwise to the home (R128, R137, R140). -/
def State.dataUp (s : State) (die line : Nat) : State :=
  if lineDie line = some die then s.installL2Line line true
  else match (s.die die).rdc.find? fun r => r.2.1 == line with
    | some (i, _) => s.modDie die fun x => { x with rdc := mruSet i (line, .m) x.rdc }
    | none => match lineDie line with
      | some _ => s.installL2Line line true
      | none => s.writtenBack line

/-- Whether a core answers for a line with data: its L1 or its writeback buffer holds it in M (R134, R140). -/
def Core.holdsM (x : Core) (line : Nat) : Bool := mruFind line x.l1d == some .m || x.wbuf.any fun w => w.1 == line && w.2.1 == .m
/-- A line leaves both L1s of a core; a copy in the writeback buffer stays there for its answer (R134, R140). -/
def Core.invLine (x : Core) (line : Nat) : Core := { x with l1d := mruErase line x.l1d, l1i := x.l1i.filter (· != line) }
/-- A line of a core goes to S (R134). -/
def Core.shareL1 (x : Core) (line : Nat) : Core := { x with l1d := x.l1d.map fun e => if e.1 = line then (line, .s) else e }
/-- The LATE rule at a core that has a miss register for the line: a granted fill is not installed (R141). -/
def Core.lateInv (x : Core) (line : Nat) : Core :=
  { x with misses := x.misses.map fun m => if m.line = line ∧ m.granted.isSome then { m with noInstall := true } else m }

/-- The cores that a cluster entry names: the pointers, or every core of the marked tiles (R132, R136). -/
def ClusterEntry.cores (e : ClusterEntry) : List Nat :=
  if e.coarse then (List.range 32).filter fun i => e.tiles.getLsbD (i / 8) else e.ptrs

/-- The listed holders of a line in a cluster that a test on its entry accepts. -/
def State.clusterHolders (s : State) (die k line : Nat) (p : ClusterEntry → Bool) : List Nat :=
  match mruFind (clusterKey line k) (s.die die).cdir with
  | some c => if p c then c.cores.map (clusterCore die k) else []
  | none => []
/-- The listed holders of a line on a die, in clusters that a test accepts. -/
def State.dieHoldersBy (s : State) (die line : Nat) (p : ClusterEntry → Bool) : List Nat :=
  match mruFind line (s.die die).ddir with
  | none => []
  | some e => (List.range 18).flatMap fun k => if e.clusters.getLsbD k then s.clusterHolders die k line p else []
/-- The listed holders of a line on a die. -/
def State.dieHolders (s : State) (die line : Nat) : List Nat := s.dieHoldersBy die line fun _ => true
/-- The listed holders of a line on the device. -/
def State.holders (s : State) (line : Nat) : List Nat := (List.range 4).flatMap fun d => s.dieHolders d line
/-- The cores that the directories record as exclusive owners of a line, whether or not their fill has arrived (R137). -/
def State.owners (s : State) (line : Nat) : List Nat := (List.range 4).flatMap fun d => s.dieHoldersBy d line (·.excl)

/-! What the directories hold (R128, R131). -/

/-- A die holds no copy of a line any more: the package directory lets it go (R131). -/
def State.dieGone (s : State) (die line : Nat) : State :=
  match mruFind line s.pdir with
  | some p =>
    let dies := p.dies &&& ~~~(1#4 <<< die)
    if (p.st = 2 ∧ p.owner = die) ∨ (p.st = 1 ∧ dies = 0#4) then { s with pdir := mruErase line s.pdir }
    else { s with pdir := s.pdir.map fun e => if e.1 = line then (line, { p with dies := dies }) else e }
  | none => s
/-- The package directory lets a die go whose remote-data cache does not hold the line. -/
def State.dieGoneUnlessRdc (s : State) (die line : Nat) : State :=
  if (s.die die).rdc.any fun r => r.2.1 == line then s else s.dieGone die line

/-- The entry of one cluster is freed; a die without a holder frees its own (R133). -/
def State.dropCluster (s : State) (die cluster line : Nat) : State :=
  let left := ((mruFind line (s.die die).ddir).map fun e => e.clusters &&& ~~~(1#18 <<< cluster)).getD 0#18
  let s := s.modDie die fun x => { x with
    cdir := mruErase (clusterKey line cluster) x.cdir
    ddir := if left = 0#18 then mruErase line x.ddir else x.ddir.map fun e => if e.1 = line then (line, { e.2 with clusters := left }) else e }
  if left = 0#18 then s.dieGoneUnlessRdc die line else s
/-- The entry of a die is freed, with its clusters' (R133). -/
def State.dropDie (s : State) (die line : Nat) : State :=
  (s.modDie die fun x => { x with ddir := mruErase line x.ddir, cdir := x.cdir.filter fun e => e.1 / 18 != line }).dieGoneUnlessRdc die line
/-- A die lets a line go, and its remote-data cache too, a modified copy being written to the home (R128). -/
def State.dropRdc (s : State) (die line : Nat) : State :=
  let wasM := (s.die die).rdc.any fun r => r.2.1 == line && r.2.2 == .m
  let s := s.modDie die fun x => { x with rdc := x.rdc.filter fun r => r.2.1 != line }
  let s := s.dropDie die line
  if wasM then s.installL2Line line true else s
/-- No cache holds a line any more: every directory lets it go, and its home holds its latest value (R114, R139, R143). -/
def State.dropLine (s : State) (line : Nat) : State :=
  let s := (List.range 4).foldl (fun s d => s.dropRdc d line) s
  let s := match lineDie line with
    | some d => s.modTileAt (lineTile d line) fun x => { x with l2 := mruErase line x.l2 }
    | none => s
  { s.writtenBack line with pdir := mruErase line s.pdir }
/-- What a recall frees (R128, R131, R133). -/
def State.dropRecalled (s : State) (what : RecallOf) (line : Nat) : State :=
  match what with
  | .cluster d k => s.dropCluster d k line
  | .die d => s.dropDie d line
  | .rdc d => s.dropRdc d line
  | .package => { (List.range 4).foldl (fun s d => s.dropRdc d line) s with pdir := mruErase line s.pdir }

/-- An exclusive copy has become a shared one: the directories record S. The die that keeps its permission, if any, keeps its
remote-data cache and its package entry; any other die's modified copy is written to the home (R137, R139). -/
def State.shareDirs (s : State) (line : Nat) (keep : Option Nat) : State :=
  let s := (List.range 4).foldl (fun s d =>
    let up := keep != some d && (s.die d).rdc.any fun r => r.2.1 == line && r.2.2 == .m
    let s := s.modDie d fun x => { x with
      ddir := x.ddir.map fun e => if e.1 = line then (line, { e.2 with excl := false }) else e
      cdir := x.cdir.map fun e => if e.1 / 18 = line then (e.1, { e.2 with excl := false }) else e
      rdc := if keep = some d then x.rdc else x.rdc.map fun r => if r.2.1 = line then (r.1, (line, .s)) else r }
    if up then s.installL2Line line true else s) s
  match mruFind line s.pdir with
  | some p =>
    if p.st = 2 ∧ keep ≠ some p.owner then
      { s with pdir := s.pdir.map fun e => if e.1 = line then (line, { p with st := 1, dies := 1#4 <<< p.owner }) else e }
    else s
  | none => s

/-! Recalls and invalidations made in one step, by what is no request of the protocol: power gating, errors, resets, and the
device's own writes (log 62). -/

/-- Takes a line away from a core at once; modified data goes up. -/
def State.seize (s : State) (line c : Nat) : State :=
  let m := (s.core c).holdsM line
  let s := s.modCoreAt c fun x => (x.invLine line).lateInv line
  if m then s.dataUp (coreDie c) line else s
/-- Removes a line from a die (R128, R133). -/
def State.recallDie (s : State) (die line : Nat) : State := ((s.dieHolders die line).foldl (fun s c => s.seize line c) s).dropRdc die line
/-- Removes one cluster's copies of a line (R133). -/
def State.recallCluster (s : State) (die cluster line : Nat) : State :=
  ((s.clusterHolders die cluster line fun _ => true).foldl (fun s c => s.seize line c) s).dropCluster die cluster line
/-- Invalidates every copy of a line at every level, its data being written to the home. -/
def State.invalidateLine (s : State) (line : Nat) : State := ((s.holders line).foldl (fun s c => s.seize line c) s).dropLine line
/-- Recalls the data of an exclusive copy, in an L1, in a writeback buffer or on its way as a fill; it stays as a shared one. -/
def State.shareLine (s : State) (line : Nat) : State :=
  let s := (s.holders line).foldl (fun s c =>
    let m := (s.core c).holdsM line
    let s := s.modCoreAt c fun x => { x.shareL1 line with
      misses := x.misses.map fun y => if y.line = line ∧ y.granted.isSome then { y with granted := some .s } else y }
    if m then s.dataUp (coreDie c) line else s) s
  s.shareDirs line none
/-- Recalls exclusive copies for a read of n bytes, and invalidates every copy for a write. -/
def State.homeAccess (s : State) (pa n : Nat) (write : Bool) : State :=
  if coherent pa then
    (List.range ((pa + n - 1) / 128 + 1 - pa / 128)).foldl (fun s i =>
      if write then s.invalidateLine (pa / 128 + i) else s.shareLine (pa / 128 + i)) s
  else s

/-! Transactions (R133, R135 to R137, R141, R142). -/

/-- The LATE bit of an INV to a core: a fill of the line granted to it is outstanding (R141). -/
def State.lateBit (s : State) (c line : Nat) : Bool := (s.core c).misses.any fun m => m.line == line && m.granted.isSome

/-- A miss register of a core for a line that a test accepts. -/
def Core.findMiss (x : Core) (line : Nat) (p : Miss → Bool) : Option Miss := x.misses.find? fun m => m.line == line && p m
/-- Changes the first miss register of a line that a test accepts. -/
def Core.setMiss (x : Core) (line : Nat) (p : Miss → Bool) (f : Miss → Miss) : Core :=
  match x.misses.findIdx? fun m => m.line == line && p m with
  | some i => { x with misses := x.misses.modify i f }
  | none => x

/-- Whether a line is busy (R135). -/
def State.busy (s : State) (line : Nat) : Bool := s.txns.any fun t => t.line == line
/-- The first transaction of a line, in order of arrival, that a test accepts. -/
def State.findTxn (s : State) (line : Nat) (p : Txn → Bool) : Option Txn := s.txns.find? fun t => t.line == line && p t
/-- Changes that transaction. -/
def State.modTxn (s : State) (line : Nat) (p : Txn → Bool) (f : Txn → Txn) : State :=
  match s.txns.findIdx? fun t => t.line == line && p t with
  | some i => { s with txns := s.txns.modify i f }
  | none => s
/-- That transaction ends. -/
def State.endTxn (s : State) (line : Nat) (p : Txn → Bool) : State :=
  match s.txns.findIdx? fun t => t.line == line && p t with
  | some i => { s with txns := s.txns.eraseIdx i }
  | none => s

/-! The three levels (R131, R135). -/

/-- The directory that orders a die's requests above its clusters: on the home die that is the home tile, which orders what needs more
than one die too (R127, R135). -/
def dieDir (line die : Nat) : Nat := if lineDie line = some die then 132 else 128 + die
/-- The directory above one, for a request that goes up. -/
def dirAbove (line k : Nat) : Nat := if k < 128 then dieDir line (k / 32) else 132
/-- The directory where a transaction arrives. -/
def TxnKind.dir (line : Nat) : TxnKind → Nat
  | .request c _ _ => c / 32
  | .recall (.cluster d k) => 32 * d + k
  | .recall (.die d) => dieDir line d
  | .recall (.rdc d) => dieDir line d
  | _ => 132
/-- Whether a transaction only reads: its messages are FWDs (R136, R137, R139). -/
def TxnKind.reads : TxnKind → Bool
  | .request _ .gets _ => true
  | .home _ w => !w
  | _ => false
/-- The cluster directory that a core's request came through. -/
def TxnKind.cluster : TxnKind → Option Nat
  | .request c _ _ => some (c / 32)
  | _ => none

/-- Whether any cache but a core's own holds a line (R134). -/
def State.heldElsewhere (s : State) (c line : Nat) : Bool :=
  (s.holders line).any (· != c) || (List.range 4).any fun d => d != coreDie c && (s.die d).rdc.any fun r => r.2.1 == line
/-- The state that a read installs: E when no other cache anywhere holds the line; S otherwise, in an instruction cache, beside the
core's own instruction cache or its fill, and below a shared line of the remote-data cache (R126, R134). -/
def State.readState (s : State) (c line : Nat) (instr : Bool) : LineState :=
  if instr || s.heldElsewhere c line || (s.core c).l1i.contains line ||
      ((s.core c).misses.any fun m => m.line == line && m.instr && m.granted.isSome) ||
      ((s.die (coreDie c)).rdc.any fun r => r.2.1 == line && r.2.2 == .s) then .s else .e

/-- Whether a die holds write permission for a line homed elsewhere (R131). -/
def State.dieOwns (s : State) (d line : Nat) : Bool := (mruFind line s.pdir).any fun p => p.st == 2 && p.owner == d
/-- Whether a directory holds the permission that a transaction needs: a cluster or die for a read that ends in S where it lists the line,
and for any request where it is exclusive; the home always; what is no core's request asks nobody (R135, R139). -/
def State.permits (s : State) (k : Nat) (t : Txn) : Bool :=
  match t.kind with
  | .request c want instr =>
    let shared := want == .gets && s.readState c t.line instr == .s
    if k < 128 then (mruFind (clusterKey t.line (k % 32)) (s.die (k / 32)).cdir).any fun e => e.excl || shared
    else k == 132 || s.dieOwns (k - 128) t.line ||
      (shared && ((mruFind t.line (s.die (k - 128)).ddir).isSome || (s.die (k - 128)).rdc.any fun r => r.2.1 == t.line))
  | _ => true

/-- The cores to which a cluster directory sends a transaction's messages: an INV to every one listed, or a FWD to an exclusive owner. A
core's write leaves its own data cache alone, and its instruction cache's read is forwarded to its own data cache too (R134 to R137). -/
def State.coreTargets (s : State) (k : Nat) (t : Txn) : List Nat :=
  (s.clusterHolders (k / 32) (k % 32) t.line fun e => !t.kind.reads || e.excl).filter fun h => match t.kind with
    | .request c want instr => h != c || (want == .gets && instr)
    | _ => true
/-- The clusters to which a die directory sends a transaction's messages, but for the one that its request came through (R136). -/
def State.clusterTargets (s : State) (d : Nat) (t : Txn) : List Nat :=
  match mruFind t.line (s.die d).ddir with
  | none => []
  | some e => (((List.range 18).filter fun k => e.clusters.getLsbD k).filter fun k => !t.kind.reads ||
      (mruFind (clusterKey t.line k) (s.die d).cdir).any (·.excl)).map (32 * d + ·) |>.filter fun k => t.kind.cluster != some k
/-- Whether the package directory lists a die, for a read as an exclusive owner (R131). -/
def State.listsDie (s : State) (d : Nat) (t : Txn) : Bool :=
  (mruFind t.line s.pdir).any fun p => if p.st = 2 then p.owner == d else !t.kind.reads && p.dies.getLsbD d
/-- The dies to which the home sends a transaction's messages, but for another die that its request came through (R135, R136). -/
def State.dieTargets (s : State) (t : Txn) : List Nat :=
  match t.kind with
  | .recall (.die d) => [128 + d]
  | k => ((List.range 4).filter fun d =>
      if lineDie t.line = some d then !(s.clusterTargets d t).isEmpty
      else !(k.cluster.any fun c => c / 32 == d) && s.listsDie d t).map (128 + ·)

/-- A directory sends a transaction's messages to those listed below it, and counts them (R135, R136). -/
def State.sendDown (s : State) (k : Nat) (t : Txn) : Txn :=
  let count (n : Nat) : List (Nat × Nat) := if n = 0 then t.counts else t.counts ++ [(k, n)]
  if k < 128 then
    let l := s.coreTargets k t
    { t with counts := count l.length
             out := t.out ++ l.map fun h => { core := h, fwd := t.kind.reads, late := !t.kind.reads && s.lateBit h t.line } }
  else
    let l := if k < 132 then s.clusterTargets (k - 128) t else s.dieTargets t
    { t with counts := count l.length, asked := t.asked ++ l }

/-- One answer less to come at a directory, which is forgotten once it has them all: the counts, and whether it has. -/
def countDown (k : Nat) (cs : List (Nat × Nat)) : List (Nat × Nat) × Bool :=
  if assocGet 0 k cs ≤ 1 then (assocErase k cs, true) else (cs.map fun e => if e.1 = k then (k, e.2 - 1) else e, false)

/-- A directory that a message from above reached has every answer from below: its holders are gone, or its exclusive copy is a shared
one (R133, R135, R137). -/
def State.dirDone (s : State) (t : Txn) (k : Nat) : State :=
  if k < 128 then (if t.kind.reads then s.shareDirs t.line (some (k / 32)) else s.dropCluster (k / 32) (k % 32) t.line)
  else if t.kind.reads then s.shareDirs t.line (if lineDie t.line = some (k - 128) then some (k - 128) else none)
  else if t.kind.cluster.any fun c => c / 32 == k - 128 then s
  else s.dropRdc (k - 128) t.line
/-- An answer is counted at a directory; one that a message from above reached, with all of its answers, gives one to the level above
(R136). -/
def State.countAt (s : State) (i k : Nat) : Nat → State
  | 0 => s
  | fuel + 1 =>
    match s.txns[i]? with
    | none => s
    | some t =>
      let r := countDown k t.counts
      let s : State := { s with txns := s.txns.set i { t with counts := r.1 } }
      if r.2 && !t.held.contains k then (s.dirDone t k).countAt i (if k < 128 then 128 + k / 32 else 132) fuel else s

/-- A directory takes up a message from above: it sends messages to those listed below it, or answers at once where it lists none. -/
def State.takeDown (s : State) (i k : Nat) : State :=
  match s.txns[i]? with
  | none => s
  | some t =>
    let t := s.sendDown k { t with asked := t.asked.erase k }
    let s : State := { s with txns := s.txns.set i t }
    if assocGet 0 k t.counts = 0 then (s.dirDone t k).countAt i (if k < 128 then 128 + k / 32 else 132) 3 else s

/-- A request as it is served: an UPG whose copy has been lost is a GETM (R134, R142). -/
def State.servedKind (s : State) (t : Txn) : TxnKind :=
  match t.kind with
  | .request c .upg i => .request c (if (mruFind t.line (s.core c).l1d).isNone then .getm else .upg) i
  | k => k
/-- A directory takes up a transaction that has reached it: it sends messages to those listed below it at once, and, lacking the
permission that the transaction needs, asks the level above (R135). -/
def State.takeUp (s : State) (i : Nat) : State :=
  match s.txns[i]? with
  | none => s
  | some t =>
    let t := s.sendDown t.at_ { t with held := t.held ++ [t.at_], kind := s.servedKind t }
    if s.permits t.at_ t then { s with txns := s.txns.set i { t with started := true } }
    else { s with txns := s.txns.eraseIdx i ++ [{ t with at_ := dirAbove t.line t.at_ }] }

/-- Whether a transaction occupies a directory for others of its line that come from below (R135). -/
def Txn.occupies (t : Txn) (k : Nat) : Bool := t.held.contains k || t.asked.contains k || assocGet 0 k t.counts != 0
/-- Whether a transaction keeps a message from above waiting at a directory: not while it waits for the level above itself. -/
def Txn.bars (t : Txn) (k : Nat) : Bool := if t.held.contains k then t.started else assocGet 0 k t.counts != 0

/-- Every message of a transaction has been answered and counted. -/
def Txn.complete (t : Txn) : Bool := t.started && t.out.isEmpty && t.asked.isEmpty && t.answers.isEmpty

/-- One move of the directories for a transaction of a line: one of its messages is taken up below; it is taken up where it waits; or,
complete, it ends, or is ready for its access at the home. A core's request waits for its GRANT (R133, R135, R139, R142, R143). -/
def State.moveTxn (s : State) (ts : List (Txn × Nat)) (t : Txn) (i : Nat) : Option State :=
  let others := ts.filter fun x => x.2 != i
  match t.asked.find? fun k => !others.any fun x => x.1.bars k with
  | some k => some (s.takeDown i k)
  | none =>
    if !t.started then
      if others.any fun x => x.1.occupies t.at_ || (!x.1.started && x.1.at_ == t.at_ && x.2 < i) then none else some (s.takeUp i)
    else if !t.complete then none
    else match t.kind with
      | .request .. => none
      | .home _ write =>
        if t.ready then none
        else
          let s := if write then s.dropLine t.line else s.shareDirs t.line none
          some { s with txns := s.txns.set i { t with ready := true } }
      | .snoop =>
        let s := s.dropLine t.line
        some { s with sent := s.sent ++ [.birsp t.line false], txns := s.txns.eraseIdx i }
      | .recall what =>
        let s := s.dropRecalled what t.line
        some { s with txns := s.txns.eraseIdx i }
/-- The directories go on with a line while they can. -/
def State.settleLine (s : State) (line : Nat) : Nat → State
  | 0 => s
  | fuel + 1 =>
    let ts := s.txns.zipIdx.filter fun x => x.1.line == line
    match ts.findSome? fun x => s.moveTxn ts x.1 x.2 with
    | some s => s.settleLine line fuel
    | none => s
/-- The directories go on with a line: at most 100 moves for each of its transactions. -/
def State.settle (s : State) (line : Nat) : State := s.settleLine line (100 * s.txns.length + 1)

/-- A transaction arrives (R135). -/
def State.addTxn (s : State) (line : Nat) (kind : TxnKind) (mask : BitVec 2) (by_ : Requester) : State :=
  ({ s with txns := s.txns ++ [{ line := line, kind := kind, at_ := kind.dir line, held := [], asked := [], started := false, ready := false
                                 mask := mask, by_ := by_, out := [], answers := [], counts := [] }] } : State).settle line

/-! Accesses that perform at the home (R90, R114, R139, R142). -/

/-- An access whose turn has come at its home. -/
def Txn.readyFor (t : Txn) (who : Asker) (write : Bool) : Bool := t.kind == .home who write && t.ready
/-- The home's answer to an access, once it is ready: the line is free for the next transaction. -/
def State.takeHome (s : State) (who : Asker) (line : Nat) (write : Bool) : Option State :=
  match s.findTxn line (·.readyFor who write) with
  | some _ => some ((s.endTxn line (·.readyFor who write)).settle line)
  | none => none
/-- An asker waits for one access at a time: its accesses of other lines are nobody's any more (number 0), and their lines are let
go once they are ready (log 91). -/
def State.disown (s : State) (r : HomeReq) : State :=
  { s with
    homeReqs := s.homeReqs.filter fun x => x.who != r.who || (x.line == r.line && x.write == r.write)
    txns := s.txns.map fun t => match t.kind with
      | .home w x => if w = r.who ∧ ¬(t.line = r.line ∧ x = r.write) then { t with kind := .home (.number 0) x } else t
      | _ => t }
/-- Sends an access to its home, once. -/
def State.postHome (s : State) (r : HomeReq) : State :=
  let s := s.disown r
  if (s.homeReqs.any fun x => x.who == r.who && x.line == r.line && x.write == r.write) ||
      (s.txns.any fun t => t.line == r.line && t.kind == .home r.who r.write) then s
  else { s with homeReqs := s.homeReqs ++ [r] }
/-- Whether an access of a line may perform at its home now: it is ready; or nothing of the line is on its way and no copy is in
its way. Otherwise it is sent, and waits in the line's order (R139, R142). -/
def State.homeLine (s : State) (r : HomeReq) : State × Bool :=
  match s.takeHome r.who r.line r.write with
  | some s => (s, true)
  | none =>
    if !s.busy r.line && !(s.homeReqs.any fun x => x.line == r.line) && (if r.write then s.holders r.line else s.owners r.line).isEmpty then
      (if r.write then s.dropLine r.line else s.shareDirs r.line none, true)
    else (s.postHome r, false)
/-- The same for every line of n bytes. -/
def State.homeLines (s : State) (who : Asker) (by_ : Requester) (pa n : Nat) (write : Bool) : State × Bool :=
  if coherent pa then
    (List.range ((pa + n - 1) / 128 + 1 - pa / 128)).foldl (fun r i =>
      if r.2 then r.1.homeLine { who := who, line := pa / 128 + i, write := write, mask := blockMask (pa / 128 + i) pa n, by_ := by_ } else r) (s, true)
  else (s, true)

/-! A core's own accesses (R90, R134, R138). -/

/-- Whether an L1 data cache can serve an access: any state for a load, E or M for a store (R134). -/
def State.l1Has (s : State) (c line : Nat) (write : Bool) : Bool :=
  match mruFind line (s.core c).l1d with
  | some st => !write || st != .s
  | none => false
/-- A hit: the line becomes most recently used, and a store takes E to M (R134). -/
def State.l1Touch (s : State) (c line : Nat) (write : Bool) : State :=
  s.modCoreAt c fun x => match mruFind line x.l1d with
    | some st => { x with l1d := mruSet line (if write then .m else st) x.l1d }
    | none => x
/-- What a miss asks for: who asks, whether it writes, for the instruction cache, as a .nt load, for which blocks and for which
requester. -/
structure Missing where
  who : Asker
  write : Bool
  instr : Bool
  nt : Bool
  mask : BitVec 2
  by_ : Requester
/-- The slot whose load a miss serves. -/
def Missing.loads (x : Missing) : List Nat :=
  match x.who with
  | .slot h => if x.write || x.instr then [] else [h]
  | _ => []
/-- A miss takes a miss register, or joins one, a load merging into it (R134, R141); the mark of a .nt load is that of the load
which takes it (R204; log 41). -/
def State.postMiss (s : State) (c line : Nat) (q : Missing) : State :=
  s.modCoreAt c fun x =>
    if x.misses.any fun m => m.line == line && m.instr == q.instr then
      x.setMiss line (·.instr == q.instr) fun m => { m with loads := m.loads ++ q.loads.filter fun h => !m.loads.contains h }
    else
      let want : Want := if !q.write then .gets else if (mruFind line x.l1d).isSome then .upg else .getm
      { x with misses := x.misses ++ [{ line := line, want := want, instr := q.instr, sent := false, granted := none, noInstall := false
                                        nt := q.nt, loads := q.loads, mask := q.mask, by_ := q.by_ }] }

/-- Whether a takeover has stopped a tile (R396). -/
def State.tileStopped (s : State) (t : Nat) : Bool := (s.die (t / 128)).takeover.contains (logicalTile t / 4)
/-- Whether an address lies on, or has its home on, a tile that a takeover has stopped (R396). -/
def State.stopped (s : State) (pa : Nat) : Bool :=
  if inLm pa then s.tileStopped (lmCore pa / 8)
  else match lineDie (lineOf pa) with
    | some d => s.tileStopped (lineTile d (lineOf pa))
    | none => false

/-- Whether a core's access of n bytes may perform now, with what it does to the caches; and if not, what it posts (R90,
R134). -/
def State.reachLine (s : State) (c pa n : Nat) (cacheable : Bool) (q : Missing) : State × Bool :=
  let line := lineOf pa
  if s.stopped pa then (s, false)
  else if !coherent pa then (s, true)
  else if cacheable then
    if s.l1Has c line q.write then
      let s := s.l1Touch c line q.write
      (if q.write then s.noteBehind line else s, true)
    else (s.postMiss c line q, false)
  else s.homeLines q.who q.by_ pa n q.write

/-- An access of n bytes of the thread in focus goes on, or waits for a memory reply: of a cached line for its fill, which a load
that has merged is served by (R141); of a C = 0 page for its home, and a load for the answer from there; a load of another core's local memory
or of the ROM for its answer (R185). -/
def reach (pa n : Nat) (cacheable write nt : Bool) : Act Unit := do
  let reply : Act Unit := do
    modTh fun t => { t with served := some (lineOf pa) }
    waitFor .memoryReply
  let s ← get
  if s.stopped pa then waitFor .memoryReply
  else if !write && s.th.served == some (lineOf pa) then modTh fun t => { t with served := none }
  else if !write && !coherent pa && !(inLm pa && lmCore pa == coreOf s.cur) then reply
  else
    let q : Missing := { who := .slot s.cur, write := write, instr := false, nt := nt, mask := blockMask (lineOf pa) pa n, by_ := s.requester }
    let r := s.reachLine (coreOf s.cur) pa n cacheable q
    set r.1
    if !r.2 then waitFor .memoryReply
    else if !write && !cacheable && coherent pa then reply

/-! The directories (R131 to R136). -/

/-- Adds a holder to a cluster entry: the next free pointer, or coarse mode for a fifth (R132). -/
def ClusterEntry.add (e : ClusterEntry) (i : Nat) : ClusterEntry :=
  if e.coarse then { e with tiles := e.tiles ||| (1#4 <<< (i / 8)) }
  else if e.ptrs.contains i then e
  else if e.ptrs.length < 4 then { e with ptrs := e.ptrs ++ [i] }
  else { e with coarse := true, tiles := (i :: e.ptrs).foldl (fun v j => v ||| (1#4 <<< (j / 8))) 0#4, ptrs := [] }

/-- Lines of the remote-data cache of a die: S / 128 (R79, R129). -/
def State.rdcLines (s : State) : Nat := s.rdcGiB * 2 ^ 30 / 128

/-- What a full set asks of a request that needs an entry in it. -/
inductive Room where
  /-- There is room. -/
  | free
  /-- A line of the set is being recalled, or every one is busy: the request waits (R133). -/
  | full
  /-- A line has to be recalled (R133). -/
  | evict (line : Nat) (what : RecallOf)
  deriving DecidableEq, Repr

/-- Room for one more entry in a set of these lines, most recently used first: the least recently used one that is not busy goes. While
one of them is being recalled no other is (R133). -/
def State.roomIn (s : State) (ways : Nat) (set : List Nat) (what : RecallOf) : Room :=
  if set.length < ways then .free
  else if s.txns.any fun t => t.kind == .recall what && set.contains t.line then .full
  else match (set.filter fun l => !s.busy l).getLast? with
    | some v => .evict v what
    | none => .full

/-- What a core's request still needs room for: its cluster directory, its die directory, its die's remote-data cache, and the
hub's table of a CXL line (R128, R129, R131, R133). -/
def State.roomFor (s : State) (c line : Nat) : List Room :=
  let d := coreDie c
  let k := coreCluster c
  let x := s.die d
  let cset := (x.cdir.filter fun e => e.1 % 18 == k && e.1 / 18 % 2048 == line % 2048).map (·.1 / 18)
  let dset := (x.ddir.filter fun e => e.1 % 2 ^ 41 % 72 == line % 2 ^ 41 % 72 && e.1 / 72 % 512 == line / 72 % 512).map (·.1)
  let hub (l : Nat) : Option Nat := (cxlPort (128 * l)).map (· / 4)
  let pset := (s.pdir.filter fun e => (hub e.1).isSome && hub e.1 == hub line && e.1 % 65536 == line % 65536).map (·.1)
  [ if cset.contains line then .free else s.roomIn 12 cset (.cluster d k)
  , if dset.contains line then .free else s.roomIn 12 dset (.die d)
  , if lineDie line = some d || s.rdcLines == 0 then .free else match mruFind (line % s.rdcLines) x.rdc with
      | some old => if old.1 = line then .free else .evict old.1 (.rdc d)
      | none => .free
  , if (hub line).isNone || pset.contains line then .free else s.roomIn 16 pset .package ]

/-- Records a core as a holder at the cluster and the die: alone for an exclusive grant, added for a shared one (R131, R132). -/
def State.recordHolder (s : State) (c line : Nat) (excl : Bool) : State :=
  let d := coreDie c
  let k := coreCluster c
  let key := clusterKey line k
  let x := s.die d
  let new : ClusterEntry := { excl := excl, coarse := false, ptrs := [], tiles := 0 }
  let ce := if excl then new else match mruFind key x.cdir with
    | some e => { e with excl := false }
    | none => new
  let de : DieEntry := if excl then { excl := true, clusters := 1#18 <<< k } else match mruFind line x.ddir with
    | some e => { excl := false, clusters := e.clusters ||| (1#18 <<< k) }
    | none => { excl := false, clusters := 1#18 <<< k }
  s.modDie d fun x => { x with cdir := mruSet key (ce.add (coreInCluster c)) x.cdir, ddir := mruSet line de x.ddir }

/-- Records a die's copy of a line homed elsewhere in the package directory; a die that is exclusive stays so (R131). -/
def State.recordDie (s : State) (d line : Nat) (excl : Bool) : State :=
  if lineDie line = some d then s
  else
    let old := (mruFind line s.pdir).getD { st := 0, owner := 0, dies := 0#4 }
    let p : PackageEntry := if excl || (old.st == 2 && old.owner == d) then { st := 2, owner := d, dies := 0#4 }
      else { st := 1, owner := 0, dies := (if old.st = 2 then 1#4 <<< old.owner else old.dies) ||| (1#4 <<< d) }
    { s with pdir := mruSet line p s.pdir }

/-- Installs a remote line in its die's remote-data cache, where room has been made; a modified copy stays modified, and a copy is
never weakened (R128, R129). -/
def State.installRdc (s : State) (d line : Nat) (st : LineState) : State :=
  if lineDie line = some d || s.rdcLines == 0 then s
  else
    let i := line % s.rdcLines
    let st : LineState := match mruFind i (s.die d).rdc with
      | some (l, old) => if l = line ∧ (old = .m ∨ (old = .e ∧ st = .s)) then old else st
      | none => st
    s.modDie d fun x => { x with rdc := mruSet i (line, st) x.rdc }

/-- The directories after a grant: a write leaves the requester alone, a read adds it; the other dies and the remote-data
caches follow (R128, R131, R134, R135, R137). Answers the state that the fill installs. -/
def State.grantLine (s : State) (core line : Nat) (want : Want) (instr nt : Bool) : State × LineState :=
  let d := coreDie core
  let toL2 (s : State) : State := match lineDie line with
    | some _ => if nt then s else s.installL2Line line false
    | none => s
  if want = .gets then
    let st := s.readState core line instr
    let s := if st = .s then s.shareDirs line (some d) else s
    ((toL2 ((s.recordDie d line (st == .e)).installRdc d line st)).recordHolder core line (st == .e), st)
  else
    let mine := mruFind line (s.core core).l1d
    let s := ((List.range 4).filter (· != d)).foldl (fun s e => s.dropRdc e line) s
    let s := s.modDie d fun x => { x with cdir := x.cdir.filter (fun e => e.1 / 18 != line), ddir := mruErase line x.ddir }
    let s := { s with pdir := mruErase line s.pdir }
    let s := (s.recordDie d line true).installRdc d line .m
    let s := s.modCoreAt core fun x => { x.lateInv line with l1i := x.l1i.filter (· != line) }
    ((if mine.isNone then toL2 s else s).recordHolder core line true, .m)

/-- Whether a line's blocks hit a held entry of a core (R338). -/
def State.sigHolds (s : State) (c line : Nat) : Bool :=
  s.entries.any fun x => coreOf x.2.2.slot == c && (sigHit x.2.2.sigR (2 * line) || sigHit x.2.2.sigW (2 * line) ||
    sigHit x.2.2.sigR (2 * line + 1) || sigHit x.2.2.sigW (2 * line + 1))

/-- An E or M line leaves an L1: through the writeback buffer, or, where it hits a held entry of the core, its data are written
back and the core stays listed for it in S (R140, R338). -/
def State.evictLine (s : State) (c line : Nat) (st : LineState) : State :=
  if st = .s then s
  else if s.sigHolds c line then (if st = .m then s.dataUp (coreDie c) line else s).shareDirs line (some (coreDie c))
  else s.modCoreAt c fun x => { x with wbuf := x.wbuf ++ [(line, st, false)] }

/-- Installs a line in a core's L1, for a .nt load in the least recently used place; the line it replaces leaves (R126, R134, R140,
R204). -/
def State.installL1 (s : State) (c line : Nat) (st : LineState) (instr nt : Bool) : State :=
  if instr then
    s.modCoreAt c fun x =>
      let l := (x.l1i.filter (· != line)).map fun k => (k, ())
      let l := match victim (fun k => k % 32 == line % 32) 4 l with
        | some v => mruErase v.1 l
        | none => l
      { x with l1i := line :: l.map (·.1) }
  else
    let l := mruErase line (s.core c).l1d
    let put (l : List (Nat × LineState)) : List (Nat × LineState) := if nt then l ++ [(line, st)] else (line, st) :: l
    match victim (fun k => k % 64 == line % 64) 4 l with
    | some v => (s.modCoreAt c fun x => { x with l1d := put (mruErase v.1 l) }).evictLine c v.1 v.2
    | none => s.modCoreAt c fun x => { x with l1d := put l }

/-- The slots of a core that wait for a memory reply look again before anything else happens (log 2). -/
def State.wakeWaiters (s : State) (core : Nat) : State :=
  let wake (h : Nat) (t : Thread) : Thread := if coreOf h = core ∧ t.wait = some .memoryReply ∧ t.park.isNone then { t with waitMark := 0 } else t
  { s with th := wake s.cur s.th, threads := s.threads.map fun t => (t.1, wake t.1 t.2) }

/-- Poisons a byte range as one unit (R147). -/
def State.poisonUnit (s : State) (pa n : Nat) : State := { s with poison := (pa, n) :: s.poison }

end Sys2Proof.Machine
end

