-- ==== Sys2Proof/Machine/Speculation.lean ====
section
/-! DEFINITION. Signatures, conflicts, crumbs and aborts of speculative tasks (R334 to R342), and the checks of an
access against them. -/

namespace Sys2Proof.Machine

/-- The requester that a slot's or saved context's thread is, for a store that performs after its issue. -/
def State.requesterOf (s : State) (h : Nat) : Requester :=
  match (s.thread h).entry with
  | some (t, e) => (match s.entry t e with
    | some x => if x.irrevocable then .nonSpec else .spec x.task.dom x.task.key t e
    | none => .nonSpec)
  | none => .nonSpec

/-- Whether a requester's access that meets an entry's task aborts it: a non-speculative one aborts every task but an irrevocable
one, a task the later tasks of its domain and the tasks of other domains (R335, R336). -/
def Requester.aborts (r : Requester) (t e : Nat) (x : CommitEntry) : Bool :=
  !x.irrevocable &&
  (match r with
    | .nonSpec => true
    | .table => false
    | .spec dom key t' e' => !(t == t' && e == e') && (dom != x.task.dom || keyLt key x.task.key))

/-- Whether an access to a block hits the signatures of an entry (R335, R336). -/
def CommitEntry.sigMeets (x : CommitEntry) (a : Nat) (write : Bool) : Bool := sigHit x.sigW a || (write && sigHit x.sigR a)
/-- Whether an entry's task has itself written the block, or for a write read it. -/
def CommitEntry.meets (x : CommitEntry) (a : Nat) (write : Bool) : Bool := x.crumbs.contains a || (write && x.reads.contains a)

/-- Whether an access by a requester to a block aborts an entry's task where its message reaches the task's core (R335, R336). -/
def Requester.hits (r : Requester) (t e : Nat) (x : CommitEntry) (a : Nat) (write : Bool) : Bool := r.aborts t e x && x.sigMeets a write

/-- The 64-byte blocks of a byte range. -/
def blocksOf (pa n : Nat) : List Nat := (List.range ((pa + n - 1) / 64 + 1 - pa / 64)).map (pa / 64 + ·)

/-- Whether an access by a core is checked at a core without a message of the directories: at its own; and for local memory, at the
memory's core and at every core in that memory's visitor set, where the bit for other cores stands for every core of the package (R335,
R338). -/
def State.checkedAt (s : State) (core : Option Nat) (pa c : Nat) : Bool :=
  core == some c ||
  (inLm pa && (lmCore pa == c || (s.core (lmCore pa)).visitors.contains 32 ||
    (c / 32 == lmCore pa / 32 && (s.core (lmCore pa)).visitors.contains (c % 32))))

/-- The entries whose tasks an access aborts when it is made: by their signatures at the cores where it is checked, and at any
other core the tasks that have truly touched the block, so that no agent reads a speculative value (R298, R335, R336; log 16). The
directories' messages carry the check to the cores that they reach (Protocol.lean). -/
def State.conflicts (s : State) (r : Requester) (core : Option Nat) (pa n : Nat) (write : Bool) : List (Nat × Nat) :=
  (s.entries.filter fun x => r.aborts x.1 x.2.1 x.2.2 && (blocksOf pa n).any fun a =>
    if s.checkedAt core pa (coreOf x.2.2.slot) then x.2.2.sigMeets a write else x.2.2.meets a write).map fun x => (x.1, x.2.1)

/-- The same for a write that an abort makes at once: the cores that hold its lines are reached, and checked, by its invalidations (R335,
R341, R342). -/
def State.writeHits (s : State) (r : Requester) (core pa n : Nat) : List (Nat × Nat) :=
  (s.entries.filter fun x => r.aborts x.1 x.2.1 x.2.2 && (blocksOf pa n).any fun a =>
    if s.checkedAt (some core) pa (coreOf x.2.2.slot) || (coherent pa && (s.holders (a / 2)).contains (coreOf x.2.2.slot))
    then x.2.2.sigMeets a true else x.2.2.meets a true).map fun x => (x.1, x.2.1)

/-- Performs one store: writes its bytes and clears the poison it covers; a narrower write into a poisoned unit leaves
it unchanged (R147, R286). -/
def State.perform (s : State) (pa : Nat) (bs : List Byte) : State :=
  if s.poisonNarrow pa bs.length then s else (s.clearPoison pa bs.length).setBytes pa bs

/-- Whether a slot's own instruction or fetch asks for a walk. -/
def WalkAsker.ofSlot (q : WalkAsker) (h : Nat) : Bool :=
  match q with
  | .slot x _ => x == h
  | .fetch x _ => x == h
  | _ => false

/-- Whether a channel's transfer with this number asked for a walk. -/
def WalkAsker.ofNumber (q : WalkAsker) (n : Nat) : Bool :=
  match q with
  | .agent x _ => x == n
  | _ => false

/-- A slot's work leaves it: the walks, the fills and the homes that it waits for go on without it (R94, R139, R141), and error
records made for it stay in their logs for the host (R383). -/
def State.forget (s : State) (h : Nat) : State :=
  { s with
    dies := s.dies.map fun d => (d.1, { d.2 with
      walks := d.2.walks.map fun w => { w with requesters := w.requesters.filter fun q => !(q.ofSlot h) }
      errlog := d.2.errlog.map fun e => { e with target := e.target.filter (· != h) } })
    cores := s.cores.map fun c => (c.1, { c.2 with misses := c.2.misses.map fun m => { m with loads := m.loads.filter (· != h) } })
    homeReqs := s.homeReqs.filter fun r => r.who != .slot h }

/-- Performs every entry of a slot's store buffer, in order (R342). -/
def State.drainAll (s : State) (h : Nat) : State :=
  let s' := (s.thread h).sb.foldl (fun s e => (s.homeAccess e.pa e.bytes.length true).perform e.pa e.bytes) s
  s'.modThread h fun t => { t with sb := [] }

/-- A slot whose work has left it: every register at its start value; the inbox and the owner stay (R34, R348, R368). -/
def Thread.vacate (t : Thread) : Thread :=
  { Thread.reset with
    lqV := t.lqV, lqMove := t.lqMove, lqQueue := t.lqQueue, reserved := t.reserved, inbox := t.inbox, frzto := 0 }

/-- The entry that runs a task of a number. -/
def State.entryOf (s : State) (uid : Nat) : Option (Nat × Nat × CommitEntry) := s.entries.find? fun x => x.2.2.task.uid == uid

/-- Discards an untaken task of a number, queued or spilled (R341). -/
def State.dropTask (s : State) (uid : Nat) : State :=
  { s with tiles := s.tiles.map fun t =>
      (t.1, { t.2 with tasks := t.2.tasks.filter fun x => x.uid != uid
                       requeued := t.2.requeued.filter fun x => x.uid != uid
                       spilled := t.2.spilled.filter fun x => x.2.2.uid != uid }) }

/-- Step 1 of an abort: the slot stops, its stores drain, its unexecuted vector commands are discarded, and the slot is
released; it keeps its lane claim for the work that it takes next (R225, R226, R341, R342; log 94). -/
def State.stopTask (s : State) (x : CommitEntry) : State :=
  if x.stage = .running then
    let s := (s.drainAll x.slot).forget x.slot
    let c := coreOf x.slot
    let s := s.setCore c { s.core c with vq := (s.core c).vq.filter fun y => y.slot != x.slot }
    s.modThread x.slot fun t => { t.vacate with grant := t.grant, laneReq := t.laneReq }
  else s

/-- The tasks that the stores of an aborted task abort as they drain (R335, R342). -/
def State.drainHits (s : State) (t e : Nat) (x : CommitEntry) : List (Nat × Nat) :=
  if x.stage = .running then
    ((s.thread x.slot).sb.flatMap fun y =>
      s.writeHits (.spec x.task.dom x.task.key t e) (coreOf x.slot) y.pa y.bytes.length).eraseDups
  else []

/-- Steps 1 and 2 of R341 for a list of entries, for their running and finished children in turn, and for the tasks that their draining
stores hit: each entry is marked aborting, its untaken children are discarded. An entry that is aborting already is joined. -/
def State.abortAll (s : State) : Nat → List (Nat × Nat × Bool) → State
  | 0, _ => s
  | _, [] => s
  | fuel + 1, (t, e, discard) :: rest =>
    match s.entry t e with
    | none => State.abortAll s fuel rest
    | some x =>
      if x.stage = .aborting then
        State.abortAll (s.setEntry t e { x with discard := x.discard || discard }) fuel rest
      else
        let hit := (s.drainHits t e x).map fun y => (y.1, y.2, false)
        let s := s.stopTask x
        let s := s.setEntry t e { x with stage := .aborting, discard := discard, held := none }
        let kids := x.children.filterMap fun u => (s.entryOf u).map fun y => (y.1, y.2.1, true)
        let s := x.children.foldl State.dropTask s
        State.abortAll s fuel (kids ++ hit ++ rest)

/-- Aborts that a list of them can lead to, joins included: each entry is aborted once, and brings no more than its children and the
entries that its stores hit. -/
def State.abortFuel (s : State) (n : Nat) : Nat := n + (s.entries.length + 1) * (s.entries.length + 1024) + 1
/-- Begins the abort of a list of tasks (R341). -/
def State.abort (s : State) (l : List (Nat × Nat)) : State :=
  s.abortAll (s.abortFuel l.length) (l.map fun x => (x.1, x.2, false))

/-- Forces the aborts that an access asks for. Answers whether the access may go on: an access whose check aborts a task
waits until that abort has completed (R337). -/
def State.forceAborts (s : State) (r : Requester) (core : Option Nat) (pa n : Nat) (write : Bool) : State × Bool :=
  match s.conflicts r core pa n write with
  | [] => (s, true)
  | l => (s.abort l, false)

/-- Physical address of crumb i of commit-queue entry e of a tile (R339). -/
def State.crumbPa (s : State) (t e i : Nat) : Nat :=
  wfield (s.tile t).crumbbase 51 22 * 2 ^ 22 + 32768 * e + 128 * i

/-- Writes a crumb: the block's old 64 bytes, with their poison, its address, and zeros (R147, R339). -/
def State.writeCrumb (s : State) (t e i blk : Nat) : State :=
  (s.perform (s.crumbPa t e i) (s.bytes (64 * blk) 64 ++ leBytes 8 (64 * blk) ++ List.replicate 56 0#8)).copyPoison
    (64 * blk) (s.crumbPa t e i) 64

/-- Logs a crumb before a task's first store to a block, or waits as for the escalation where the log has no room or no
area (R331, R339). -/
def logBlock (blk : Nat) : Act Unit := do
  let s ← get
  match s.myEntry with
  | some (t, e, x) =>
    if x.irrevocable || x.crumbs.contains blk then pure ()
    else if !(s.tile t).crumbbase.getLsbD 0 || decide (256 ≤ x.crumbs.length) then escalate
    else set ((s.writeCrumb t e x.crumbs.length blk).setEntry t e { x with crumbs := blk :: x.crumbs })
  | none => pure ()

/-- Adds blocks to the signatures of the task in focus, if it is speculative (R334). -/
def State.recordAccess (s : State) (blks : List Nat) (write : Bool) : State :=
  match s.myEntry with
  | some (t, e, x) =>
    if x.irrevocable then s
    else if write then s.setEntry t e { x with sigW := blks.foldl sigAdd x.sigW }
    else s.setEntry t e { x with sigR := blks.foldl sigAdd x.sigR, reads := blks.filter (fun a => !x.reads.contains a) ++ x.reads }
  | none => s

/-- Records a speculative visit to another core's local memory in its visitor set (R338). -/
def State.recordVisit (s : State) (pa : Nat) : State :=
  match s.myEntry with
  | some (_, _, x) =>
    if x.irrevocable || !inLm pa || lmCore pa == coreOf s.cur then s
    else
      let c := s.core (lmCore pa)
      let who := if coreOf s.cur / 32 = lmCore pa / 32 then coreOf s.cur % 32 else 32
      let old := assocGet (0#64, 0#64) x.task.dom c.visitKeys
      let key := if keyLt old x.task.key then x.task.key else old
      s.setCore (lmCore pa) { c with visitors := if c.visitors.contains who then c.visitors else who :: c.visitors
                                     visitKeys := assocSet x.task.dom key c.visitKeys }
  | none => s

/-- SpecRead and SpecWrite of R46 for the thread in focus: the aborts the access forces, and for a speculative task the
crumb and the signatures (R335 to R339). -/
def specAccess (pa n : Nat) (write : Bool) : Act Unit := do
  let s ← get
  let r := s.forceAborts s.requester (some (coreOf s.cur)) pa n write
  set r.1
  if r.2 then
    if write then seqActs ((blocksOf pa n).map logBlock)
    modify fun s => (s.recordAccess (blocksOf pa n) write).recordVisit pa
  else waitFor .memoryReply

/-! Walks as the non-speculative reads and updates they are (R95, R96, R336). -/

/-- The reads of a walk, and the update of a leaf, force the speculative tasks they meet to abort: whether the walk may go on
(R95, R298, R336, R337). -/
def State.walkMayRead (s : State) (reads : List Nat) (update : Option Nat) : State × Bool :=
  let r := reads.foldl (fun (p : State × Bool) pa => if p.2 then p.1.forceAborts .nonSpec none pa 8 false else p) (s, true)
  match update with
  | some pa => if r.2 then r.1.forceAborts .nonSpec none pa 8 true else r
  | none => r

end Sys2Proof.Machine
end

