-- ==== Sys2Proof/Machine/Use.lean ====
section
/-! DEFINITION. The checks of an instruction's register operands before any effect: queue-bound and streaming registers
(R159, R175 to R183, R340), and the instructions of one result. -/

namespace Sys2Proof.Machine

/-- A thread's own access of its stream's ring, which is ordinary local memory: it waits below no other transfer's watermark
and first forces the speculative tasks that it meets to abort; of a poisoned byte, or narrower than the poisoned unit that it writes, it
raises POISON, with TVAL the offset (R18, R147, R159, R160, R336). -/
def ringAccess (pa n : Nat) (write : Bool) : Act Unit := do
  let s ← get
  if s.unlanded pa n 0 then waitFor .watermark
  else
    specAccess pa n write
    let s ← get
    if (if write then s.poisonNarrow pa n else s.poisoned pa n) then fault 1 13 (BitVec.ofNat 64 (pa - s.myWindow))

/-- The queue wait on the queue of one of g28 to g31 (R19, R180). -/
def waitBound (r : BitVec 5) : Act Unit := do
  modTh fun t => { t with waitBind := some (BitVec.ofNat 2 r.toNat) }
  waitFor .queue

/-- The checks of one source operand: a queue-bound or streaming register of a speculative task escalates (R183,
R340); a producer-bound or output-streaming one raises QDIR (R176, R180), and a queue of another ASID QPERM (R177; log 88);
an empty queue or an element not yet in the ring waits (R175, R180). v is the value TVAL takes (R456). -/
def checkSource (v : Word) (r : BitVec 5) : Act Unit := do
  let s ← get
  match s.th.gBind r with
  | some b =>
    escalate
    if b.producer then fault 4 28 v
    else match s.queue b.queue with
      | some q =>
        if q.asid != wfield s.th.asid 13 0 then violation 4 25 v
        else if q.words.isEmpty then waitBound r else pure ()
      | none => pure ()
  | none => match s.th.gStream r with
    | some x =>
      escalate
      if x.output then fault 4 28 v
      else if x.used < x.moved then ringAccess (x.place s.myWindow x.used) x.esize false else waitFor .watermark
    | none => pure ()

/-- The checks of one destination operand: writing a consumer-bound register raises QDIR (R180), and a queue of another ASID
QPERM (R177; log 88); a full queue or ring waits (R175, R180), and a push waits for the thread's stores, as the release it is
(R182). A write after the last element of an output stream waits for the stream's end (log 89). v is the value TVAL takes
(R456). -/
def checkDest (v : Word) (r : BitVec 5) : Act Unit := do
  let s ← get
  match s.th.gBind r with
  | some b =>
    escalate
    if b.producer then match s.queue b.queue with
      | some q =>
        if q.asid != wfield s.th.asid 13 0 then violation 4 25 v
        else if q.canPush && s.th.sb.isEmpty then pure () else waitBound r
      | none => pure ()
    else fault 4 28 v
  | none => match s.th.gStream r with
    | some x =>
      escalate
      if x.output then
        if x.used < x.total ∧ x.used - x.moved < x.capacity then ringAccess (x.place s.myWindow x.used) x.esize true
        else waitFor .watermark
      else pure ()
    | none => pure ()

/-- The checks of an instruction's source and destination registers, before any effect, with the value TVAL takes. -/
def useRegsAs (v : Word) (srcs dsts : List (BitVec 5)) : Act Unit := do
  seqActs (srcs.map (checkSource v))
  seqActs (dsts.map (checkDest v))

/-- The checks of the registers of an instruction whose first source is its a field's, or else its b field's (R456). -/
def useRegs (srcs dsts : List (BitVec 5)) : Act Unit := do
  let s ← get
  useRegsAs (s.checkValue srcs) srcs dsts

/-- An instruction of one result: the checks of its registers, then the result of its operands in g[d]. -/
def compute (d : BitVec 5) (srcs : List (BitVec 5)) (f : State → Word) : Act Unit := do
  useRegs srcs [d]
  let s ← get
  finish 4 srcs [(d, f s)]

end Sys2Proof.Machine
end

