-- ==== Sys2Proof/Machine/Protocol.lean ====
section
/-! DEFINITION. The events of the coherence protocol (R133 to R143): requests, the directories' messages and answers with the checks
of the speculative tasks that they reach, grants, fills, evictions, accesses at the home and back-invalidate snoops. -/

namespace Sys2Proof.Machine

/-! Requests (R134, R135). -/

/-- A request reaches the directories, and waits there in order of arrival while its line is busy (R134, R135). One for a line that
the core's writeback buffer still holds is sent once that is answered (log 91). -/
def State.request (s : State) (c line : Nat) (want : Want) : State :=
  let sel (m : Miss) : Bool := !m.sent && m.want == want
  match (s.core c).findMiss line sel with
  | none => s
  | some m =>
    if (s.core c).wbuf.any fun w => w.1 == line then s
    else (s.modCoreAt c fun x => x.setMiss line sel fun m => { m with sent := true }).addTxn line (.request c want m.instr) m.mask m.by_

/-- GETS (R134). -/
def execGets (core line : Nat) (s : State) : Host.Outcome State Fault Refusal := .next (s.request core line .gets)
/-- GETM (R134). -/
def execGetm (core line : Nat) (s : State) : Host.Outcome State Fault Refusal := .next (s.request core line .getm)
/-- UPG (R134, R142). -/
def execUpg (core line : Nat) (s : State) : Host.Outcome State Fault Refusal := .next (s.request core line .upg)

/-! Messages to cores and their answers (R124, R134 to R138, R140, R141, R335 to R338). -/

/-- The blocks that a mask names of a line. -/
def maskBlocks (line : Nat) (m : BitVec 2) : List Nat :=
  (if m.getLsbD 0 then [2 * line] else []) ++ (if m.getLsbD 1 then [2 * line + 1] else [])

/-- The tasks of a core that a message of a transaction aborts: those that its requester's access to the named blocks hits; for a
recall every task that the line's blocks hit, but the earliest of its domain (R124, R335, R336, R338). -/
def State.messageHits (s : State) (t : Txn) (c : Nat) (fwd : Bool) : List (Nat × Nat) :=
  (s.entries.filter fun x => coreOf x.2.2.slot == c && (match t.kind with
    | .recall _ => !x.2.2.irrevocable && !s.earliest x.2.2 && (maskBlocks t.line 3#2).any fun a => x.2.2.sigMeets a true
    | _ => t.by_.aborts x.1 x.2.1 x.2.2 && (maskBlocks t.line t.mask).any fun a => x.2.2.sigMeets a (!fwd))).map fun x => (x.1, x.2.1)

/-- A message to a core is acted on and answered: the line goes to I or S, a copy in the writeback buffer answers for
itself, and with LATE = 1 the core's granted fill is not installed (R134, R137, R140, R141). Tasks of the core that it hits are
aborted first, and it is answered after their aborts (R337). A FWD waits for a fill that is on its way to the owner (log 91). -/
def State.answerMessage (s : State) (c line : Nat) (fwd : Bool) : State :=
  let sel (t : Txn) : Bool := t.out.any fun m => m.core == c && m.fwd == fwd
  match s.findTxn line sel with
  | none => s
  | some t =>
    if fwd && s.lateBit c line then s
    else match s.messageHits t c fwd with
      | [] =>
        let late := t.out.any fun m => m.core == c && m.fwd == fwd && m.late
        let data := (s.core c).holdsM line
        let s := s.modCoreAt c fun x =>
          let x := if fwd then x.shareL1 line else x.invLine line
          if late then x.lateInv line else x
        s.modTxn line sel fun t => { t with out := t.out.filter (fun m => !(m.core == c && m.fwd == fwd)), answers := t.answers ++ [(c, data)] }
      | l => s.abort l

/-- INV (R134, R141). -/
def execInv (core line : Nat) (s : State) : Host.Outcome State Fault Refusal := .next (s.answerMessage core line false)
/-- FWD (R134, R137). -/
def execFwd (core line : Nat) (s : State) : Host.Outcome State Fault Refusal := .next (s.answerMessage core line true)

/-- An acknowledgement is counted at each level that it completes; its data, if any, is the line's value at the level above (R136,
R140). -/
def State.countAnswer (s : State) (c line : Nat) (data : Bool) : State :=
  match s.txns.findIdx? fun t => t.line == line && t.answers.contains (c, data) with
  | none => s
  | some i =>
    let s : State := { s with txns := s.txns.modify i fun t => { t with answers := t.answers.erase (c, data) } }
    ((if data then s.dataUp (coreDie c) line else s).countAt i (c / 32) 3).settle line
/-- ACK (R136). -/
def execAck (core line : Nat) (s : State) : Host.Outcome State Fault Refusal := .next (s.countAnswer core line false)
/-- DACK (R136). -/
def execDack (core line : Nat) (s : State) : Host.Outcome State Fault Refusal := .next (s.countAnswer core line true)

/-! Grants and fills (R133 to R135, R141). -/

/-- A recall arrives that makes room, once (R133). -/
def State.recall (s : State) (line : Nat) (what : RecallOf) : State :=
  if s.txns.any fun t => t.line == line && t.kind == .recall what then s else s.addTxn line (.recall what) 3#2 .nonSpec

/-- A request of a core that only awaits its GRANT: it has its permission, at every level that it needed, and every answer (R135). -/
def Txn.grants (t : Txn) (core : Nat) : Bool := t.complete && match t.kind with
  | .request c _ _ => c == core
  | _ => false
/-- GRANT: with every acknowledgement counted, and room in every directory that needs an entry, the transaction ends and the fill is
on its way; a full set first recalls a line (R133, R135). -/
def execGrant (core line : Nat) (s : State) : Host.Outcome State Fault Refusal :=
  .next (match s.findTxn line (·.grants core) with
    | none => s
    | some t => match t.kind with
      | .request c want instr =>
        match (s.roomFor c line).find? (· != .free) with
        | some (.evict v what) => s.recall v what
        | some _ => s
        | none =>
          let sel (m : Miss) : Bool := m.sent && m.granted.isNone && m.instr == instr
          let nt := ((s.core c).findMiss line sel).any (·.nt)
          let r := s.grantLine c line want instr nt
          ((r.1.modCoreAt c fun x => x.setMiss line sel fun m => { m with granted := some r.2 }).endTxn line (·.grants core)).settle line
      | _ => s)

/-- FILL: the miss register ends; it serves the loads that merged into it, and the line is installed, or with no-install discarded, a
store being asked again (R134, R141). -/
def execFill (core line : Nat) (s : State) : Host.Outcome State Fault Refusal :=
  .next (match (s.core core).misses.findIdx? fun m => m.line == line && m.granted.isSome with
    | none => s
    | some i => match (s.core core).misses[i]? with
      | none => s
      | some m =>
        let s := s.modCoreAt core fun x => { x with misses := x.misses.eraseIdx i }
        let s := m.loads.foldl (fun s h => s.modThread h fun t =>
          if t.wait = some .memoryReply ∧ t.park.isNone then { t with served := some line, waitMark := 0 } else t) s
        let s := if m.instr then s else s.wakeWaiters core
        if m.noInstall then s else s.installL1 core line (m.granted.getD .s) m.instr m.nt)

/-! Evictions (R140). -/

/-- Whether a core's instruction cache holds a line, or its fill is on its way: the core stays listed (R131). -/
def Core.keepsInstr (x : Core) (line : Nat) : Bool :=
  x.l1i.contains line || x.misses.any fun m => m.line == line && m.instr && m.granted.isSome
/-- An eviction notice reaches the directories: a holder that a pointer records is removed, the data of a recorded owner going up; in
coarse mode, and from a core that is not recorded, it changes nothing. Either way the core's buffer is answered (R132, R140). -/
def State.evictNotice (s : State) (c line : Nat) (st : LineState) : State :=
  if (s.core c).wbuf.any (fun w => w == (line, st, false)) && !s.busy line then
    let d := coreDie c
    let k := coreCluster c
    let s : State := match mruFind (clusterKey line k) (s.die d).cdir with
      | some e =>
        if !e.coarse && e.ptrs.contains (coreInCluster c) && !(s.core c).keepsInstr line then
          let s : State := if e.excl && st == LineState.m then s.dataUp d line else s
          let ptrs := e.ptrs.filter (· != coreInCluster c)
          if ptrs.isEmpty then s.dropCluster d k line
          else s.modDie d fun x => { x with cdir := x.cdir.map fun y => if y.1 = clusterKey line k then (y.1, { e with ptrs := ptrs }) else y }
        else s
      | none => s
    s.modCoreAt c fun x => { x with wbuf := x.wbuf.map fun w => if w = (line, st, false) then (line, st, true) else w }
  else s
/-- PUTE (R140). -/
def execPute (core line : Nat) (s : State) : Host.Outcome State Fault Refusal := .next (s.evictNotice core line .e)
/-- PUTM (R140). -/
def execPutm (core line : Nat) (s : State) : Host.Outcome State Fault Refusal := .next (s.evictNotice core line .m)
/-- WBACK (R140). -/
def execWback (core line : Nat) (s : State) : Host.Outcome State Fault Refusal :=
  .next (s.modCoreAt core fun x => { x with wbuf := x.wbuf.filter fun w => !(w.1 == line && w.2.2) })

/-! Homes (R139, R143). -/

/-- Whether an atomic of the thread has left its core and not performed (R301, R395). -/
def Thread.atomicSent (t : Thread) : Bool := match t.outstanding with
  | some o => (match o.req with
    | .atomic _ _ _ _ _ _ none => true
    | _ => false)
  | none => false

/-- Whether whoever asked for an access still waits for it. -/
def State.asks (s : State) (who : Asker) : Bool :=
  match who with
  | .slot h => (s.thread h).atomicSent || ((s.thread h).wait == some .memoryReply && (s.thread h).park.isNone)
  | .number n =>
    ((s.cur, s.th) :: s.threads).any (fun t => t.2.sb.any fun e => e.seq == n) ||
    s.cores.any (fun c => (c.2.vq ++ c.2.mq ++ c.2.sq).any fun x => x.seq == n) ||
    s.tiles.any (fun t => t.2.chans.toList.any fun c => c.transfers.any fun x => x.seq == n && x.stopped.isNone) || (assocFind n s.launches).isSome ||
    s.inbound.any (·.num == n)

/-- BISNP: the hub invalidates every copy of a CXL line, in the line's order, and answers; in a fatal reset a line recorded as
exclusive is answered as poisoned, and the device records the poison of its two units of 64 bytes (R143; log 37). -/
def execBisnp (line : Nat) (s : State) : Host.Outcome State Fault Refusal :=
  .next (if (cxlPort (128 * line)).isNone then s
    else if s.phase = .run then s.addTxn line .snoop 3#2 .nonSpec
    else
      let excl := s.fatal && (mruFind line s.pdir).any fun p => p.st == 2
      let s := if excl then (s.poisonUnit (128 * line) 64).poisonUnit (128 * line + 64) 64 else s
      { s with pdir := mruErase line s.pdir, sent := s.sent ++ [.birsp line excl] })

end Sys2Proof.Machine
end

