-- ==== Sys2Proof/Machine/Fetch.lean ====
section
/-! DEFINITION. The fetch of instruction bytes (R22, R90, R151, R309, R313, R315), and what a thread's own store does to its windows
(R314). -/

namespace Sys2Proof.Machine

open Host (Cell)

/-! Where instruction bytes lie. -/

/-- Splits n bytes from an address on at the end of its 64 KiB page. -/
def pageSplit (va n : Nat) : List (Nat × Nat) :=
  let m := min n (65536 - va % 65536)
  if m = n then [(va, n)] else [(va, m), (va + m, n - m)]

/-- The identity of a slot's fetch as the issuer of an access (R84, R309). -/
def FetchId.issuer (id : FetchId) (h : Nat) : Issuer := { core := coreOf h, mode := id.mode, asid := id.asid, ptbase := id.ptbase }
/-- The fetch identity of a slot's thread under a mode. -/
def State.fetchIssuer (s : State) (h : Nat) (mode : BitVec 2) : Issuer := ((s.thread h).fetchId mode).issuer h

/-- Whether an address is the firmware ROM's own: in M mode an address inside the ROM is not translated (R77, R377; log 15). -/
def romFetch (w : Issuer) (va : Nat) : Bool := inRom va && w.mode == 3#2

/-- Where an instruction address lies now, without any effect; none where it does not translate. -/
def State.peekFetch (s : State) (w : Issuer) (va : Nat) : Option Nat :=
  if romFetch w va then some va else s.peekVa w va .fetch

/-- Whether a window's bytes overlap a written range: the bytes held, or those that the window in flight or failed asks for
(R314). -/
def State.windowMeets (s : State) (h win pa n : Nat) : Bool :=
  let asked (w : Issuer) (a : Nat) : Bool := (pageSplit a 64).any fun p => match s.peekFetch w p.1 with
    | some q => overlap q p.2 pa n
    | none => false
  match (s.thread h).windowAt win with
  | (_, .ready _ cells) => cells.any fun c => overlap pa n c.1 1
  | (a, .inFlight id) => asked (id.issuer h) a
  | (a, .failed m _) => asked (s.fetchIssuer h m) a
  | (_, .none) => false

/-- A thread's own store or atomic marks stale every window that overlaps it and discards the fetch buffer from the
first overlapping byte on, the byte whose fetch failed counted (R307, R313 to R315). -/
def State.storeStales (s : State) (h pa n : Nat) : State :=
  let meets (win : Nat) : Bool := s.windowMeets h win pa n
  let t := s.thread h
  let failed : Bool := t.fbuf.fail.isSome && match s.peekFetch (s.fetchIssuer h t.mode) (t.fbuf.base + t.fbuf.cells.length) with
    | some p => overlap pa n p 1
    | none => false
  s.modThread h fun t =>
    let cells := t.fbuf.cells.takeWhile fun c => !overlap pa n c.1 1
    { t with
      bt := t.bt.mapIdx fun i b => if b.v && meets i then { b with s := true } else b
      loops := t.loops.mapIdx fun i l => if meets (8 + i) then { l with stale := true } else l
      trapStale := t.trapStale || meets 10
      fbuf := if failed || decide (cells.length < t.fbuf.cells.length) then { t.fbuf with cells := cells, fail := none } else t.fbuf }

/-! Instruction fetch (R22, R90, R309, R313, R315). -/

/-- The places of bytes of one page: translation, execute permission, the map, and PERMR where they lie in another core's local memory
(R82, R88, R89, R151, R154); none while a walk is awaited (R93). -/
def State.fetchPage (s : State) (q : WalkAsker) (w : Issuer) (va n : Nat) : State × Option (Except Cause (List Nat)) :=
  if romFetch w va then (s, some (.ok ((List.range n).map (va + ·))))
  else match s.locateFor q w va .fetch with
    | (s, none) => (s, none)
    | (s, some (.error c)) => (s, some (.error c))
    | (s, some (.ok (pa, _))) =>
      match (List.range n).findSome? fun i => s.mapCheck (pa + i) w.mode .fetch (BitVec.ofNat 64 (va + i)) with
      | some c => (s, some (.error c))
      | none =>
        if s.lmPermits w pa .fetch then (s, some (.ok ((List.range n).map (pa + ·))))
        else (s, some (.error { code := code 1 10, tval := BitVec.ofNat 64 va, violation := true }))

/-- The places of bytes of several pages, in order; the first failure ends the fetch with no read of any byte (R309). -/
def State.fetchPages (s : State) (q : WalkAsker) (w : Issuer) : List (Nat × Nat) → State × Option (Except Cause (List Nat))
  | [] => (s, some (.ok []))
  | (va, n) :: rest => match s.fetchPage q w va n with
    | (s, some (.ok l)) => (match State.fetchPages s q w rest with
      | (s, some (.ok m)) => (s, some (.ok (l ++ m)))
      | r => r)
    | r => r

/-- The result of a fetch of instruction bytes: the bytes with their addresses, and the cause that stopped it, if any; or a wait, for
an abort, for a store of the thread's own, for a byte above a watermark or for its line in the instruction cache (R90, R134, R159,
R311, R314, R337). -/
inductive Fetched where
  | got (cells : List Cell) (fail : Option Cause)
  | blocked

/-- Reads instruction bytes at places of a slot's thread: the thread's own stores have performed, watermarks, the instruction cache,
where a hit makes its line the most recently used one, the aborts that the read forces, and poison (R90, R126, R134, R147, R151, R159,
R298, R311). -/
def State.fetchCells (s : State) (h va : Nat) : List Nat → State × Fetched
  | [] => (s, .got [] none)
  | pa :: rest =>
    let c := coreOf h
    if s.stopped pa || (s.thread h).sb.any (fun e => overlap e.pa e.bytes.length pa 1) || s.unlanded pa 1 0 then (s, .blocked)
    else if coherent pa && !(s.core c).l1i.contains (lineOf pa) then
      (s.postMiss c (lineOf pa)
        { who := .slot h, write := false, instr := true, nt := false, mask := blockMask (lineOf pa) pa 1, by_ := s.requesterOf h }, .blocked)
    else
      let s := if coherent pa then s.modCoreAt c fun x => { x with l1i := lineOf pa :: x.l1i.filter (· != lineOf pa) } else s
      match s.forceAborts (s.requesterOf h) (some c) pa 1 false with
      | (s, false) => (s, .blocked)
      | (s, true) =>
        if s.poisoned pa 1 then (s, .got [] (some (fault1 13 (BitVec.ofNat 64 va))))
        else match State.fetchCells s h (va + 1) rest with
          | (s, .got cells f) => (s, .got ((pa, s.byte pa) :: cells) f)
          | (s, .blocked) => (s, .blocked)

/-- Fetches n instruction bytes for a slot's thread from a virtual address on, checked under an identity, as an asker of the walk
unit. -/
def State.fetchBytes (s : State) (h : Nat) (q : WalkAsker) (w : Issuer) (va n : Nat) : State × Fetched :=
  match s.fetchPages q w (pageSplit va n) with
  | (s, none) => (s, .blocked)
  | (s, some (.error c)) => (s, .got [] (some c))
  | (s, some (.ok places)) => s.fetchCells h va places

/-- Fetches the 64 bytes of a slot's window under the identity of the instruction that started it: the window in its state READY or FAILED, or
none while it waits (R84, R306, R309). -/
def State.fetchWindow (s : State) (h win : Nat) (va : Nat) (id : FetchId) : State × Option Window :=
  match s.fetchBytes h (.fetch h win) (id.issuer h) va 64 with
  | (s, .blocked) => (s, none)
  | (s, .got cells none) => (s, some (.ready id.mode cells))
  | (s, .got _ (some c)) => (s, some (.failed id.mode c))

end Sys2Proof.Machine
end

