-- ==== Sys2Proof/Machine/Identity.lean ====
section
/-! DEFINITION. The identity of a thread: what names a slot's thread follows it when its context is saved, migrates or
resumes on another slot (R316, R375, R376, R391 to R394). -/

namespace Sys2Proof.Machine

/-- Replaces one number by another. -/
def swapId (a b x : Nat) : Nat := if x = a then b else x

/-- Everything that names thread a names thread b from now on: its commands, transfers, key updates, queue ends, group
memberships, commit-queue entry, forwarding entries, the accesses at a home and the error records made for it (R383, R395). The walks and fills that it waited for go on without
it (R94, R141). -/
def State.rename (s : State) (a b : Nat) : State :=
  let f := swapId a b
  let cmd (c : Command) : Command := { c with slot := f c.slot }
  let who (x : Asker) : Asker := match x with
    | .slot h => .slot (f h)
    | x => x
  let s : State := { s with
    cores := s.cores.map fun c => (c.1, { c.2 with
      vq := c.2.vq.map cmd, mq := c.2.mq.map cmd, sq := c.2.sq.map cmd
      keys := c.2.keys.map fun k => { k with slot := f k.slot } })
    tiles := s.tiles.map fun t => (t.1, { t.2 with
      chans := t.2.chans.map fun c => { c with transfers := c.transfers.map fun x => { x with slot := f x.slot, stopped := x.stopped.map f } }
      commit := t.2.commit.map fun e => (e.1, { e.2 with slot := f e.2.slot }) })
    migrating := s.migrating.map fun m => (m.1, m.2.1, f m.2.2)
    homeReqs := s.homeReqs.map fun r => { r with who := who r.who }
    txns := s.txns.map fun t => match t.kind with
      | .home x w => { t with kind := .home (who x) w }
      | _ => t
    queues := s.queues.map fun q => (q.1, { q.2 with consBound := q.2.consBound.map f, prodBound := q.2.prodBound.map f })
    dies := s.dies.map fun d => (d.1, { d.2 with
      groups := d.2.groups.map fun g => (g.1, { g.2 with
        members := g.2.members.map f, arrived := g.2.arrived.map f, released := g.2.released.map f })
      forward := d.2.forward.map fun x => (x.1, f x.2)
      errlog := d.2.errlog.map fun e => { e with target := e.target.map f } }) }
  s.forget a

/-- The thread as a saved context: its branch-target registers as they are, but no window, fetch buffer or wait (R316). A WFI and a CWAIT
keep what they noted for the wait that they resume (R168, R386, R395). -/
def Thread.asSaved (t : Thread) : Thread :=
  { t with
    bt := t.bt.map fun b => { b with win := .none }
    loops := t.loops.map fun l => { l with win := .none }
    trapWin := .none, fbuf := emptyFbuf t.pc, entering := none, wait := none, refetched := none, walkFail := [], served := none
    waitBind := if t.wait = some .queue ∨ t.wait = none then t.waitBind else none
    posted := if t.wait = some .wfi ∨ t.wait = some .cwait ∨ t.wait = none then t.posted else none }
/-- The thread as a context restored from an image: every valid branch-target register and every window is stale (R307, R316, R375). -/
def Thread.asContext (t : Thread) : Thread :=
  { t.asSaved with
    bt := t.bt.map fun b => { b with s := b.v, win := .none }
    loops := t.loops.map fun l => { l with stale := true, win := .none }
    trapStale := true }

/-- Takes the thread of a slot out of it, as a saved context: its number is the slot's handle + 32,768 × n for an n not
used before, and the slot is free. -/
def State.detach (s : State) (h : Nat) (p : Park) : Nat × State :=
  let (n, s) := s.freshen
  let key := h + 32768 * n
  let t := s.thread h
  (key, ((s.setThread h { t.vacate with inbox := [] }).setThread key { t.asSaved with park := some p }).rename h key)

/-- Puts a saved context on a free slot, which keeps its own owner fields. -/
def State.attach (s : State) (key h : Nat) : State :=
  let t := s.thread key
  let o := s.thread h
  let s := { s with threads := assocErase key s.threads }
  (s.setThread h { t with park := none, lqV := o.lqV, lqMove := o.lqMove, lqQueue := o.lqQueue, reserved := false }).rename key h

/-- The numbers of the saved contexts. -/
def State.saved (s : State) : List Nat := (s.threads.filter fun t => t.2.park.isSome).map (·.1)

end Sys2Proof.Machine
end

