-- ==== Sys2Proof/Machine/Shape.lean ====
section
/-! DEFINITION. Vector registers as elements under masks (R228, R229), the elements of a tensor (R68 to R71), and where the elements of a
vector memory command lie (R245). -/

namespace Sys2Proof.Machine

/-! Elements and masks (R228, R229). -/

/-- Bits of an element of a width code. -/
def elemBits (w : Nat) : Nat := 8 * 2 ^ w
/-- Elements of e bits in the thread's registers. -/
def Thread.count (t : Thread) (e : Nat) : Nat := 32 * t.grant / e
/-- Element j of e bits of a register. -/
def Thread.elem (t : Thread) (r : BitVec 5) (e j : Nat) : Nat := (regGet t.v r).toNat / 2 ^ (e * j) % 2 ^ e
/-- Lane i's bit of a mask; k0 reads all set (R228). -/
def Thread.laneSet (t : Thread) (k : BitVec 3) (i : Nat) : Bool := k == 0#3 || (get8 t.k k).getLsbD i
/-- Whether a mask admits element j of e bits: the bit of its lane, of the even one for 64 bits (R228). -/
def Thread.admits (t : Thread) (k : BitVec 3) (e j : Nat) : Bool := t.laneSet k (e * j / 32)
/-- A register from its elements of e bits, element 0 lowest. -/
def packElems (e : Nat) : List Nat → Nat
  | [] => 0
  | x :: xs => x % 2 ^ e + 2 ^ e * packElems e xs
/-- Replaces element j of e bits of a register. -/
def Thread.setElem (t : Thread) (r : BitVec 5) (e j x : Nat) : Thread :=
  let m := BitVec.ofNat 2048 ((2 ^ e - 1) * 2 ^ (e * j))
  { t with v := regSet t.v r ((regGet t.v r &&& ~~~m) ||| (BitVec.ofNat 2048 (x * 2 ^ (e * j)) &&& m)) }

/-- The stream of a vector register, if v28 to v31 has one (R173). -/
def Thread.vStream (t : Thread) (r : BitVec 5) : Option Stream :=
  if 28 ≤ r.toNat then get8 t.streams (BitVec.ofNat 3 (r.toNat - 24)) else none

/-! Tensors (R68 to R71). -/

/-- A tensor-table entry's fields (R68). -/
structure Tensor where
  wprot : Bool
  /-- K runs along a column. -/
  kcol : Bool
  skind : Nat
  layout : Nat
  format : Nat
  stride : Nat
  cols : Nat
  rows : Nat
  sbase : Nat
  base : Nat
  deriving DecidableEq, Repr

/-- The fields of an entry (R68). -/
def Tensor.ofEntry (e : BitVec 512) : Tensor :=
  { wprot := e.getLsbD 266, kcol := e.getLsbD 265, skind := wfield e 264 263, layout := wfield e 262 261, format := wfield e 260 256
    stride := wfield e 231 192, cols := wfield e 191 160, rows := wfield e 159 128, sbase := wfield e 119 64, base := wfield e 55 0 }

/-- Element width of a tensor in bits (R69). -/
def Tensor.w (t : Tensor) : Nat := fmtWidth t.format

/-- Whether element (i, j) exists (R71). -/
def Tensor.has (t : Tensor) (i j : Nat) : Bool := decide (i < t.rows) && decide (j < t.cols)
/-- ElemBit (R71): the bit address of an element's first bit. -/
def Tensor.elemBit (t : Tensor) (i j : Nat) : Nat :=
  match t.layout with
  | 0 => 8 * (t.base + i * t.stride) + j * t.w
  | 1 => 8 * (t.base + j * t.stride) + i * t.w
  | _ => 8 * (t.base + i / 32 * t.stride + j / 32 * 128 * t.w) + (i % 32 * 32 + j % 32) * t.w
/-! Vector memory commands (R245). -/

/-- Puts the strips a command popped into their registers (R175). -/
def State.putStrips (s : State) (slot : Nat) : List (BitVec 2048) → State
  | r :: v :: l => (s.modThread slot fun t => { t with v := regSet t.v (BitVec.ofNat 5 r.toNat) v }).putStrips slot l
  | _ => s

/-- The 64-bit-wide place of a tagged address with an offset added: the address wraps modulo 2^56 (R245). -/
def taggedAddr (ga : Word) (off : Int) : Word := BitVec.ofInt 56 ((wfield ga 55 0 : Nat) + off) |>.zeroExtend 64

/-- The elements of a VMEM command: the bits of one, its mask, and the mode and address of element j, none for one that its tensor does not
have (R71, R245). -/
structure VmemElems where
  bits : Nat
  mask : BitVec 3
  place : Nat → Option (Nat × Nat)

/-- The elements of a VMEM command with given registers; none for any other command. -/
def Command.vmem (c : Command) (t : Thread) : Option VmemElems :=
  let tagged (e : Nat) (k : BitVec 3) (off : Nat → Int) : Option VmemElems :=
    some { bits := e, mask := k, place := fun j => some (wfield c.ga 63 62, (taggedAddr c.ga (off j)).toNat) }
  let even (w : BitVec 2) (k : BitVec 3) : Option VmemElems := tagged (elemBits w.toNat) k fun j => (j * 2 ^ w.toNat : Nat)
  let strided (w : BitVec 2) (k : BitVec 3) : Option VmemElems := tagged (elemBits w.toNat) k fun j => j * (c.gb.truncate 32 : BitVec 32).toInt
  let indexed (b : BitVec 5) (w : BitVec 1) (k : BitVec 3) : Option VmemElems :=
    tagged (32 * 2 ^ w.toNat) k fun j => t.elem b (32 * 2 ^ w.toNat) j
  let tensor (w : BitVec 2) (k : BitVec 3) : Option VmemElems :=
    let x := Tensor.ofEntry (c.tensors.headD 0)
    some { bits := elemBits w.toNat, mask := k, place := fun j =>
      let col := wfield c.ga 51 32 + j
      if x.has (wfield c.ga 31 12) col then some (0, x.elemBit (wfield c.ga 31 12) col / 8) else none }
  match c.instr with
  | .vld _ _ k w => even w k
  | .vst _ _ k w => even w k
  | .vlds _ _ _ k w => strided w k
  | .vsts _ _ _ k w => strided w k
  | .vldx _ _ b k w => indexed b w k
  | .vstx _ _ b k w => indexed b w k
  | .vstxa _ _ b k w => indexed b w k
  | .vldt _ _ k w => tensor w k
  | .vstt _ _ k w => tensor w k
  | _ => none

/-- Whether a command can change no vector register and no mask: the stores (R245). -/
def Command.onlyStores (c : Command) : Bool :=
  match c.instr with
  | .vst .. | .vsts .. | .vstx .. | .vstxa .. | .vstt .. | .ksend .. => true
  | _ => false
/-- Whether a VMEM command takes its addresses from a vector register. -/
def Command.indexed (c : Command) : Bool :=
  match c.instr with
  | .vldx .. | .vstx .. | .vstxa .. => true
  | _ => false

end Sys2Proof.Machine
end

