-- ==== Sys2Proof/Machine/Memory.lean ====
section
/-! DEFINITION. A thread's memory access: Locate in the order of R201, the store buffer with its forwarding and its
draining (R186, R202, R288, R289), and reads and writes of N bytes (R45, R46). -/

namespace Sys2Proof.Machine

/-! Migration of an access (R97, R375). -/

/-- The tile key of the home tile of a physical address on its home die (R127). -/
def homeTile (pa : Nat) : Nat := 128 * hbmDie pa + pa / 128 % 2 ^ 41 % 72

/-- Whether a thread can leave a handle of a die for another: the table of the die has an entry that no thread in transit is to take
(R376). -/
def State.canForward (s : State) (old : Nat) : Bool :=
  decide ((s.die (dieOf old)).forward.length + (s.migrating.filter fun m => dieOf m.1 == dieOf old).length < 256)

/-- Whether a persistent thread can be moved: no lane request, queue binding or stream, and a free forwarding entry on
the die it would leave (R183, R375). -/
def State.canMove (s : State) : Bool :=
  s.th.laneReq == 0 && s.th.bind.toList.all (·.isNone) && s.th.streams.toList.all (·.isNone) &&
  s.canForward s.cur

/-- Moves the access's thread or task to the home die where R97 asks for it; any other issuer goes on. -/
def migrateFor (pa : Nat) : Act Unit := do
  let s ← get
  match s.myEntry with
  | some (t, e, x) =>
    if x.irrevocable then pure ()
    else
      set ((s.setEntry t e { x with requeueTile := some (homeTile pa) }).abort [(t, e)])
      stopHere
  | none =>
    if s.th.kind = .persistent ∧ s.canMove then
      let h := s.cur
      let r := s.detach h { image := none, cluster := none, sched := true, rsn := .reissue, ans := 0, sbcnt := s.th.sb.length, wait := none, yielded := false }
      set ({ r.2 with migrating := assocSet h (homeTile pa, r.1) r.2.migrating }.modThread h fun t => { t with reserved := true })
      stopHere
    else pure ()

/-! Translation of a thread's access (R91 to R96). -/

/-- The leaf of a thread's access: from the TLBs, or by a walk whose result the slot awaits as a memory reply; a failed
walk's fault is raised by the access that asked for it, whatever a TLB now holds (R91 to R94). -/
def translate (va : Nat) : Act TlbEntry := do
  let s ← get
  match s.takeFailure (.slot s.cur false) (va / 65536) with
  | some (s, c) =>
    set s
    raise { c with tval := BitVec.ofNat 64 va }
  | none =>
    match s.tlbLookup (coreOf s.cur) .load (wfield s.th.asid 13 0) va with
    | some e =>
      modify fun s => s.installCore (coreOf s.cur) .load e
      return e
    | none =>
      modify fun s => s.postWalk (dieOf s.cur) (.slot s.cur false) s.issuer (va / 65536) false
      waitFor .memoryReply

/-- A store through a leaf whose copy of D is 0 is sent to the walk unit to set D first (R96). -/
def ensureDirty (va : Nat) (e : TlbEntry) (k : AccessKind) : Act Unit := do
  if k.writes && !e.dirty then
    modify fun s => s.postWalk (dieOf s.cur) (.slot s.cur false) s.issuer (va / 65536) true
    waitFor .memoryReply

/-- Where an access goes: its physical address and whether it is cached. -/
structure Loc where
  pa : Nat
  cacheable : Bool
  /-- The leaf of a translated access. -/
  leaf : Option TlbEntry
  deriving DecidableEq, Repr

/-- The physical address of a cluster-interleaved address for a core (R149). -/
def clusterPa (core : Nat) (a : Nat) : Nat :=
  window (globalCore core / 32 * 32 + 8 * (a / 64 % 4) + a / 8 % 8) + (a / 256 * 8 + a % 8)

/-- Whether the home of an HBM address is another die than the thread's (R97). -/
def State.remoteHbm (s : State) (pa : Nat) : Bool := inHbm pa && hbmDie pa != dieOf s.cur

/-- Steps 4 to 9 of R201 for an access of n bytes: the range checks of the mode, translation and permission, the map,
migration and the local-memory permissions. -/
def locateMode (a : Word) (am : BitVec 2) (n : Nat) (k : AccessKind) : Act Loc := do
  let s ← get
  match am.toNat with
  | 1 =>
    if 0x40000 ≤ a.toNat then fault 1 11 a
    else return { pa := s.myWindow + a.toNat, cacheable := false, leaf := none }
  | 2 =>
    if 0x800000 ≤ a.toNat then fault 1 11 a
    else if n = 16 then fault 1 12 a
    else return { pa := clusterPa (coreOf s.cur) a.toNat, cacheable := false, leaf := none }
  | 3 =>
    if 2 ^ 52 ≤ a.toNat then fault 1 7 a
    else return { pa := a.toNat, cacheable := !inLm a.toNat, leaf := none }
  | _ =>
    if 2 ^ 56 ≤ a.toNat then fault 1 2 a
    else if !s.th.ptbase.getLsbD 0 then fault 1 3 a
    else
      let e ← translate a.toNat
      if !leafPermits e.leaf s.th.mode k then violation 1 9 a
      else return { pa := e.pa a.toNat, cacheable := e.cacheable && !inLm (e.pa a.toNat), leaf := some e }

/-- The part of an access that writes: D is set, and SpecWrite is passed (R46, R96). -/
def commitWrite (a : Word) (l : Loc) (n : Nat) : Act Unit := do
  match l.leaf with
  | some e => ensureDirty a.toNat e .store
  | none => pure ()
  specAccess l.pa n true

/-- Locate of R46 with the checks of steps 3 to 12 of R201, the watermark wait of R159 and the speculation steps: those
of a read for a load or the read half of an atomic, those of a write for a store. -/
def locate (a : Word) (am : BitVec 2) (n : Nat) (k : AccessKind) : Act Loc := do
  require (a.toNat % n == 0) 1 1 a
  let l ← locateMode a am n k
  let s ← get
  match s.mapCheck l.pa s.th.mode k a with
  | some c => raise c
  | none =>
    if l.leaf.any (·.migratory) && s.remoteHbm l.pa then migrateFor l.pa
    if !s.lmPermits s.issuer l.pa k then violation 1 10 a
    else
      if l.leaf.any (!·.cacheable) && !inLm l.pa then escalate
      let s ← get
      if s.unlanded l.pa n 0 then waitFor .watermark
      else
        if k = .store then commitWrite a l n else specAccess l.pa n false
        return l

/-! The store buffer (R288, R289). -/

/-- The bytes a load sees: the latest store-buffer byte of the thread, or memory's (R202). -/
def Thread.forwardByte (t : Thread) (pa : Nat) : Option Byte :=
  t.sb.foldl (fun r e => if e.pa ≤ pa ∧ pa < e.pa + e.bytes.length then e.bytes[pa - e.pa]? else r) none

/-- The n bytes a thread's load binds (R202). -/
def State.loadBytes (s : State) (pa n : Nat) : List Byte :=
  (List.range n).map fun i => (s.th.forwardByte (pa + i)).getD (s.byte (pa + i))

/-- Whether entry i of a store buffer may perform: no earlier entry overlaps it, a release waits for every earlier
entry, and every entry waits for those of an earlier fence epoch (R288). -/
def Thread.mayDrain (t : Thread) (i : Nat) : Bool :=
  match t.sb[i]? with
  | none => false
  | some e =>
    let earlier := t.sb.take i
    (e.kind != .release || earlier.isEmpty) &&
    earlier.all (fun x => !overlap e.pa e.bytes.length x.pa x.bytes.length) &&
    earlier.all (·.epoch == e.epoch)

/-- Whether the thread's store buffer holds an entry that overlaps a range. -/
def Thread.sbOverlaps (t : Thread) (pa n : Nat) : Bool := t.sb.any fun e => overlap e.pa e.bytes.length pa n

/-- The release entry that a store of these bytes may merge into: the last entry that it overlaps, where that is a release of the
same epoch and address space which holds every byte of it (R289). -/
def Thread.mergePlace (t : Thread) (pa n : Nat) : Option Nat :=
  ((t.sb.zipIdx.reverse.find? fun x => overlap pa n x.1.pa x.1.bytes.length).filter fun x =>
    x.1.kind == .release && decide (x.1.pa ≤ pa) && decide (pa + n ≤ x.1.pa + x.1.bytes.length) && x.1.epoch == t.epoch &&
    x.1.asid == wfield t.asid 13 0).map (·.2)

/-- An entry with the bytes of a later store over its own (R289). -/
def StoreEntry.merge (e : StoreEntry) (pa : Nat) (bs : List Byte) : StoreEntry :=
  { e with bytes := e.bytes.mapIdx fun i b => if pa ≤ e.pa + i then bs.getD (e.pa + i - pa) b else b }

/-- Enters a store into the thread's store buffer, or waits while it is full (R186, R288); a plain or .nt store may merge into an
earlier release instead, which is a free choice (R289; log 4). The store marks its own windows stale at issue (R314). -/
def pushStore (a : Word) (l : Loc) (bs : List Byte) (k : StoreKind) : Act Unit := do
  waitUntil .memoryReply fun s => decide (s.th.sb.length < 8)
  let s ← get
  let into := if k = .release then none else s.th.mergePlace l.pa bs.length
  let merge : Nat × State := if into.isSome then s.choose 2 else (0, s)
  set merge.2
  match if merge.1 = 1 then into else none with
  | some i => modTh fun t => { t with sb := t.sb.modify i fun e => e.merge l.pa bs }
  | none =>
    let (n, s) := merge.2.freshen
    set s
    modTh fun t =>
      { t with sb := t.sb ++ [{ pa := l.pa, bytes := bs, kind := k, cacheable := l.cacheable, asid := wfield t.asid 13 0, va := a, pc := t.pc
                                epoch := t.epoch, seq := n }] }
  modify fun s => s.storeStales s.cur l.pa bs.length

/-! Vector commands that a scalar access waits for (R246). -/

/-- Where an address of a mode lies now, without any effect; none where it does not translate. -/
def State.peek (s : State) (h : Nat) (am : Nat) (a : Nat) : Option Nat :=
  let t := s.thread h
  match am with
  | 1 => some (window (globalCore (coreOf h)) + a)
  | 2 => some (clusterPa (coreOf h) a)
  | 3 => some a
  | _ => s.peekVa { core := coreOf h, mode := t.mode, asid := wfield t.asid 13 0, ptbase := t.ptbase } a .load

/-- Whether an accepted, unperformed VMEM command overlaps a 64-byte block of a byte range: whether one of its elements that its mask admits
does. While an earlier command of the thread may still change its mask or its index register, every element counts as admitted, and an
indexed command as touching every block (R229, R246; log 20). -/
def State.vmemTouches (s : State) (c : Command) (pa n : Nat) : Bool :=
  let sure := !(s.core (coreOf c.slot)).vq.any fun y => y.slot == c.slot && decide (y.seq < c.seq) && !y.onlyStores
  let t := (if c.started then s else s.putStrips c.slot c.extra).thread c.slot
  match c.vmem t with
  | none => false
  | some x => (c.indexed && !sure) || (List.range (t.count x.bits)).any fun j => (!sure || t.admits x.mask x.bits j) &&
      (x.place j).any fun a => (s.peek c.slot a.1 a.2).any fun p =>
        decide (pa / 64 ≤ (p + x.bits / 8 - 1) / 64) && decide (p / 64 ≤ (pa + n - 1) / 64)

/-- Waits while a vector command of the thread may still touch a block of the range (R246). -/
def waitVmem (pa n : Nat) : Act Unit :=
  waitUntil .memoryReply fun s => !(s.myCore.vq.any fun c => c.slot == s.cur && s.vmemTouches c pa n)

/-- Whether a load of the thread in focus takes a poisoned byte from memory: one that its store buffer does not hold (R147, R202). -/
def State.loadPoisoned (s : State) (pa n : Nat) : Bool :=
  (List.range n).any fun i => (s.th.forwardByte (pa + i)).isNone && s.poisoned (pa + i) 1

/-- ReadN for a load of the thread in focus: the checks, the line or the home's answer, then the bytes (R45, R134, R147, R202). A load whose block a vector
command still has to touch waits (R246). A .nt load marks its .g fill (R204). -/
def readMem (a : Word) (am : BitVec 2) (n : Nat) (nt : Bool) : Act (List Byte) := do
  let l ← locate a am n .load
  waitVmem l.pa n
  reach l.pa n l.cacheable false (nt && am == 0#2)
  let s ← get
  if s.loadPoisoned l.pa n then fault 1 13 a
  else return s.loadBytes l.pa n

/-- WriteN for a store of the thread in focus: the checks, then an entry of the store buffer (R45, R203). -/
def writeMem (a : Word) (am : BitVec 2) (bs : List Byte) (k : StoreKind) : Act Unit := do
  let l ← locate a am bs.length .store
  waitVmem l.pa bs.length
  pushStore a l bs k

/-- Waits until every entry of the thread's store buffer has performed. -/
def waitStores (w : Wait) : Act Unit := waitUntil w fun s => s.th.sb.isEmpty

end Sys2Proof.Machine
end

