-- ==== Sys2Proof/Machine/Operands.lean ====
section
/-! DEFINITION. The operand forms of the scalar instructions: immediates, field descriptors, offsets and targets, and
the packed images of the condition and branch-target registers (R28, R35, R36, R190, R192, R196, R200, R308). -/

namespace Sys2Proof.Machine

/-- An immediate sign-extended to 64 bits (R192, R196). -/
def imm (i : BitVec w) : Word := i.signExtend 64

/-- The effective address of an M-format access of n bytes (R200). -/
def effAddr (base : Word) (off9 : BitVec 9) (n : Nat) : Word := base + off9.signExtend 64 * BitVec.ofNat 64 n

/-- The target of PREP and PREPC: A + 2 × SExt(disp21) (R308). -/
def prepTarget (pc : Word) (disp : BitVec 21) : Word := pc + 2#64 * disp.signExtend 64
/-- The target of PREPR and PREPRC: g[a] + 2 × SExt(imm12) (R308). -/
def preprTarget (base : Word) (i : BitVec 12) : Word := base + 2#64 * i.signExtend 64

/-- WIMM: the immediate in the halfword that pos names (R28). -/
def wimmValue (i : BitVec 16) (p : BitVec 2) : Word := i.zeroExtend 64 <<< (16 * p.toNat)
/-- WIMMK: one halfword replaced (R28). -/
def wimmkValue (old : Word) (i : BitVec 16) (p : BitVec 2) : Word :=
  (old &&& ~~~(0xFFFF#64 <<< (16 * p.toNat))) ||| wimmValue i p

/-- A mask of n one bits. -/
def onesMask (n : Nat) : Word := BitVec.ofNat 64 (2 ^ n - 1)

/-- The parts of a field descriptor, its length clamped to 64 − pos (R190). -/
def fieldDesc (y : Word) : Nat × Nat × Bool :=
  let pos := wfield y 5 0
  (pos, min (wfield y 12 6) (64 - pos), y.getLsbD 13)

/-- A field of a word, zero- or sign-extended; the empty field is 0 (R190). -/
def extractField (x : Word) (pos len : Nat) (sgn : Bool) : Word :=
  let v := (x >>> pos) &&& onesMask len
  if sgn ∧ len ≠ 0 ∧ v.getLsbD (len - 1) then v ||| ~~~onesMask len else v

/-- BFI: the field of the old word replaced by the low bits of x (R190). -/
def insertField (old x : Word) (pos len : Nat) : Word :=
  let m := onesMask len <<< pos
  (old &&& ~~~m) ||| ((x <<< pos) &&& m)

/-- SEXT: bits [n:0] sign-extended (R190). -/
def sextValue (x : Word) (n : Nat) : Word := extractField x 0 (n + 1) true

/-- The image of a branch-target register that BTRD presents (R35). -/
def btImage (b : BtReg) : Word :=
  (if b.v then 0x8000000000000000#64 else 0#64) ||| (if b.s then 0x4000000000000000#64 else 0#64) ||| b.target.zeroExtend 64

/-- The condition image that QPACK writes (R36). -/
def qImage (q : BitVec 8) : Word := (q ||| 1#8).zeroExtend 64
/-- The condition registers that QUNPACK loads (R36). -/
def qUnpack (x : Word) : BitVec 8 := x.truncate 8 ||| 1#8

/-- The low register of a pair (LDQ, STQ, RCF, TTS, TGVT); the constructor carries d[4:1] (R199, R221, R327). -/
def pairLow (d : BitVec 4) : BitVec 5 := d ++ 0#1
/-- The high register of a pair. -/
def pairHigh (d : BitVec 4) : BitVec 5 := d ++ 1#1

end Sys2Proof.Machine
end

