-- ==== Sys2Proof/Machine/Msg.lean ====
section
/-! DEFINITION. Messages, the wake table and the ready queue: the MSG instructions but KBIN and KDRAIN, and the events of
a message's way (R346 to R352). -/

namespace Sys2Proof.Machine

/-- Sends a request and takes the slot out of rotation until its answer (R19, R453). -/
def sendRequest (r : Request) (srcs : List (BitVec 5)) (ga : Word) (qd : BitVec 3) : Act Unit := do
  modTh fun t => { t with outstanding := some { req := r, srcs := srcs, ga := ga, qd := qd } }
  waitFor .memoryReply

/-- Runs an action as a slot's thread, and puts the slot that was in focus back in focus. -/
def State.asSlot (s : State) (h : Nat) (a : Act Unit) : State := (after a (s.focus h)).focus s.cur

/-- The end of an instruction whose answer sets or clears a condition register; with q0 named a refusal raises the given
fault (R328, R347, R366). -/
def answerCond (o : Outstanding) (ok : Bool) (src cause : Nat) : Act Unit := do
  if !ok && o.qd == 0#3 then
    modTh fun t => { t with outstanding := none, wait := none }
    fault src cause o.ga
  else
    modify fun s => s.setQ o.qd ok
    finish 4 o.srcs []

/-- The message that MSEND and MSENDT make (R347). -/
def State.makeMessage (s : State) (addr payload : Word) (timed : Bool) : Message :=
  { payload := payload, tsFlag := timed, ch := BitVec.ofNat 2 (wfield addr 23 22), tag := BitVec.ofNat 6 (wfield addr 21 16)
    sender := BitVec.ofNat 15 s.cur, ts := if timed then s.th.vtime else 0#64 }

/-- MSEND and MSENDT: the checks, the escalation, the release, and the message under way (R297, R340, R347). -/
def sendMessage (d : BitVec 3) (a b : BitVec 5) (timed : Bool) : Act Unit := do
  useRegs [a, b] []
  let s ← get
  let x := s.rd a
  require (decide (x.toNat < 2 ^ 24) && x.getLsbD 15 == false && decide (wfield x 12 6 < 72)) 5 5 x
  escalate
  waitUntil .memoryReply fun s => s.th.sb.isEmpty
  let s ← get
  sendRequest (.message (wfield x 14 0) (s.makeMessage x (s.rd b) timed) none) [a, b] x d

/-- MSEND (R347). -/
def execMsend (q : BitVec 3) (a b : BitVec 5) (s : State) := done (sendMessage q a b false) s
/-- MSENDT (R347). -/
def execMsendt (q : BitVec 3) (a b : BitVec 5) (s : State) := done (sendMessage q a b true) s

/-- MESSAGE_ARRIVAL: the sender's message reaches its destination, which accepts it if its inbox has a free entry and
refuses it otherwise (R347, R376). -/
def execMessageArrival (slot : Nat) (s : State) : Host.Outcome State Fault Refusal :=
  .next (match (s.thread slot).outstanding with
    | some o => (match o.req with
      | .message dst m none =>
        let h := s.forwarded dst
        let ok := s.accepts h
        let s := if ok then s.enterMessage h m else s
        s.modThread slot fun t => { t with outstanding := some { o with req := .message dst m (some ok) } }
      | _ => s)
    | none => s)

/-- MESSAGE_ANSWER: the answer reaches the sender (R347). -/
def execMessageAnswer (slot : Nat) (s : State) : Host.Outcome State Fault Refusal :=
  .next (match (s.thread slot).outstanding with
    | some o => (match o.req with
      | .message _ _ (some ok) => if (s.thread slot).park.isSome then s else s.asSlot slot (answerCond o ok 5 30)
      | _ => s)
    | none => s)

/-- The message MRECV takes: the lowest timestamp, among equals the earliest arrival (R348). -/
def firstMessage : List Message → Option Message
  | [] => none
  | m :: ms => match firstMessage ms with
    | none => some m
    | some m' => if m.ts.toNat ≤ m'.ts.toNat then some m else some m'

/-- The meta word of a message (R348). -/
def Message.meta_ (m : Message) : Word :=
  BitVec.ofNat 64 ((if m.tsFlag then 2 ^ 24 else 0) + m.ch.toNat * 2 ^ 22 + m.tag.toNat * 2 ^ 16 + m.sender.toNat)

/-- MRECV (R348). -/
def execMrecv (d a b : BitVec 5) (c : BitVec 3) (s : State) : Host.Outcome State Fault Refusal :=
  done (do
    escalate
    let s ← get
    match firstMessage s.th.inbox with
    | none =>
      if c = 0#3 then fault 5 29 (s.rd a)
      else
        set (s.setQ c false)
        finish 4 [] []
    | some m =>
      useRegs [] [d, a, b]
      modTh fun t => { t with inbox := t.inbox.erase m }
      modify fun s => s.setQ c true
      finish 4 [] [(d, m.payload), (a, m.meta_), (b, m.ts)]) s

/-- MWAIT: completes at once if the inbox holds a message, and otherwise waits for one (R349). -/
def execMwait (s : State) : Host.Outcome State Fault Refusal :=
  done (do
    escalate
    waitUntil .mwait fun s => !s.th.inbox.isEmpty
    finish 4 [] []) s

/-- MARM (R350). -/
def execMarm (a b : BitVec 5) (s : State) : Host.Outcome State Fault Refusal :=
  done (do
    requireS
    useRegs [a, b] []
    let s ← get
    let x := s.rd a
    let y := s.rd b
    require (decide (x.toNat < 64) && wfield y 62 34 == 0) 5 5 x
    escalate
    modify fun s => s.modCore fun c =>
      { c with wake := if y.getLsbD 63 then assocSet x.toNat (y.truncate 32, wfield y 33 32, false) c.wake else assocErase x.toNat c.wake }
    finish 4 [a, b] []) s

/-- RQPUT (R352). -/
def execRqput (a b : BitVec 5) (c : BitVec 3) (s : State) : Host.Outcome State Fault Refusal :=
  done (do
    requireS
    useRegs [a, b] []
    let s ← get
    let x := s.rd a
    let y := s.rd b
    require (decide (x.toNat < 2 ^ 32) && decide (y.toNat < 4)) 5 5 x
    escalate
    let s ← get
    let lvl := get4 s.myCore.ready (y.truncate 2)
    if lvl.length < 16 then
      set ((s.modCore fun k => { k with ready := set4 k.ready (y.truncate 2) (lvl ++ [x.truncate 32]) }).setQ c true)
      finish 4 [a, b] []
    else if c = 0#3 then fault 5 30 x
    else
      set (s.setQ c false)
      finish 4 [a, b] []) s

/-- A freed place of a level goes to the lowest pending tag of that level (R351). -/
def Core.fillLevel (c : Core) (p : Nat) : Core :=
  match c.wake.find? fun w => w.2.2.2 && w.2.2.1 == p with
  | some (tag, h, _, _) =>
    let i := BitVec.ofNat 2 p
    { c with ready := set4 c.ready i (get4 c.ready i ++ [h]), wake := assocErase tag c.wake }
  | none => c

/-- RQTAKE (R351, R352). -/
def execRqtake (d : BitVec 5) (c : BitVec 3) (s : State) : Host.Outcome State Fault Refusal :=
  done (do
    requireS
    escalate
    let s ← get
    match [3, 2, 1, 0].find? fun p => !(get4 s.myCore.ready (BitVec.ofNat 2 p)).isEmpty with
    | none =>
      if c = 0#3 then fault 5 29 0#64
      else
        set (s.setQ c false)
        finish 4 [] []
    | some p =>
      useRegs [] [d]
      let i := BitVec.ofNat 2 p
      let h := (get4 s.myCore.ready i).headD 0#32
      modify fun s => (s.modCore fun k => ({ k with ready := set4 k.ready i (get4 k.ready i).tail } : Core).fillLevel p).setQ c true
      finish 4 [] [(d, h.zeroExtend 64 ||| BitVec.ofNat 64 (p * 2 ^ 32))]) s

end Sys2Proof.Machine
end

