-- ==== Sys2Proof/Machine/Fop.lean ====
section
/-! DEFINITION. Scalar floating point, conversions, rational mode and the rational instructions (R207 to R222). -/

namespace Sys2Proof.Machine

/-- RSTAT.RAT (R207). -/
def Thread.rat (t : Thread) : Bool := t.rstat.getLsbD 8
/-- FRM.RM (R207). -/
def Thread.rm (t : Thread) : Nat := wfield t.frm 2 0
/-- FRM.OVS (R207). -/
def Thread.ovs (t : Thread) : Bool := t.frm.getLsbD 3
/-- The rounding code of a field: 7 takes FRM.RM (R54). -/
def Thread.rounding (t : Thread) (r : BitVec 3) : Nat := if r = 7#3 then t.rm else r.toNat

/-- Reports flags to FSTAT and RSTAT (R208). -/
def reportFlags (fs rs : Word) : Act Unit := modTh fun t => { t with fstat := t.fstat ||| fs, rstat := t.rstat ||| rs }

/-- A binary operation of one result with FSTAT flags (R208, R210). -/
def binaryForm (d : BitVec 5) (srcs : List (BitVec 5)) (f : State → Nat × Word) : Act Unit := do
  useRegs srcs [d]
  let s ← get
  let r := f s
  reportFlags r.2 0
  finish 4 srcs [(d, BitVec.ofNat 64 r.1)]

/-- A rational operation: its operands are read, and the slot waits out its latency; the results and the RSTAT flags are
written when it completes (R219, R220). -/
def rationalForm (dsts srcs : List (BitVec 5)) (f : State → List (BitVec 5 × Word) × Word × Word) : Act Unit := do
  useRegs srcs dsts
  let s ← get
  let r := f s
  modTh fun t => { t with outstanding := some { req := .rational r.1 r.2.1 r.2.2, srcs := srcs, ga := 0, qd := 0 } }
  waitFor .rational

/-- RATIONAL_OPERATION_COMPLETE: the operation of a slot finishes and writes its results and flags (R219, R220). -/
def execRationalOperationComplete (slot : Nat) (s : State) : Host.Outcome State Fault Refusal :=
  .next (match (s.thread slot).outstanding with
    | some o => (match o.req with
      | .rational ws fs rs => s.asSlot slot (do
          reportFlags fs rs
          finish 4 o.srcs ws)
      | _ => s)
    | none => s)

/-- A D form: binary, or rational with RSTAT.RAT = 1 (R211, R218). -/
def dForm (d : BitVec 5) (srcs : List (BitVec 5)) (bin : State → Nat × Word) (rat : State → Word × Word) (s : State) :
    Host.Outcome State Fault Refusal :=
  done (if s.th.rat then rationalForm [d] srcs fun s => ([(d, (rat s).1)], 0, (rat s).2) else binaryForm d srcs bin) s
/-- An S form (R210). -/
def sForm (d : BitVec 5) (srcs : List (BitVec 5)) (bin : State → Nat × Word) (s : State) : Host.Outcome State Fault Refusal :=
  done (binaryForm d srcs bin) s

/-- An operand as an F64 value. -/
def State.rdD (s : State) (r : BitVec 5) : Num := f64.read (s.rd r).toNat
/-- An operand as an F32 value: bits [31:0] (R210). -/
def State.rdS (s : State) (r : BitVec 5) : Num := f32.read ((s.rd r).toNat % 2 ^ 32)
/-- An operand as an FS64 value (R218). -/
def State.rdQ (s : State) (r : BitVec 5) : Num := fsRead (s.rd r)

/-- A two-operand result of BinaryArith (R211). -/
def arithF (f : FFmt) (rm : Nat) (ovs : Bool) (op : Bool → Num → Num → Option Num) (x y : Num) : Nat × Word :=
  finishF f rm ovs (x.isNan || y.isNan) (op (rm == 2) x y)
/-- A two-operand result of RationalArith (R218). -/
def arithQ (rm : Nat) (ovs : Bool) (op : Bool → Num → Num → Option Num) (x y : Num) : Word × Word :=
  finishQ rm ovs (x.isNan || y.isNan) (op false x y)
/-- Subtraction as addition of the negated value (R211). -/
def Num.sub (rdn : Bool) (x y : Num) : Option Num := x.add rdn y.negate
/-- Multiplication, whose sign needs no rounding code. -/
def Num.mulR (_rdn : Bool) (x y : Num) : Option Num := x.mul y
/-- The quotient of RationalArith: nonzero / 0 is ±∞ with the sign of x (R218). -/
def divQ (rm : Nat) (ovs : Bool) (x y : Num) : Word × Word :=
  if x.isNan || y.isNan then (fsNan, 0)
  else if y.isZero then (if x.isZero then (fsNan, flagIND) else (fsInf x.neg, 0))
  else finishQ rm ovs false (x.div y)
/-- FMA in a binary format (R211). -/
def fmaF (f : FFmt) (rm : Nat) (ovs : Bool) (x y z : Num) : Nat × Word :=
  finishF f rm ovs (x.isNan || y.isNan || z.isNan) (Num.fma (rm == 2) x y z)
/-- FMAD in rational mode (R218). -/
def fmaQ (rm : Nat) (ovs : Bool) (x y z : Num) : Word × Word :=
  finishQ rm ovs (x.isNan || y.isNan || z.isNan) (Num.fma false x y z)

/-- FABS or FNEG of an encoding: canonical NaN for a NaN, otherwise the sign bit cleared or inverted (R212). -/
def signF (f : FFmt) (neg : Bool) (x : Nat) : Nat :=
  if (f.read x).isNan then f.nanBits
  else
    let m := x % 2 ^ (f.width - 1)
    if neg && x / 2 ^ (f.width - 1) % 2 == 0 then 2 ^ (f.width - 1) + m else m
/-- FMIND and FMAXD in rational mode (R218). -/
def minMaxQ (max : Bool) (x y : Num) : Word := if x.isNan || y.isNan then fsNan else fsEncode (if x.lt y != max then x else y)
/-- FCEQ, FCLT and FCLE (R212). -/
def cmpWord (b : Bool) : Nat := if b then 1 else 0
/-- Less or equal (R212). -/
def Num.le (x y : Num) : Bool := x.lt y || x.eq y

/-- FCLASS of an encoding (R213). -/
def classF (f : FFmt) (x : Nat) : Nat :=
  let m := x % 2 ^ (f.width - 1)
  match f.read x with
  | .nan => if m / 2 ^ (f.fb - 1) % 2 = 0 then 2 ^ 8 else 2 ^ 9
  | .inf s => if s then 1 else 2 ^ 7
  | .fin s n _ =>
    let i := if n = 0 then 3 else if m < 2 ^ f.fb then 2 else 1
    2 ^ (if s then i else 7 - i)
/-- FCLASSD of an FS64 word (R213). -/
def classQ (w : Word) : Nat :=
  (if fsCanonical w then 0 else 2 ^ 8) +
  (match fsRead w with
    | .nan => 2 ^ 9
    | .inf s => if s then 1 else 2 ^ 7
    | .fin s n d => if n = 0 then 2 ^ 4 else if s then (if d = 1 then 2 ^ 2 else 2) else (if d = 1 then 2 ^ 5 else 2 ^ 6))

/-- FADDD (R211, R218). -/
def execFaddd (d a b : BitVec 5) (r : BitVec 3) (o : BitVec 1) (s : State) : Host.Outcome State Fault Refusal :=
  dForm d [a, b] (fun s => arithF f64 (s.th.rounding r) (o == 1#1) Num.add (s.rdD a) (s.rdD b))
    (fun s => arithQ (s.th.rounding r) (o == 1#1) Num.add (s.rdQ a) (s.rdQ b)) s

/-- FADDS (R211). -/
def execFadds (d a b : BitVec 5) (r : BitVec 3) (o : BitVec 1) (s : State) : Host.Outcome State Fault Refusal :=
  sForm d [a, b] (fun s => arithF f32 (s.th.rounding r) (o == 1#1) Num.add (s.rdS a) (s.rdS b)) s

/-- FSUBD (R211, R218). -/
def execFsubd (d a b : BitVec 5) (r : BitVec 3) (o : BitVec 1) (s : State) : Host.Outcome State Fault Refusal :=
  dForm d [a, b] (fun s => arithF f64 (s.th.rounding r) (o == 1#1) Num.sub (s.rdD a) (s.rdD b))
    (fun s => arithQ (s.th.rounding r) (o == 1#1) Num.sub (s.rdQ a) (s.rdQ b)) s

/-- FSUBS (R211). -/
def execFsubs (d a b : BitVec 5) (r : BitVec 3) (o : BitVec 1) (s : State) : Host.Outcome State Fault Refusal :=
  sForm d [a, b] (fun s => arithF f32 (s.th.rounding r) (o == 1#1) Num.sub (s.rdS a) (s.rdS b)) s

/-- FMULD (R211, R218). -/
def execFmuld (d a b : BitVec 5) (r : BitVec 3) (o : BitVec 1) (s : State) : Host.Outcome State Fault Refusal :=
  dForm d [a, b] (fun s => arithF f64 (s.th.rounding r) (o == 1#1) Num.mulR (s.rdD a) (s.rdD b))
    (fun s => arithQ (s.th.rounding r) (o == 1#1) Num.mulR (s.rdQ a) (s.rdQ b)) s

/-- FMULS (R211). -/
def execFmuls (d a b : BitVec 5) (r : BitVec 3) (o : BitVec 1) (s : State) : Host.Outcome State Fault Refusal :=
  sForm d [a, b] (fun s => arithF f32 (s.th.rounding r) (o == 1#1) Num.mulR (s.rdS a) (s.rdS b)) s

/-- FDIVD (R211, R218). -/
def execFdivd (d a b : BitVec 5) (r : BitVec 3) (o : BitVec 1) (s : State) : Host.Outcome State Fault Refusal :=
  dForm d [a, b] (fun s => divF f64 (s.th.rounding r) (o == 1#1) (s.rdD a) (s.rdD b))
    (fun s => divQ (s.th.rounding r) (o == 1#1) (s.rdQ a) (s.rdQ b)) s

/-- FDIVS (R211). -/
def execFdivs (d a b : BitVec 5) (r : BitVec 3) (o : BitVec 1) (s : State) : Host.Outcome State Fault Refusal :=
  sForm d [a, b] (fun s => divF f32 (s.th.rounding r) (o == 1#1) (s.rdS a) (s.rdS b)) s

/-- FSQRTD: illegal in rational mode (R32, R211, R218). -/
def execFsqrtd (d a : BitVec 5) (r : BitVec 3) (o : BitVec 1) (s : State) : Host.Outcome State Fault Refusal :=
  done (do
    require (!s.th.rat) 0 3 s.instrWord
    binaryForm d [a] fun s => finishF f64 (s.th.rounding r) (o == 1#1) (s.rdD a).isNan (s.rdD a).sqrt) s

/-- FSQRTS (R211). -/
def execFsqrts (d a : BitVec 5) (r : BitVec 3) (o : BitVec 1) (s : State) : Host.Outcome State Fault Refusal :=
  sForm d [a] (fun s => finishF f32 (s.th.rounding r) (o == 1#1) (s.rdS a).isNan (s.rdS a).sqrt) s

/-- FMAD: rm and ovs from FRM (R211, R218). -/
def execFmad (d a b c : BitVec 5) (s : State) : Host.Outcome State Fault Refusal :=
  dForm d [a, b, c] (fun s => fmaF f64 s.th.rm s.th.ovs (s.rdD a) (s.rdD b) (s.rdD c))
    (fun s => fmaQ s.th.rm s.th.ovs (s.rdQ a) (s.rdQ b) (s.rdQ c)) s

/-- FMAS (R211). -/
def execFmas (d a b c : BitVec 5) (s : State) : Host.Outcome State Fault Refusal :=
  sForm d [a, b, c] (fun s => fmaF f32 s.th.rm s.th.ovs (s.rdS a) (s.rdS b) (s.rdS c)) s

/-- FMIND (R212, R218). -/
def execFmind (d a b : BitVec 5) (s : State) : Host.Outcome State Fault Refusal :=
  dForm d [a, b] (fun s => (minMaxF f64 false (s.rd a).toNat (s.rd b).toNat, 0)) (fun s => (minMaxQ false (s.rdQ a) (s.rdQ b), 0)) s

/-- FMINS (R212). -/
def execFmins (d a b : BitVec 5) (s : State) : Host.Outcome State Fault Refusal :=
  sForm d [a, b] (fun s => (minMaxF f32 false ((s.rd a).toNat % 2 ^ 32) ((s.rd b).toNat % 2 ^ 32), 0)) s

/-- FMAXD (R212, R218). -/
def execFmaxd (d a b : BitVec 5) (s : State) : Host.Outcome State Fault Refusal :=
  dForm d [a, b] (fun s => (minMaxF f64 true (s.rd a).toNat (s.rd b).toNat, 0)) (fun s => (minMaxQ true (s.rdQ a) (s.rdQ b), 0)) s

/-- FMAXS (R212). -/
def execFmaxs (d a b : BitVec 5) (s : State) : Host.Outcome State Fault Refusal :=
  sForm d [a, b] (fun s => (minMaxF f32 true ((s.rd a).toNat % 2 ^ 32) ((s.rd b).toNat % 2 ^ 32), 0)) s

/-- FABSD (R212, R218). -/
def execFabsd (d a : BitVec 5) (s : State) : Host.Outcome State Fault Refusal :=
  dForm d [a] (fun s => (signF f64 false (s.rd a).toNat, 0)) (fun s => (fsEncode (s.rdQ a).abs, 0)) s

/-- FABSS (R212). -/
def execFabss (d a : BitVec 5) (s : State) : Host.Outcome State Fault Refusal :=
  sForm d [a] (fun s => (signF f32 false ((s.rd a).toNat % 2 ^ 32), 0)) s

/-- FNEGD (R212, R218). -/
def execFnegd (d a : BitVec 5) (s : State) : Host.Outcome State Fault Refusal :=
  dForm d [a] (fun s => (signF f64 true (s.rd a).toNat, 0)) (fun s => (fsEncode (s.rdQ a).negate, 0)) s

/-- FNEGS (R212). -/
def execFnegs (d a : BitVec 5) (s : State) : Host.Outcome State Fault Refusal :=
  sForm d [a] (fun s => (signF f32 true ((s.rd a).toNat % 2 ^ 32), 0)) s

/-- FCLASSD (R213). -/
def execFclassd (d a : BitVec 5) (s : State) : Host.Outcome State Fault Refusal :=
  dForm d [a] (fun s => (classF f64 (s.rd a).toNat, 0)) (fun s => (BitVec.ofNat 64 (classQ (s.rd a)), 0)) s

/-- FCLASSS (R213). -/
def execFclasss (d a : BitVec 5) (s : State) : Host.Outcome State Fault Refusal :=
  sForm d [a] (fun s => (classF f32 ((s.rd a).toNat % 2 ^ 32), 0)) s

/-- FCEQD (R212, R218). -/
def execFceqd (d a b : BitVec 5) (s : State) : Host.Outcome State Fault Refusal :=
  dForm d [a, b] (fun s => (cmpWord (Num.eq (s.rdD a) (s.rdD b)), 0))
    (fun s => (BitVec.ofNat 64 (cmpWord (Num.eq (s.rdQ a) (s.rdQ b))), 0)) s

/-- FCEQS (R212). -/
def execFceqs (d a b : BitVec 5) (s : State) : Host.Outcome State Fault Refusal :=
  sForm d [a, b] (fun s => (cmpWord (Num.eq (s.rdS a) (s.rdS b)), 0)) s

/-- FCLTD (R212, R218). -/
def execFcltd (d a b : BitVec 5) (s : State) : Host.Outcome State Fault Refusal :=
  dForm d [a, b] (fun s => (cmpWord (Num.lt (s.rdD a) (s.rdD b)), 0))
    (fun s => (BitVec.ofNat 64 (cmpWord (Num.lt (s.rdQ a) (s.rdQ b))), 0)) s

/-- FCLTS (R212). -/
def execFclts (d a b : BitVec 5) (s : State) : Host.Outcome State Fault Refusal :=
  sForm d [a, b] (fun s => (cmpWord (Num.lt (s.rdS a) (s.rdS b)), 0)) s

/-- FCLED (R212, R218). -/
def execFcled (d a b : BitVec 5) (s : State) : Host.Outcome State Fault Refusal :=
  dForm d [a, b] (fun s => (cmpWord (Num.le (s.rdD a) (s.rdD b)), 0))
    (fun s => (BitVec.ofNat 64 (cmpWord (Num.le (s.rdQ a) (s.rdQ b))), 0)) s

/-- FCLES (R212). -/
def execFcles (d a b : BitVec 5) (s : State) : Host.Outcome State Fault Refusal :=
  sForm d [a, b] (fun s => (cmpWord (Num.le (s.rdS a) (s.rdS b)), 0)) s

/-! Conversions (R214 to R216). -/

/-- Whether a code is one of the six binary formats or FS64. -/
def isFloatCode (c : Nat) : Bool := (ffmtOf c).isSome || c == 15
/-- Whether a code is an integer format. -/
def isIntCode (c : Nat) : Bool := (intFmtOf c).isSome

/-- The checks of the format codes: FORMAT for a reserved one, and after it OPERAND for one that the row does not list (R214; log 111). -/
def checkCodes (dst src : BitVec 5) (okDst okSrc : Nat → Bool) : Act Unit := do
  let s ← get
  require (!reservedFormat dst.toNat && !reservedFormat src.toNat) 0 6 s.instrWord
  require (okDst dst.toNat && okSrc src.toNat) 0 5 s.instrWord

/-- A value in a floating or FS64 format: its encoding, and the FSTAT and RSTAT flags (R215). -/
def toFloat (dst rm : Nat) (ovs : Bool) (v : Num) : Nat × Word × Word :=
  match ffmtOf dst with
  | some f => let r := roundF f rm ovs v; (r.1, r.2, 0)
  | none => let r := roundQ rm ovs v; (r.1.toNat, 0, r.2)

/-- An encoding of a floating or FS64 format made canonical (R215). -/
def canonicalise (c bits : Nat) : Nat :=
  match ffmtOf c with
  | some f => if (f.read (bits % 2 ^ f.width)).isNan then f.nanBits else bits % 2 ^ f.width
  | none => (fsEncode (fsRead (BitVec.ofNat 64 bits))).toNat

/-- FCVT's result (R215). -/
def fcvtValue (dst src rm : Nat) (ovs : Bool) (x : Nat) : Nat × Word × Word :=
  if dst = src then (canonicalise dst x, 0, 0) else toFloat dst rm ovs (elemValue src x)

/-- FCVTI's result: the integer, and the FSTAT and RSTAT flags (R216). -/
def fcvtiValue (dst src rm : Nat) (x : Nat) : Int × Word × Word :=
  match intFmtOf dst with
  | none => (0, 0, 0)
  | some (sg, w) =>
    let r := toInteger sg w (if src = 15 ∧ rm = 4 then 0 else rm) (elemValue src x)
    let fl := if r.2.1 then (if src = 15 then flagIND else flagNV) else if r.2.2 then flagNX else 0
    (r.1, if src = 15 then 0 else fl, if src = 15 then fl else 0)

/-- A conversion's end. -/
def convertForm (d a : BitVec 5) (f : State → Word × Word × Word) : Act Unit := do
  useRegs [a] [d]
  let s ← get
  let r := f s
  reportFlags r.2.1 r.2.2
  finish 4 [a] [(d, r.1)]

/-- FCVT: b the destination code, c the source code (R214, R215). -/
def execFcvt (d a b c : BitVec 5) (s : State) : Host.Outcome State Fault Refusal :=
  done (do
    checkCodes b c isFloatCode isFloatCode
    convertForm d a fun s =>
      let r := fcvtValue b.toNat c.toNat s.th.rm s.th.ovs (s.rd a).toNat
      (BitVec.ofNat 64 r.1, r.2)) s
/-- ICVTF (R214, R215). -/
def execIcvtf (d a b c : BitVec 5) (s : State) : Host.Outcome State Fault Refusal :=
  done (do
    checkCodes b c isFloatCode isIntCode
    convertForm d a fun s =>
      let r := toFloat b.toNat s.th.rm s.th.ovs (elemValue c.toNat (s.rd a).toNat)
      (BitVec.ofNat 64 r.1, r.2)) s
/-- FCVTI: the integer is sign- or zero-extended to 64 bits (R214, R216). -/
def execFcvti (d a b c : BitVec 5) (s : State) : Host.Outcome State Fault Refusal :=
  done (do
    checkCodes b c isIntCode isFloatCode
    convertForm d a fun s =>
      let r := fcvtiValue b.toNat c.toNat s.th.rm (s.rd a).toNat
      (BitVec.ofInt 64 r.1, r.2)) s

/-! Rational mode (R217, R221, R222). -/

/-- RMODE (R217). -/
def execRmode (d a : BitVec 5) (s : State) : Host.Outcome State Fault Refusal :=
  done (do
    useRegs [a] [d]
    let s ← get
    let new := (s.rd a).getLsbD 0
    let old := s.th.rat
    modTh fun t => { t with rstat := setField t.rstat 8 8 (if new then 1 else 0) }
    finish 4 [a] [(d, if old then 1#64 else 0#64)]) s

/-- A rational instruction: illegal-in-mode 0.3 outside rational mode (R221). -/
def rationalOnly (dsts srcs : List (BitVec 5)) (f : State → List (BitVec 5 × Word) × Word × Word) (s : State) :
    Host.Outcome State Fault Refusal :=
  done (do
    require s.th.rat 0 3 s.instrWord
    rationalForm dsts srcs f) s

/-- NumDen (R222): the signed numerator and the denominator. -/
def numDen : Num → Int × Nat
  | .nan => (0, 0)
  | .inf s => (if s then -1 else 1, 0)
  | .fin s n d => (signed s n, d)

/-- RMAKE's result (R222). -/
def rmakeValue (rm : Nat) (ovs : Bool) (n d : Int) : Word × Word :=
  if d = 0 then (if n = 0 then (fsNan, flagIND) else (fsInf (decide (n < 0)), 0))
  else roundQ rm ovs (.fin (decide (n < 0) != decide (d < 0)) n.natAbs d.natAbs)
/-- RMED's result (R222). -/
def rmedValue (rm : Nat) (ovs : Bool) (x y : Num) : Word × Word :=
  if x.isNan || y.isNan then (fsNan, 0)
  else
    let (n1, d1) := numDen x
    let (n2, d2) := numDen y
    let n := n1 + n2
    if d1 + d2 = 0 then (if n = 0 then (fsNan, flagIND) else (fsInf (decide (n < 0)), 0))
    else roundQ rm ovs (.ofFrac n (d1 + d2) false)
/-- RCF's results: the integer part and the remaining fraction (R222). -/
def rcfValue (x : Num) : Word × Word × Word :=
  match x with
  | .fin s n d => (BitVec.ofInt 64 (signed s (n / d)), fsEncode (.fin s (n % d) d), 0)
  | .inf _ => (0, fsNan, flagIND)
  | .nan => (0, fsNan, 0)

/-- RMAKE (R222). -/
def execRmake (d a b : BitVec 5) (r : BitVec 3) (o : BitVec 1) (s : State) : Host.Outcome State Fault Refusal :=
  rationalOnly [d] [a, b] (fun s =>
    let w := rmakeValue (s.th.rounding r) (o == 1#1) (s.rd a).toInt (s.rd b).toInt
    ([(d, w.1)], 0, w.2)) s
/-- RNUMER (R222). -/
def execRnumer (d a : BitVec 5) (s : State) : Host.Outcome State Fault Refusal :=
  rationalOnly [d] [a] (fun s => ([(d, BitVec.ofInt 64 (numDen (s.rdQ a)).1)], 0, 0)) s
/-- RDENOM (R222). -/
def execRdenom (d a : BitVec 5) (s : State) : Host.Outcome State Fault Refusal :=
  rationalOnly [d] [a] (fun s => ([(d, BitVec.ofNat 64 (numDen (s.rdQ a)).2)], 0, 0)) s
/-- RMED (R222). -/
def execRmed (d a b : BitVec 5) (r : BitVec 3) (o : BitVec 1) (s : State) : Host.Outcome State Fault Refusal :=
  rationalOnly [d] [a, b] (fun s =>
    let w := rmedValue (s.th.rounding r) (o == 1#1) (s.rdQ a) (s.rdQ b)
    ([(d, w.1)], 0, w.2)) s
/-- RCF: g[d] the integer part, g[d+1] the rest; the constructor carries d[4:1] (R221, R222). -/
def execRcf (d : BitVec 4) (a : BitVec 5) (s : State) : Host.Outcome State Fault Refusal :=
  rationalOnly [pairLow d, pairHigh d] [a] (fun s =>
    let w := rcfValue (s.rdQ a)
    ([(pairLow d, w.1), (pairHigh d, w.2.1)], 0, w.2.2)) s
/-- RFROMD: as FCVT.fs64.f64; its flags go to RSTAT (R222). -/
def execRfromd (d a : BitVec 5) (r : BitVec 3) (o : BitVec 1) (s : State) : Host.Outcome State Fault Refusal :=
  rationalOnly [d] [a] (fun s =>
    let w := roundQ (s.th.rounding r) (o == 1#1) (s.rdD a)
    ([(d, w.1)], 0, w.2)) s
/-- RTOD: as FCVT.f64.fs64; its flags go to FSTAT (R208, R222). -/
def execRtod (d a : BitVec 5) (r : BitVec 3) (o : BitVec 1) (s : State) : Host.Outcome State Fault Refusal :=
  rationalOnly [d] [a] (fun s =>
    let w := roundF f64 (s.th.rounding r) (o == 1#1) (s.rdQ a)
    ([(d, BitVec.ofNat 64 w.1)], w.2, 0)) s

end Sys2Proof.Machine
end

