-- ==== Sys2Proof/Machine/Atomic.lean ====
section
/-! DEFINITION. The atomics (R300 to R302). -/

namespace Sys2Proof.Machine

/-- The binary format of a floating atomic of n bytes (R302). -/
def atomicFmt (n : Nat) : FFmt := if n = 4 then f32 else f64

/-- What an atomic of n bytes makes of the old number, g[b] and g[d]: the new number, if one is written, and the FSTAT flags. A
compare-and-swap writes only where the old number equals g[d]; a floating add rounds as the thread's FRM says (R302). -/
def AtomicKind.op (k : AtomicKind) (n : Nat) (t : Thread) (old v e : Nat) : Option Nat × Word :=
  match k with
  | .add => (some ((old + v) % 2 ^ (8 * n)), 0)
  | .and => (some (Nat.land old v), 0)
  | .or => (some (Nat.lor old v), 0)
  | .xor => (some (Nat.xor old v), 0)
  | .min => (some (if toSigned (8 * n) old ≤ toSigned (8 * n) v then old else v), 0)
  | .max => (some (if toSigned (8 * n) old ≤ toSigned (8 * n) v then v else old), 0)
  | .minn => (some (if old ≤ v then old else v), 0)
  | .maxn => (some (if old ≤ v then v else old), 0)
  | .swap => (some v, 0)
  | .cas => (if old = e then some v else none, 0)
  | .addF =>
    let r := arithF (atomicFmt n) t.rm t.ovs Num.add ((atomicFmt n).read old) ((atomicFmt n).read v)
    (some r.1, r.2)

/-- The operands of an atomic of n bytes, captured: the low n bytes of a register. -/
def State.atomicOperand (s : State) (r : BitVec 5) (n : Nat) : Word := BitVec.ofNat 64 ((s.rd r).toNat % 2 ^ (8 * n))

/-- Whether an atomic performs at its own core: through its L1, or in its own local memory; and a speculative task's, whose
halt saves nothing (R301, R394). -/
def State.nearAtomic (s : State) (l : Loc) : Bool := l.cacheable || (inLm l.pa && lmCore l.pa == coreOf s.cur) || s.speculative

/-- An atomic leaves its core for the home of its C = 0 page, or for another core's local memory; the slot waits for the answer
(R19, R301, R395; log 93). -/
def sendAtomic (k : AtomicKind) (n : Nat) (d a b : BitVec 5) (srcs : List (BitVec 5)) (l : Loc) : Act Unit := do
  let s ← get
  if s.stopped l.pa then waitFor .memoryReply
  match l.leaf with
  | some e => ensureDirty (s.rd a).toNat e .store
  | none => pure ()
  modify fun s => { s.storeStales s.cur l.pa n with
    homeReqs := s.homeReqs ++ [{ who := .slot s.cur, line := lineOf l.pa, write := true, mask := blockMask (lineOf l.pa) l.pa n, by_ := s.requester }] }
  sendRequest (.atomic k d n (s.atomicOperand b n) (s.atomicOperand d n) l.pa none) srcs (s.rd a) 0#3

/-- The read-modify-write of n bytes at g[a] (R301, R302): the checks of R201, the waits for overlapping, earlier-epoch
and, for a release, all stores, then one step that reads and writes, here or at the home. -/
def atomic (k : AtomicKind) (n : Nat) (d a b : BitVec 5) (srcs : List (BitVec 5)) (p : BitVec 2) : Act Unit := do
  useRegs srcs [d]
  let s ← get
  let x := s.rd a
  let l ← locate x 0#2 n .rmw
  waitVmem l.pa n
  waitUntil .memoryReply fun s => !s.th.sbOverlaps l.pa n && s.th.sb.all fun e => e.epoch == s.th.epoch
  if p.getLsbD 1 then waitStores .memoryReply
  let s ← get
  if !s.nearAtomic l then sendAtomic k n d a b srcs l
  else
    reach l.pa n l.cacheable true false
    let s ← get
    if s.poisoned l.pa n then fault 1 13 x
    else
      let old := leNat (s.bytes l.pa n)
      let r := k.op n s.th old (s.atomicOperand b n).toNat (s.atomicOperand d n).toNat
      match r.1 with
      | some v =>
        commitWrite x l n
        modify fun s => s.perform l.pa (leBytes n v)
      | none => pure ()
      modify fun s => s.storeStales s.cur l.pa n
      reportFlags r.2 0
      finish 4 srcs [(d, BitVec.ofNat 64 old)]

/-- An atomic whose sources are g[a] and g[b]. -/
def atomicOp (k : AtomicKind) (n : Nat) (d a b : BitVec 5) (p : BitVec 2) (s : State) : Host.Outcome State Fault Refusal :=
  done (atomic k n d a b [a, b] p) s
/-- A compare-and-swap, which reads g[d] as well. -/
def atomicCas (n : Nat) (d a b : BitVec 5) (p : BitVec 2) (s : State) : Host.Outcome State Fault Refusal :=
  done (atomic .cas n d a b [a, b, d] p) s

/-! Atomics at their homes (R139, R152, R301, R395). -/

/-- The answer of an atomic that has performed: its old value goes to g[d], and its flags to FSTAT (R302, R395). -/
def atomicAnswer (o : Outstanding) (d : BitVec 5) (old : Nat) (flags : Word) : Act Unit := do
  reportFlags flags 0
  finish 4 o.srcs [(d, BitVec.ofNat 64 old)]

/-- The atomic of a slot performs at its home, once the tasks that it meets have been aborted and its bytes have landed; its answer
goes to the slot, or is held for a saved context (R139, R147, R152, R301, R302, R337, R395). -/
def State.atHome (s : State) (h : Nat) : State :=
  match (s.thread h).outstanding with
  | some o => (match o.req with
    | .atomic k d n v e pa none =>
      let old := leNat (s.bytes pa n)
      let r := k.op n (s.thread h) old v.toNat e.toNat
      if s.stopped pa || s.unlanded pa n 0 then s
      else (match s.forceAborts (s.requesterOf h) (some (coreOf h)) pa n r.1.isSome with
        | (s, false) => s
        | (s, true) =>
          if s.poisoned pa n then s.asSlot h (fault 1 13 o.ga)
          else
            let s := match r.1 with
              | some x => s.perform pa (leBytes n x)
              | none => s
            if (s.thread h).park.isSome then
              s.modThread h fun t => { t with outstanding := some { o with req := .atomic k d n v e pa (some (old, r.2)) } }
            else s.asSlot h (atomicAnswer o d old r.2))
    | _ => s)
  | none => s

/-- An access of this kind, whoever asked for it, whose turn has come at its home. -/
def Txn.readyHome (t : Txn) (write : Bool) : Bool := t.ready && match t.kind with
  | .home _ w => w == write
  | _ => false
/-- UNCACHED_HOME_ACCESS: an access reaches its home, where it waits in the line's order; its home recalls an exclusive copy for a
read, or invalidates every copy for a write, and then it may perform, with the line kept for it (R90, R139, R142). An atomic performs
there, and lets the line go; so does an access whose asker has gone. -/
def execUncachedHomeAccess (line : Nat) (write : Bool) (s : State) : Host.Outcome State Fault Refusal :=
  .next (match s.homeReqs.findIdx? fun r => r.line == line && r.write == write with
    | some i => match s.homeReqs[i]? with
      | some r =>
        let s' : State := { s with homeReqs := s.homeReqs.eraseIdx i }
        if coherent (128 * line) then s'.addTxn line (.home r.who write) r.mask r.by_
        else match r.who with
          | .slot h =>
            let t := s'.atHome h
            if (t.thread h).atomicSent then { t with homeReqs := s.homeReqs } else t
          | _ => s'
      | none => s
    | none => match s.findTxn line (·.readyHome write) with
      | some t => match t.kind with
        | .home who _ =>
          if !s.asks who then (s.endTxn line (·.readyHome write)).settle line
          else match who with
            | .slot h =>
              if (s.thread h).atomicSent then
                let s := s.atHome h
                if (s.thread h).atomicSent then s else (s.endTxn line (·.readyHome write)).settle line
              else s
            | _ => s
        | _ => s
      | none => s)

/-- AADD (R302). -/
def execAadd (d a b : BitVec 5) (p : BitVec 2) (_s : BitVec 3) := atomicOp .add 8 d a b p
/-- AADD_W (R302). -/
def execAaddW (d a b : BitVec 5) (p : BitVec 2) (_s : BitVec 3) := atomicOp .add 4 d a b p
/-- AAND (R302). -/
def execAand (d a b : BitVec 5) (p : BitVec 2) (_s : BitVec 3) := atomicOp .and 8 d a b p
/-- AAND_W (R302). -/
def execAandW (d a b : BitVec 5) (p : BitVec 2) (_s : BitVec 3) := atomicOp .and 4 d a b p
/-- AOR (R302). -/
def execAor (d a b : BitVec 5) (p : BitVec 2) (_s : BitVec 3) := atomicOp .or 8 d a b p
/-- AOR_W (R302). -/
def execAorW (d a b : BitVec 5) (p : BitVec 2) (_s : BitVec 3) := atomicOp .or 4 d a b p
/-- AXOR (R302). -/
def execAxor (d a b : BitVec 5) (p : BitVec 2) (_s : BitVec 3) := atomicOp .xor 8 d a b p
/-- AXOR_W (R302). -/
def execAxorW (d a b : BitVec 5) (p : BitVec 2) (_s : BitVec 3) := atomicOp .xor 4 d a b p
/-- AMIN (R302). -/
def execAmin (d a b : BitVec 5) (p : BitVec 2) (_s : BitVec 3) := atomicOp .min 8 d a b p
/-- AMIN_W (R302). -/
def execAminW (d a b : BitVec 5) (p : BitVec 2) (_s : BitVec 3) := atomicOp .min 4 d a b p
/-- AMAX (R302). -/
def execAmax (d a b : BitVec 5) (p : BitVec 2) (_s : BitVec 3) := atomicOp .max 8 d a b p
/-- AMAX_W (R302). -/
def execAmaxW (d a b : BitVec 5) (p : BitVec 2) (_s : BitVec 3) := atomicOp .max 4 d a b p
/-- AMINN (R302). -/
def execAminn (d a b : BitVec 5) (p : BitVec 2) (_s : BitVec 3) := atomicOp .minn 8 d a b p
/-- AMINN_W (R302). -/
def execAminnW (d a b : BitVec 5) (p : BitVec 2) (_s : BitVec 3) := atomicOp .minn 4 d a b p
/-- AMAXN (R302). -/
def execAmaxn (d a b : BitVec 5) (p : BitVec 2) (_s : BitVec 3) := atomicOp .maxn 8 d a b p
/-- AMAXN_W (R302). -/
def execAmaxnW (d a b : BitVec 5) (p : BitVec 2) (_s : BitVec 3) := atomicOp .maxn 4 d a b p
/-- ASWAP (R302). -/
def execAswap (d a b : BitVec 5) (p : BitVec 2) (_s : BitVec 3) := atomicOp .swap 8 d a b p
/-- ASWAP_W (R302). -/
def execAswapW (d a b : BitVec 5) (p : BitVec 2) (_s : BitVec 3) := atomicOp .swap 4 d a b p
/-- ACAS (R302). -/
def execAcas (d a b : BitVec 5) (p : BitVec 2) (_s : BitVec 3) := atomicCas 8 d a b p
/-- ACAS_W (R302). -/
def execAcasW (d a b : BitVec 5) (p : BitVec 2) (_s : BitVec 3) := atomicCas 4 d a b p
/-- AFADDS (R302). -/
def execAfadds (d a b : BitVec 5) (p : BitVec 2) (_s : BitVec 3) := atomicOp .addF 4 d a b p
/-- AFADDD (R302). -/
def execAfaddd (d a b : BitVec 5) (p : BitVec 2) (_s : BitVec 3) := atomicOp .addF 8 d a b p

end Sys2Proof.Machine
end

