-- ==== Sys2Proof/Machine/Cmp.lean ====
section
/-! DEFINITION. The CMP instructions (R195 to R198). -/

namespace Sys2Proof.Machine

/-- The end of a compare: the truth value combined into q[qd] (R197). -/
def setCond (qd : BitVec 3) (c : BitVec 2) (t : State → Bool) (srcs : List (BitVec 5)) : Act Unit := do
  useRegs srcs []
  let s ← get
  set (s.setQ qd (combine c (s.q qd) (t s)))
  finish 4 srcs []

/-- A compare of two registers. -/
def cmpReg (qd : BitVec 3) (c : BitVec 2) (a b : BitVec 5) (t : Word → Word → Bool) (s : State) : Host.Outcome State Fault Refusal :=
  done (setCond qd c (fun s => t (s.rd a) (s.rd b)) [a, b]) s
/-- A compare with an immediate. -/
def cmpImm (qd : BitVec 3) (c : BitVec 2) (a : BitVec 5) (i : BitVec 10) (t : Word → Word → Bool) (s : State) : Host.Outcome State Fault Refusal :=
  done (setCond qd c (fun s => t (s.rd a) (imm i)) [a]) s

/-- Signed less-than (R196). -/
def sltTruth (x y : Word) : Bool := decide (x.toInt < y.toInt)
/-- Unsigned less-than (R196). -/
def ultTruth (x y : Word) : Bool := decide (x.toNat < y.toNat)

/-- CEQ (R196). -/
def execCeq (q : BitVec 3) (c : BitVec 2) (a b : BitVec 5) := cmpReg q c a b fun x y => x == y
/-- CNE (R196). -/
def execCne (q : BitVec 3) (c : BitVec 2) (a b : BitVec 5) := cmpReg q c a b fun x y => x != y
/-- CLT (R196). -/
def execClt (q : BitVec 3) (c : BitVec 2) (a b : BitVec 5) := cmpReg q c a b sltTruth
/-- CGE (R196). -/
def execCge (q : BitVec 3) (c : BitVec 2) (a b : BitVec 5) := cmpReg q c a b fun x y => !sltTruth x y
/-- CLTN (R196). -/
def execCltn (q : BitVec 3) (c : BitVec 2) (a b : BitVec 5) := cmpReg q c a b ultTruth
/-- CGEN (R196). -/
def execCgen (q : BitVec 3) (c : BitVec 2) (a b : BitVec 5) := cmpReg q c a b fun x y => !ultTruth x y
/-- CTST (R196). -/
def execCtst (q : BitVec 3) (c : BitVec 2) (a b : BitVec 5) := cmpReg q c a b fun x y => x &&& y != 0#64
/-- CBIT (R196). -/
def execCbit (q : BitVec 3) (c : BitVec 2) (a b : BitVec 5) := cmpReg q c a b fun x y => x.getLsbD (wfield y 5 0)
/-- CEQI (R196). -/
def execCeqi (q : BitVec 3) (c : BitVec 2) (a : BitVec 5) (i : BitVec 10) := cmpImm q c a i fun x y => x == y
/-- CNEI (R196). -/
def execCnei (q : BitVec 3) (c : BitVec 2) (a : BitVec 5) (i : BitVec 10) := cmpImm q c a i fun x y => x != y
/-- CLTI (R196). -/
def execClti (q : BitVec 3) (c : BitVec 2) (a : BitVec 5) (i : BitVec 10) := cmpImm q c a i sltTruth
/-- CGEI (R196). -/
def execCgei (q : BitVec 3) (c : BitVec 2) (a : BitVec 5) (i : BitVec 10) := cmpImm q c a i fun x y => !sltTruth x y
/-- CLTNI (R196). -/
def execCltni (q : BitVec 3) (c : BitVec 2) (a : BitVec 5) (i : BitVec 10) := cmpImm q c a i ultTruth
/-- CGENI (R196). -/
def execCgeni (q : BitVec 3) (c : BitVec 2) (a : BitVec 5) (i : BitVec 10) := cmpImm q c a i fun x y => !ultTruth x y
/-- QAND (R196). -/
def execQand (q : BitVec 3) (c : BitVec 2) (a b : BitVec 3) (s : State) := done (setCond q c (fun s => s.q a && s.q b) []) s
/-- QOR (R196). -/
def execQor (q : BitVec 3) (c : BitVec 2) (a b : BitVec 3) (s : State) := done (setCond q c (fun s => s.q a || s.q b) []) s
/-- QNOT (R196). -/
def execQnot (q : BitVec 3) (c : BitVec 2) (a : BitVec 3) (s : State) := done (setCond q c (fun s => !s.q a) []) s
/-- QPACK (R36, R198). -/
def execQpack (a : BitVec 5) (s : State) := done (compute a [] fun s => qImage s.th.q) s
/-- QUNPACK (R36, R198). -/
def execQunpack (a : BitVec 5) (s : State) : Host.Outcome State Fault Refusal :=
  done (do
    useRegs [a] []
    let s ← get
    modTh fun t => { t with q := qUnpack (s.rd a) }
    finish 4 [a] []) s

end Sys2Proof.Machine
end

