-- ==== Sys2Proof/Machine/Tensor.lean ====
section
/-! DEFINITION. The tensor table and the code table: entries and their checks (R68 to R72), resolution through the tensor
cache (R73), TDEF, TRD, TINV, LUTLD and LUTRD (R74 to R76). -/

namespace Sys2Proof.Machine

/-- The checks of an entry with V = 1 (R70): none, or the failing cause, FORMAT 6 or TENSOR 7. -/
def tensorCheck (e : BitVec 512) : Option Nat :=
  let t := Tensor.ofEntry e
  let size (n : Nat) : Bool := decide (1 ≤ n) && decide (n ≤ 1048576)
  let strideMin := match t.layout with
    | 0 => 8 * ceilDiv (t.cols * t.w) 64
    | 1 => 8 * ceilDiv (t.rows * t.w) 64
    | _ => ceilDiv t.cols 32 * 128 * t.w
  let sxb := (sxbOf t.format).isSome
  if reservedFormat t.format then some 6
  else if wfield e 447 320 = 0 && wfield e 318 267 == 0 && wfield e 255 232 == 0 && wfield e 127 120 == 0 && wfield e 63 56 == 0
    && t.layout != 3 && size t.rows && size t.cols && t.base % 64 == 0 && t.stride % 8 == 0 && decide (strideMin ≤ t.stride)
    && (match t.skind with
      | 0 => t.sbase == 0
      | 3 => true
      | _ => ((intFmtOf t.format).isSome || t.format == 14) && t.sbase % 4 == 0)
    && (sxb == (t.skind == 3))
    && (!sxb || (if t.kcol then t.rows else t.cols) % 32 == 0)
  then none
  else some 7

/-- The virtual address of an element's scale: an F32 or a block exponent (R72). -/
def Tensor.scaleAddr (t : Tensor) (i j : Nat) : Nat :=
  match t.skind with
  | 1 => t.sbase + 4 * i
  | 2 => t.sbase + 4 * j
  | _ => if t.kcol then t.sbase + j * t.rows / 32 + i / 32 else t.sbase + i * t.cols / 32 + j / 32

/-- The value of a stored element outside block form, before scaling, under a captured code table (R59). -/
def Tensor.unscaled (t : Tensor) (table : BitVec 128) (bits : Nat) : Num :=
  if t.format = 14 then k4Value table bits else elemValue t.format bits
/-- The value of a stored element under its tensor's format and scale: table is the captured code table, scale the bits of
its F32 scale or exponent byte (R72). -/
def Tensor.value (t : Tensor) (table : BitVec 128) (bits scale : Nat) : Num :=
  match sxbOf t.format with
  | some m => sxbValue m scale bits
  | none =>
    let v := t.unscaled table bits
    if t.skind = 0 then v else product v (f32.read scale)

/-- The address of a tensor identifier's entry (R68). -/
def entryAddr (ttbase : Word) (tid : Nat) : Nat := wfield ttbase 55 18 * 2 ^ 18 + 64 * tid

/-- A non-speculative read of a 64-byte block at a virtual address under the thread's identity, which no signature is checked
against (R73, R336). -/
def readBlock (va : Nat) : Act (List Byte) := do
  let s ← get
  let r := s.locateFor (.slot s.cur false) s.issuer va .load
  set r.1
  match r.2 with
  | none => waitFor .memoryReply
  | some (.error c) => raise c
  | some (.ok (pa, _)) =>
    let s ← get
    if !s.lmPermits s.issuer pa .load then violation 1 10 (BitVec.ofNat 64 va)
    else if s.unlanded pa 64 0 then waitFor .watermark
    else if s.stopped pa then waitFor .memoryReply
    else
      let h := s.homeLines (.slot s.cur) .table pa 64 false
      set h.1
      if !h.2 then waitFor .memoryReply
      else
        let s ← get
        if s.loadPoisoned pa 64 then fault 1 13 (BitVec.ofNat 64 va) else return s.loadBytes pa 64

/-- The tile's cached copy of a tid of the thread's ASID, filled by a block read if absent (R73, R75). -/
def cachedEntry (tid : Nat) : Act (BitVec 512) := do
  let s ← get
  let asid := wfield s.th.asid 13 0
  match s.myTile.tcache.find? fun e => e.1 == asid && e.2.1 == tid with
  | some e => return e.2.2
  | none =>
    let bs ← readBlock (entryAddr s.th.ttbase tid)
    let e : BitVec 512 := BitVec.ofNat 512 (leNat bs)
    let s ← get
    let (c, s) := s.choose (2 ^ 64)
    set (s.modTile fun t => { t with tcache := cacheInsert 256 (fun x => x.1 == asid && x.2.1 == tid) (asid, tid, e) c t.tcache })
    return e

/-- Resolution of a tid by a command of a unit: TENSOR while TTBASE.EN or the entry's V is 0, FORMAT or TENSOR where a
check fails, TVAL g[a] (R73, R456). -/
def resolve (src tid : Nat) (ga : Word) : Act (BitVec 512) := do
  let s ← get
  require (s.th.ttbase.getLsbD 0) src 7 ga
  let e ← cachedEntry tid
  require (e.getLsbD 319) src 7 ga
  match tensorCheck e with
  | some c => fault src c ga
  | none => return e

/-- Drops tids of an ASID from a tile's cache; tid 4,096 names all of them (R75). -/
def Tile.dropTensors (t : Tile) (asid tid : Nat) : Tile :=
  { t with tcache := t.tcache.filter fun e => !(e.1 == asid && (tid == 4096 || e.2.1 == tid)) }

/-- TDEF (R75, R76): the write performs as a release before the instruction retires. -/
def execTdef (a b : BitVec 5) (s : State) : Host.Outcome State Fault Refusal :=
  done (do
    useRegs [a, b] []
    let s ← get
    let tid := wfield (s.rd a) 11 0
    require (s.th.ttbase.getLsbD 0) 0 7 (s.rd a)
    let bs ← readMem (s.rd b) 0#2 64 false
    let img : BitVec 512 := BitVec.ofNat 512 (leNat bs)
    if img.getLsbD 319 then
      match tensorCheck img with
      | some c => fault 0 c (s.rd a)
      | none => pure ()
    let va := BitVec.ofNat 64 (entryAddr s.th.ttbase tid)
    let l ← locate va 0#2 64 .store
    waitVmem l.pa 64
    waitStores .memoryReply
    let s ← get
    let h := s.homeLines (.slot s.cur) s.requester l.pa 64 true
    set h.1
    if !h.2 || s.stopped l.pa then waitFor .memoryReply
    let s ← get
    if s.poisonNarrow l.pa 64 then fault 1 13 va
    else
      set ((s.perform l.pa bs).modTile fun t => t.dropTensors (wfield s.th.asid 13 0) tid)
      modify fun s => s.storeStales s.cur l.pa 64
      finish 4 [a, b] []) s

/-- TRD (R75). -/
def execTrd (d a b : BitVec 5) (s : State) : Host.Outcome State Fault Refusal :=
  done (do
    useRegs [a, b] [d]
    let s ← get
    let j := wfield (s.rd b) 2 0
    require (s.th.ttbase.getLsbD 0) 0 7 (s.rd a)
    let e ← cachedEntry (wfield (s.rd a) 11 0)
    finish 4 [a, b] [(d, e.extractLsb' (64 * j) 64)]) s

/-- The tiles of a scope around a tile: 0 to 2 the tile, 3 its cluster, 4 its die, 5 and 6 the package (R75). -/
def scopeTiles (scope tile : Nat) : List Nat :=
  if scope < 3 then [tile]
  else if scope = 3 then (List.range 4).map (tile / 4 * 4 + ·)
  else if scope = 4 then (List.range 72).map (tile / 128 * 128 + ·)
  else (List.range 288).map tileKey

/-- TINV: the drop reaches the issuing tile at once and is posted to every other target; the instruction waits until
every target has acknowledged it (R75, R76). -/
def execTinv (a : BitVec 5) (c : BitVec 3) (s : State) : Host.Outcome State Fault Refusal :=
  done (do
    useRegs [a] []
    let s ← get
    let mine := tileOf s.cur
    match s.th.posted with
    | none =>
      let asid := wfield s.th.asid 13 0
      let tid := if (s.rd a).getLsbD 12 then 4096 else wfield (s.rd a) 11 0
      let others := (scopeTiles c.toNat mine).filter (· != mine)
      let s := s.modTile fun t => t.dropTensors asid tid
      if others.isEmpty then
        set s
        finish 4 [a] []
      else
        let (n, s) := s.freshen
        set ({ s with drops := s.drops ++ [{ id := n, kind := 4, asid := asid, page := tid, targets := others, applied := [], last := 0 }]
                      th := { s.th with posted := some n } } : State)
        waitFor .memoryReply
    | some n =>
      if s.drops.any fun d => d.id == n && !d.targets.isEmpty then waitFor .memoryReply
      else
        set ({ s with drops := s.drops.filter fun d => d.id != n } : State)
        finish 4 [a] []) s

/-- Takes the first remaining target of a drop, named by its place among the posted ones. -/
def State.nextTarget (s : State) (index : Nat) (tensor : Bool) : Option (Drop × Nat) :=
  match s.drops[index]? with
  | some d => if (d.kind == 4) == tensor then d.targets.head?.map fun t => (d, t) else none
  | none => none
/-- A drop that has been applied at its first remaining target. -/
def State.dropApplied (s : State) (index : Nat) : State :=
  { s with drops := s.drops.modify index fun d => { d with targets := d.targets.tail, applied := d.applied ++ d.targets.take 1, last := s.fresh } }

/-- TENSOR_CACHE_DROP: a TINV's drop reaches its next target tile and is acknowledged (R75). -/
def execTensorCacheDrop (index : Nat) (s : State) : Host.Outcome State Fault Refusal :=
  .next (match s.nextTarget index true with
    | some (d, t) => (s.setTile t ((s.tile t).dropTensors d.asid d.page)).dropApplied index
    | none => s)

/-- LUTLD (R58, R75). -/
def execLutld (a b : BitVec 5) (s : State) : Host.Outcome State Fault Refusal :=
  done (do
    useRegs [a, b] []
    modify fun s => s.modCore fun c => { c with codes := s.rd b ++ s.rd a }
    finish 4 [a, b] []) s
/-- LUTRD (R75). -/
def execLutrd (d a : BitVec 5) (s : State) : Host.Outcome State Fault Refusal :=
  done (compute d [a] fun s => s.myCore.codes.extractLsb' (if (s.rd a).getLsbD 0 then 64 else 0) 64) s

end Sys2Proof.Machine
end

