-- ==== Sys2Proof/Machine/Engine.lean ====
section
/-! DEFINITION. What the stack engines, copy channels, vector pool and matrix unit share: their accesses (R18, R103, R159,
R164, R245, R273), the joins that hold a command (R304), held faults and freezes (R121, R122, R171, R234, R279, R280),
and the pending counts. -/

namespace Sys2Proof.Machine

/-- Why an engine's access does not go on: it waits for a watermark, a store or an abort, or it meets a fault or a
breach. -/
inductive EStop where
  | blocked
  | fault (c : Cause)
  deriving DecidableEq, Repr

/-- An engine's action on the state; one that stops keeps what it had done. -/
abbrev EAct (α : Type) := StateT State (Except (State × EStop)) α

/-- Stops. -/
def eStop (e : EStop) : EAct α := fun s => .error (s, e)
/-- Waits in the queue entry. -/
def eBlocked : EAct α := eStop .blocked
/-- A fault of a unit, with the address it records. -/
def eFault (src cause addr : Nat) : EAct α := eStop (.fault { code := code src cause, tval := BitVec.ofNat 64 addr, violation := false })
/-- Waits unless a condition holds. -/
def eRequire (c : State → Bool) : EAct Unit := do
  let s ← get
  if c s then pure () else eBlocked
/-- Performs a list of actions in order. -/
def seqE : List (EAct Unit) → EAct Unit
  | [] => pure ()
  | a :: as => do a; seqE as
/-- The results of a list of actions in order. -/
def mapE (f : β → EAct α) : List β → EAct (List α)
  | [] => pure []
  | b :: bs => do
    let x ← f b
    let xs ← mapE f bs
    return x :: xs
/-- Runs an engine's action with a thread in focus. -/
def EAct.asSlot (h : Nat) (m : EAct α) : EAct α := fun s =>
  match m (s.focus h) with
  | .ok (a, s') => .ok (a, s'.focus s.cur)
  | .error (s', e) => .error (s'.focus s.cur, e)
/-- The state after an action, and its result or why it stopped. -/
def EAct.run' (m : EAct α) (s : State) : State × Except EStop α :=
  match m s with
  | .ok (a, s') => (s', .ok a)
  | .error (s', e) => (s', .error e)

/-- Where an access of n bytes lies: an address of a mode (.g, .l, .c, .p), checked under an identity, and waiting on
the watermarks of every transfer but one; `num` is the agent's number (R45, R82, R88, R89, R93, R150, R154, R159). -/
def eLocate (w : Issuer) (num am a n : Nat) (k : AccessKind) (self : Nat) : EAct Nat := do
  let v := BitVec.ofNat 64 a
  let s ← get
  let pa ← (match am with
    | 1 => if a + n ≤ 0x40000 then pure (window (globalCore w.core) + a) else eFault 1 11 a
    | 2 => if a + n ≤ 0x800000 then pure (clusterPa w.core a) else eFault 1 11 a
    | 3 => if a < 2 ^ 52 then pure a else eFault 1 7 a
    | _ => fun s => match s.locateFor (.agent num w.core) w a k with
      | (s, some (.ok (pa, _))) => .ok (pa, s)
      | (s, some (.error c)) => .error (s, .fault c)
      | (s, none) => .error (s, .blocked))
  match s.mapCheck pa w.mode k v with
  | some c => eStop (.fault c)
  | none =>
    let s ← get
    if !s.lmPermits w pa k then eStop (.fault { code := code 1 10, tval := v, violation := true })
    else if s.unlanded pa n self then eBlocked
    else return pa

/-- A non-speculative access of a numbered agent first forces the speculative tasks it conflicts with to abort, and then waits in
the order of its lines for its home, which recalls or invalidates their copies; an access that needs a stopped tile waits (R18, R114,
R139, R142, R336, R396). -/
def eNonSpec (who : Asker) (pa n : Nat) (write : Bool) : EAct Unit := do
  eRequire fun s => !s.stopped pa
  let s ← get
  let r := s.forceAborts .nonSpec none pa n write
  set r.1
  if !r.2 then eBlocked
  else
    let h := r.1.homeLines who .nonSpec pa n write
    set h.1
    if h.2 then pure () else eBlocked

/-- A non-speculative read of n bytes by the agent of a number. -/
def eRead (w : Issuer) (am a n self : Nat) : EAct (List Byte) := do
  let pa ← eLocate w self am a n .load self
  eNonSpec (.number self) pa n false
  let s ← get
  if s.poisoned pa n then eFault 1 13 a else return s.bytes pa n

/-- A non-speculative write by the agent of a number. -/
def eWrite (w : Issuer) (am a : Nat) (bs : List Byte) (self : Nat) : EAct Unit := do
  let pa ← eLocate w self am a bs.length .store self
  eNonSpec (.number self) pa bs.length true
  let s ← get
  if s.poisonNarrow pa bs.length then eFault 1 13 a else set (s.perform pa bs)

/-- The bits [b, b + n) of memory counted from bit address b, read byte by byte. -/
def eReadBits (w : Issuer) (am b n self : Nat) : EAct Nat := do
  let first := b / 8
  let bs ← mapE (fun i => do
    let x ← eRead w am (first + i) 1 self
    return x.headD 0#8) (List.range ((b + n + 7) / 8 - first))
  return leNat bs / 2 ^ (b % 8) % 2 ^ n

/-- The stored bits of a tensor element: a naturally aligned access, or its bits where the width is below a byte. -/
def eElement (w : Issuer) (am : Nat) (t : Tensor) (i j self : Nat) : EAct Nat :=
  let b := t.elemBit i j
  if t.w % 8 = 0 then do
    let bs ← eRead w am (b / 8) (t.w / 8) self
    return leNat bs
  else eReadBits w am b t.w self

/-- The bits of an element's scale: an F32 or an exponent byte; 0 where there is none (R72). -/
def eScale (w : Issuer) (am : Nat) (t : Tensor) (i j self : Nat) : EAct Nat :=
  match t.skind with
  | 0 => pure 0
  | 3 => do
    let bs ← eRead w am (t.scaleAddr i j) 1 self
    return leNat bs
  | _ => do
    let bs ← eRead w am (t.scaleAddr i j) 4 self
    return leNat bs

/-- The value of an element after scaling (R72). -/
def eValue (w : Issuer) (am : Nat) (t : Tensor) (table : BitVec 128) (i j self : Nat) : EAct Num := do
  let x ← eElement w am t i j self
  let y ← eScale w am t i j self
  return t.value table x y

/-! Commands. -/

/-- The identity of a command of a core. -/
def Command.issuer (c : Command) (core : Nat) : Issuer := { core := core, mode := c.mode, asid := c.asid, ptbase := c.ptbase }
/-- The identity of a transfer. -/
def Transfer.issuer (t : Transfer) : Issuer := { core := t.core, mode := t.mode, asid := t.asid, ptbase := t.ptbase }

/-- Every store that the thread made before a command has performed (R164, R295). -/
def State.storesBefore (s : State) (slot seq : Nat) : Bool := (s.thread slot).sb.all fun e => decide (seq < e.seq)

/-- Whether a thread has an uncompleted command or transfer of a number. -/
def State.liveCommand (s : State) (n : Nat) : Bool :=
  (s.cores.any fun c => c.2.vq.any (·.seq == n) || c.2.mq.any (·.seq == n) || c.2.sq.any (·.seq == n)) ||
  s.transfers.any fun t => (t.seq == n && !t.finishing) || t.follow.any (·.seq == n)

/-- Whether a join of the thread still waits (R304). -/
def State.unresolved (s : State) (_slot : Nat) (j : Join) : Bool := j.before.any s.liveCommand

/-- Whether a join holds a command of a thread in a queue, given by the queue's bit in QFENCE's operand (R304). -/
def State.joinHeld (s : State) (slot seq bit : Nat) : Bool :=
  (s.thread slot).joins.any fun j => j.set.getLsbD bit && decide (j.from_ ≤ seq) && s.unresolved slot j

/-- The units, by their place among the held faults: 0 stack, 1 copy, 2 vector, 3 matrix (R391). -/
abbrev EUnit := BitVec 2

/-- The pending count of a unit: bits [38:32] of ESTAT, CSTAT and MSTAT, and [20:16] of VSTAT (R120, R170, R230, R278). -/
def Thread.pend (t : Thread) (u : EUnit) : Nat :=
  match u.toNat with
  | 0 => wfield t.estat 37 32
  | 1 => wfield t.cstat 38 32
  | 2 => wfield t.vstat 20 16
  | _ => wfield t.mstat 38 32

/-- Changes a pending count. -/
def Thread.setPend (t : Thread) (u : EUnit) (n : Nat) : Thread :=
  match u.toNat with
  | 0 => { t with estat := setField t.estat 37 32 n }
  | 1 => { t with cstat := setField t.cstat 38 32 n }
  | 2 => { t with vstat := setField t.vstat 20 16 n }
  | _ => { t with mstat := setField t.mstat 38 32 n }
/-- One more command of a unit. -/
def Thread.pendUp (t : Thread) (u : EUnit) : Thread := t.setPend u (t.pend u + 1)
/-- One command of a unit fewer. -/
def Thread.pendDown (t : Thread) (u : EUnit) : Thread := t.setPend u (t.pend u - 1)

/-- FLT of a unit's status register. -/
def Thread.flt (t : Thread) (u : EUnit) : Bool :=
  match u.toNat with
  | 0 => t.estat.getLsbD 5
  | 1 => t.cstat.getLsbD 5
  | 2 => t.vstat.getLsbD 5
  | _ => t.mstat.getLsbD 5
/-- Sets FLT. -/
def Thread.setFlt (t : Thread) (u : EUnit) (v : Nat) : Thread :=
  match u.toNat with
  | 0 => { t with estat := setField t.estat 5 5 v }
  | 1 => { t with cstat := setField t.cstat 5 5 v }
  | 2 => { t with vstat := setField t.vstat 5 5 v }
  | _ => { t with mstat := setField t.mstat 5 5 v }

/-- Records a fault that a unit holds for a thread, whose command or transfer has had its walks; of several, the earliest accepted is kept, and of the matrix unit the earliest in
queue order, which is the first to be met (R121, R171, R234, R262, R279). -/
def State.holdFault (s : State) (slot : Nat) (u : EUnit) (f : HeldFault) (mark : Thread → Thread) : State :=
  (s.dropAnswers f.seq).modThread slot fun t =>
    let keep := t.flt u && (match get4 t.held u with
      | some old => u == 3#2 || decide (old.seq < f.seq)
      | none => false)
    if keep then t else mark ({ t with held := set4 t.held u (some f) }.setFlt u 1)

/-- What a discarded command records for its thread as a fault does, FLT excepted; a fault that is held already stays (R234, R280,
R390). -/
def State.recordDiscard (s : State) (slot : Nat) (u : EUnit) (f : HeldFault) (mark : Thread → Thread) : State :=
  s.modThread slot fun t => if t.flt u then t else mark { t with held := set4 t.held u (some f) }

/-- Reports a frozen command, which walks again when it goes on, to its thread (R94, R389). -/
def State.reportCommand (s : State) (slot master ch : Nat) (f : HeldFault) : State :=
  (s.dropAnswers f.seq).modThread slot fun t => { t with reports := t.reports ++ [{ master := master, ch := ch, code := f.code, addr := f.addr }] }

/-- Delivers a unit's held fault to the thread in focus, if FLT is 1: the recorded cause with TVAL at the recorded
address, FLT clearing (R121, R171, R233, R259). -/
def deliverHeld (u : EUnit) : Act Unit := do
  let s ← get
  if s.th.flt u then
    match get4 s.th.held u with
    | some f =>
      modTh fun t => ({ t with held := set4 t.held u none } : Thread).setFlt u 0
      raise { code := f.code, tval := f.addr, violation := false }
    | none => modTh fun t => t.setFlt u 0

/-- A command of the instruction in focus, with what every command captures at acceptance (R231, R260). -/
def State.command (s : State) (i : Instr) (seq : Nat) (ga gb : Word) (tensors : List (BitVec 512)) : Command :=
  { seq := seq, instr := i, slot := s.cur, pc := s.th.pc, ga := ga, gb := gb, frm := s.th.frm, width := wfield s.th.vstat 49 48
    codes := s.myCore.codes, mode := s.th.mode, asid := wfield s.th.asid 13 0, ptbase := s.th.ptbase, ttbase := s.th.ttbase
    tensors := tensors, extra := [], done := 0, snap := none, started := false, frozen := none }

/-- The image of an instruction address that VFPC and MFPC hold (R230, R278). -/
def faultPc (pc : Word) : Word := pc &&& 0x00FFFFFFFFFFFFFE#64

end Sys2Proof.Machine
end

