-- ==== Sys2Proof/Machine/Lanes.lean ====
section
/-! DEFINITION. Lane claims and grants (R223 to R227). -/

namespace Sys2Proof.Machine

/-! Grants (R223 to R226). -/

/-- The claimants of a tile: its threads and saved contexts with a request (R223). -/
def State.claimants (s : State) (tile : Nat) : List (Nat × Thread) :=
  ((s.cur, s.th) :: s.threads).filter fun t => tileOf t.1 == tile && t.2.laneReq != 0

/-- The largest grant size that a test admits; 0 if none does. -/
def largestGrant (p : Nat → Bool) : Nat := ([64, 32, 16, 8].find? p).getD 0

/-- The fair share of a number of claimants (R224). -/
def fairShare (c : Nat) : Nat := let f := largestGrant fun x => decide (x * c ≤ 2048); if f = 0 then 8 else f

/-- The grant that Renegotiate gives a thread (R224). -/
def State.grantFor (s : State) (h : Nat) : Nat :=
  let cs := s.claimants (tileOf h)
  let t := s.thread h
  let f := fairShare cs.length
  let pressure := cs.any fun c => c.1 != h && decide (c.2.grant < min c.2.laneReq f)
  let cap := if pressure then f else 64
  let free := 2048 - cs.foldl (fun n c => n + c.2.grant) 0
  largestGrant fun x => decide (x ≤ t.laneReq) && decide (x ≤ cap) && decide (x ≤ free + t.grant)

/-- The bits of g lanes. -/
def laneBits (g : Nat) : BitVec 2048 := BitVec.ofNat 2048 (2 ^ (32 * g) - 1)
/-- The mask bits of g lanes. -/
def laneMask (g : Nat) : BitVec 64 := BitVec.ofNat 64 (2 ^ g - 1)

/-- A thread whose grant changes: lanes of the smaller grant keep their values, dropped lanes are lost, and added ones are
zero (R226). -/
def Thread.setGrant (t : Thread) (g : Nat) : Thread :=
  { t with grant := g, v := t.v.map (· &&& laneBits (min t.grant g)), k := t.k.map (· &&& laneMask (min t.grant g)) }

/-- Renegotiate, once the thread's earlier vector commands have executed (R224, R225). -/
def State.renegotiate (s : State) (h : Nat) : State :=
  if (s.thread h).laneReq = 0 then s else s.modThread h fun t => t.setGrant (s.grantFor h)
/-- Releases a claim (R226). -/
def State.releaseLanes (s : State) (h : Nat) : State := s.modThread h fun t => { t.setGrant 0 with laneReq := 0, reneg := false }
/-- A thread that is to renegotiate before its next instruction does so as soon as its vector commands have executed (R224, R225). -/
def State.renegotiateDue (s : State) (h : Nat) : State :=
  let t := s.thread h
  if t.reneg && (t.laneReq == 0 || t.pend 2#2 == 0) then (s.renegotiate h).modThread h fun t => { t with reneg := false } else s
/-- A renegotiation point that lies before a thread's next instruction: resumption and a thaw (R225). -/
def State.renegotiateNext (s : State) (h : Nat) : State := (s.modThread h fun t => { t with reneg := true }).renegotiateDue h

end Sys2Proof.Machine
end

