-- ==== Sys2Proof/Machine/Grp.lean ====
section
/-! DEFINITION. Thread groups and barriers (R353, R354). -/

namespace Sys2Proof.Machine

/-- A group by its identifier (R353). -/
def State.group (s : State) (id : Nat) : Option Group := assocFind (id % 256) (s.die (id / 256)).groups
/-- Replaces a group. -/
def State.setGroup (s : State) (id : Nat) (g : Group) : State :=
  s.setDie (id / 256) { s.die (id / 256) with groups := assocSet (id % 256) g (s.die (id / 256)).groups }

/-- The barrier releases every waiting member when every current member has arrived (R354). -/
def Group.settle (g : Group) : Group :=
  if g.members.all g.arrived.contains then { g with arrived := [], released := g.released ++ g.arrived } else g
/-- Removes a member, which can complete the phase (R354). -/
def Group.remove (g : Group) (h : Nat) : Group :=
  let drop (l : List Nat) : List Nat := l.filter (· != h)
  ({ g with members := drop g.members, arrived := drop g.arrived, released := drop g.released } : Group).settle
/-- A thread's end removes it from every group (R354, R364). -/
def State.leaveGroups (s : State) (h : Nat) : State :=
  { s with dies := s.dies.map fun d => (d.1, { d.2 with groups := d.2.groups.map fun g => (g.1, g.2.remove h) }) }

/-- The group an instruction names: OPERAND for other bits, GSTATE for no group, GPERM for another ASID (R353). -/
def namedGroup (x : Word) : Act Group := do
  require (decide (x.toNat < 1024)) 5 5 x
  let s ← get
  match s.group x.toNat with
  | none => fault 5 38 x
  | some g => if g.asid = wfield s.th.asid 13 0 then return g else violation 5 39 x

/-- A group instruction is sent to its die (R453); its identifier's other bits must be zero (R353). -/
def sendGroup (op : GroupOp) (srcs dsts : List (BitVec 5)) (ga : State → Word) (qd : BitVec 3) : Act Unit := do
  useRegs srcs dsts
  let s ← get
  require (decide ((ga s).toNat < 1024)) 5 5 (ga s)
  escalate
  sendRequest (.group op) srcs (ga s) qd

/-- GNEW (R353). -/
def execGnew (d : BitVec 5) (c : BitVec 3) (s : State) := done (sendGroup (.new d) [] [d] (fun _ => 0#64) c) s
/-- GJOIN (R353). -/
def execGjoin (a : BitVec 5) (c : BitVec 3) (s : State) := done (sendGroup .join [a] [] (·.rd a) c) s
/-- GLEAVE (R353). -/
def execGleave (a : BitVec 5) (s : State) := done (sendGroup .leave [a] [] (·.rd a) 0#3) s
/-- GCOUNT (R353). -/
def execGcount (d a : BitVec 5) (s : State) := done (sendGroup (.count d) [a] [d] (·.rd a) 0#3) s
/-- GFREE (R353). -/
def execGfree (a : BitVec 5) (s : State) := done (sendGroup .free [a] [] (·.rd a) 0#3) s

/-- The effect of a group instruction at its die, and its answer (R353). -/
def groupEffect (o : Outstanding) (op : GroupOp) : Act Unit := do
  modTh fun t => { t with outstanding := none, wait := none }
  let s ← get
  match op with
  | .new d =>
    let die := dieOf s.cur
    match lowestFree 256 ((s.die die).groups.map (·.1)) with
    | some i =>
      modify fun s => (s.setGroup (256 * die + i) { asid := wfield s.th.asid 13 0, members := [], arrived := [], released := [] }).setQ o.qd true
      finish 4 o.srcs [(d, BitVec.ofNat 64 (256 * die + i))]
    | none =>
      if o.qd = 0#3 then fault 5 30 o.ga
      else
        set (s.setQ o.qd false)
        finish 4 o.srcs []
  | .join =>
    let g ← namedGroup o.ga
    let s ← get
    if g.members.contains s.cur then
      set (s.setQ o.qd true)
      finish 4 o.srcs []
    else if g.members.length < 1024 then
      set ((s.setGroup o.ga.toNat { g with members := g.members ++ [s.cur] }).setQ o.qd true)
      finish 4 o.srcs []
    else if o.qd = 0#3 then fault 5 30 o.ga
    else
      set (s.setQ o.qd false)
      finish 4 o.srcs []
  | .leave =>
    let g ← namedGroup o.ga
    let s ← get
    require (g.members.contains s.cur) 5 38 o.ga
    modify fun s => s.setGroup o.ga.toNat (g.remove s.cur)
    finish 4 o.srcs []
  | .count d =>
    let g ← namedGroup o.ga
    finish 4 o.srcs [(d, BitVec.ofNat 64 g.members.length)]
  | .free =>
    let g ← namedGroup o.ga
    require g.members.isEmpty 5 38 o.ga
    modify fun s =>
      let d := s.die (o.ga.toNat / 256)
      s.setDie (o.ga.toNat / 256) { d with groups := assocErase (o.ga.toNat % 256) d.groups }
    finish 4 o.srcs []

/-- GROUP_ANSWER: the answer of GNEW, GJOIN, GLEAVE, GCOUNT or GFREE returns (R353, R453). -/
def execGroupAnswer (slot : Nat) (s : State) : Host.Outcome State Fault Refusal :=
  .next (match (s.thread slot).outstanding with
    | some o => (match o.req with
      | .group op => if (s.thread slot).park.isSome then s else s.asSlot slot (groupEffect o op)
      | _ => s)
    | none => s)

/-- GBAR: the member's stores have performed, it arrives, and it waits until the barrier releases it (R354); the release
is a renegotiation point, once the thread's vector commands have executed (R224, R225). -/
def execGbar (a : BitVec 5) (s : State) : Host.Outcome State Fault Refusal :=
  done (do
    useRegs [a] []
    let s ← get
    let x := s.rd a
    let g ← namedGroup x
    require (g.members.contains s.cur) 5 38 x
    escalate
    waitUntil .gbar fun s => s.th.sb.isEmpty
    let s ← get
    let g := if g.released.contains s.cur || g.arrived.contains s.cur then g
      else ({ g with arrived := g.arrived ++ [s.cur] } : Group).settle
    set (s.setGroup x.toNat g)
    if g.released.contains s.cur then
      waitUntil .gbar fun s => s.th.laneReq == 0 || s.th.pend 2#2 == 0
      modify fun s => (s.setGroup x.toNat { g with released := g.released.filter (· != s.cur) }).renegotiate s.cur
      finish 4 [a] []
    else waitFor .gbar) s

end Sys2Proof.Machine
end

