-- ==== Sys2Proof/Machine/ThreadEvents.lean ====
section
/-! DEFINITION. The events of one thread: draining stores, walks, arriving windows and instruction bytes, interrupts and
reports taken at an instruction boundary (R93 to R96, R288, R306, R309, R313, R383, R384, R389). -/

namespace Sys2Proof.Machine

/-- An event's outcome: always a next state; an event whose condition does not hold changes nothing. -/
def event (s : State) : Host.Outcome State Fault Refusal := .next s

/-- STORE_BUFFER_DRAIN: an entry that may perform performs once its core holds the line in M, or its home has answered for
a C = 0 page, and leaves the buffer (R90, R134, R286, R288). Tasks that have taken the block into their signatures since the store
issued are aborted first, and it performs only after that (R335 to R337; log 85). A .nt store of a line that the L1 does not hold is
performed at the home and allocates none (R204; log 41). One that is narrower than a poisoned unit leaves the unit unchanged, and its
fault is held for the thread (R147, R201; log 17). -/
def execStoreBufferDrain (slot entry : Nat) (s : State) : Host.Outcome State Fault Refusal :=
  let t := s.thread slot
  event (match t.sb[entry]? with
    | some e =>
      if t.mayDrain entry then
        let n := e.bytes.length
        let by_ := s.requesterOf slot
        let f := s.forceAborts by_ (some (coreOf slot)) e.pa n true
        if !f.2 then f.1 else
        let home := e.kind == .nonTemporal && (mruFind (lineOf e.pa) (s.core (coreOf slot)).l1d).isNone
        let q : Missing := { who := .number e.seq, write := true, instr := false, nt := false, mask := blockMask (lineOf e.pa) e.pa n, by_ := by_ }
        let r := s.reachLine (coreOf slot) e.pa n (e.cacheable && !home) q
        if !r.2 then r.1
        else if r.1.poisonNarrow e.pa n then
          r.1.modThread slot fun t => { t with sb := t.sb.eraseIdx entry, storeFaults := t.storeFaults ++ [(e.va, e.pc)] }
        else (r.1.perform e.pa e.bytes).modThread slot fun t => { t with sb := t.sb.eraseIdx entry }
      else s
    | none => s)

/-! The walk unit of a die (R93 to R96). -/

/-- The oldest walk of a die in a stage that a test accepts, with its place. -/
def Die.oldest (d : Die) (p : Walk → Bool) : Option (Nat × Walk) :=
  (d.walks.findIdx? p).bind fun i => (d.walks[i]?).map fun w => (i, w)

/-- Whether a walk is in flight. -/
def Walk.live (w : Walk) : Bool := w.stage != .waiting
/-- The walk in flight of a walk's page, which a request for the same page joins (R93). -/
def Die.liveMatch (d : Die) (w : Walk) : Option Nat := d.walks.findIdx? fun x => x.live && x.asid == w.asid && x.page == w.page

/-- WALK_REQUEST: the oldest waiting request whose page is being walked joins that walk; otherwise the oldest waiting request starts a
walk if fewer than 128 are in flight (R93). A request to set D makes the walk set it (R96). -/
def execWalkRequest (die : Nat) (s : State) : Host.Outcome State Fault Refusal :=
  let d := s.die die
  event (match d.oldest fun w => !w.live && (d.liveMatch w).isSome with
    | some (i, w) =>
      let join (x : Walk) : Walk :=
        { x with requesters := x.requesters ++ w.requesters.filter fun h => !x.requesters.contains h, dirty := x.dirty || w.dirty }
      (match d.liveMatch w with
      | some j => s.setDie die { d with walks := (d.walks.modify j join).eraseIdx i }
      | none => s)
    | none => match d.oldest fun w => !w.live with
      | some (i, _) =>
        if (d.walks.filter Walk.live).length < 128 then
          s.setDie die { d with walks := d.walks.modify i fun x => { x with stage := .walking } }
        else s
      | none => s)

/-- A walk unit answers a numbered asker; of a page it keeps the last answer. -/
def State.putAnswer (s : State) (a : WalkAnswer) : State :=
  { s with walkAnswers := a :: s.walkAnswers.filter fun x => !(x.num == a.num && x.page == a.page) }
/-- A walk's leaf for one requester: it is installed in the L2 TLB of the requester's tile and in its core's instruction or data TLB;
a stack command takes it as it is (R91, R94, R103). -/
def State.giveLeaf (s : State) (die page : Nat) (e : TlbEntry) (q : WalkAsker) : State :=
  match q with
  | .slot h f => (s.installL2 (tileOf h) e).installCore (coreOf h) (if f then .fetch else .load) e
  | .fetch h _ => (s.installL2 (tileOf h) e).installCore (coreOf h) .fetch e
  | .agent _ c => (s.installL2 (c / 8) e).installCore c .load e
  | .engine n => s.putAnswer { num := n, die := die, page := page, result := .leaf e }
/-- A walk's failure for one requester, who raises it by itself: the instruction of a slot, a window in flight, the fetch buffer, or a
numbered agent (R94). -/
def State.giveFailure (s : State) (die page : Nat) (c : Cause) (q : WalkAsker) : State :=
  match q with
  | .slot h _ => s.modThread h fun t => { t with walkFail := assocSet page c t.walkFail }
  | .fetch h win => s.modThread h fun t =>
    if win < 11 then match (t.windowAt win).2 with
      | .inFlight id => t.setWindow win (.inFlight { id with walkFail := some (page, c) })
      | _ => t
    else { t with fbuf := { t.fbuf with walkFail := some (page, c) } }
  | .agent n _ => s.putAnswer { num := n, die := die, page := page, result := .failed c }
  | .engine n => s.putAnswer { num := n, die := die, page := page, result := .failed c }
/-- A walk of a die ends. -/
def State.dropWalk (s : State) (die i : Nat) : State := s.modDie die fun d => { d with walks := d.walks.eraseIdx i }
/-- Ends a walk with a leaf for every requester (R91, R94). -/
def State.deliverLeaf (s : State) (die i : Nat) (w : Walk) (e : TlbEntry) : State :=
  w.requesters.foldl (fun s q => s.giveLeaf die w.page e q) (s.dropWalk die i)
/-- Ends a walk with a failure for every requester (R94). -/
def State.failWalk (s : State) (die i : Nat) (w : Walk) (c : Cause) : State :=
  w.requesters.foldl (fun s q => s.giveFailure die w.page c q) (s.dropWalk die i)

/-- Changes a walk of a die. -/
def State.modWalk (s : State) (die i : Nat) (f : Walk → Walk) : State := s.modDie die fun d => { d with walks := d.walks.modify i f }

/-- WALK_RESULT: the oldest walk in flight reads its entries, once the speculative tasks that wrote them have been aborted. A failed
walk's fault goes to every requester; a leaf whose A, or D where asked for, is clear is sent to be set; any other leaf is installed. A
walk that a drop reached installs nothing, and its requesters walk again (R88, R94, R95, R96, R100, R336; log 86). -/
def execWalkResult (die : Nat) (s : State) : Host.Outcome State Fault Refusal :=
  event (match (s.die die).oldest fun w => w.stage == .walking with
    | none => s
    | some (i, w) =>
      if w.dropped then s.modWalk die i fun x => { x with stage := .waiting, dropped := false }
      else
        let r := s.walk die w.mode w.asid (w.page * 65536) w.ptbase w.fromRoot
        let f := s.walkMayRead r.reads none
        if !f.2 then f.1 else
        match r.result with
        | .error c => s.failWalk die i w c
        | .ok e =>
          let s := s.installNodes die r.nodes
          if !e.leaf.getLsbD 6 || (w.dirty && e.leaf.getLsbD 2 && !e.dirty) then s.modWalk die i fun x => { x with stage := .setting e }
          else s.deliverLeaf die i w e)

/-- AD_UPDATE: the walk unit sets A, and D where asked for, by an atomic update of the entry, once the speculative tasks that it meets
have been aborted; if the entry has changed, the walk restarts from the root. The update of a leaf in the ROM, which no program
writes, and of an entry that has an uncorrectable error, fails as the walk's reads do (R82, R88, R96, R147, R336; log 90). -/
def execAdUpdate (die : Nat) (s : State) : Host.Outcome State Fault Refusal :=
  let setting (w : Walk) : Bool := match w.stage with
    | .setting _ => true
    | _ => false
  event (match (s.die die).oldest setting with
    | none => s
    | some (i, w) =>
      match w.stage with
      | .setting e =>
        if w.dropped then s.modWalk die i fun x => { x with stage := .waiting, dropped := false }
        else
          let f := s.walkMayRead [] (some e.leafPa)
          if !f.2 then f.1 else
          match s.mapCheck e.leafPa w.mode .rmw (BitVec.ofNat 64 (w.page * 65536)) with
          | some c => s.failWalk die i w c
          | none =>
          if s.poisoned e.leafPa 8 then s.failWalk die i w (fault1 6 (BitVec.ofNat 64 (w.page * 65536))) else
          match s.setAD e (w.dirty && e.leaf.getLsbD 2) with
          | none => s.modWalk die i fun x => { x with stage := .walking, fromRoot := true }
          | some (s, e) => s.deliverLeaf die i w e
      | _ => s)

/-! Windows and instruction bytes (R306, R309, R313, R315). -/

/-- WINDOW_ARRIVAL: the bytes of a window in flight arrive and it becomes READY; a thread that enters through it goes on
(R306, R315, R319). -/
def execWindowArrival (slot win : Nat) (s : State) : Host.Outcome State Fault Refusal :=
  let t := s.thread slot
  event (match t.windowAt win with
    | (a, .inFlight m) =>
      (match s.fetchWindow slot win a m with
        | (s, some (.ready m cells)) =>
          s.modThread slot fun t =>
            let t := t.setWindow win (.ready m cells)
            if t.entering = some win then { t with entering := none, wait := none, fbuf := { base := a, cells := cells, fail := none } }
            else t
        | (_, some _) => s
        | (s, none) => s)
    | _ => s)

/-- WINDOW_FETCH_FAILURE: the fetch of a window fails and the failure is held (R306, R309). A thread that enters a loop
body through the window takes the failure at the body's first instruction (log 18); one that enters its handler freezes
with 7.9 (R315). -/
def execWindowFetchFailure (slot win : Nat) (s : State) : Host.Outcome State Fault Refusal :=
  let t := s.thread slot
  event (match t.windowAt win with
    | (a, .inFlight m) =>
      (match s.fetchWindow slot win a m with
        | (s, some (.failed m c)) =>
          let s := s.modThread slot fun t => t.setWindow win (.failed m c)
          if t.entering = some win then
            if win = 10 then s.freezeThread slot { code := code 7 9, tval := t.tval, violation := true }
            else s.modThread slot fun t => { t with entering := none, wait := none, fbuf := emptyFbuf t.pc }
          else s
        | _ => s)
    | _ => s)

/-- FETCH_BUFFER_ARRIVAL: the bytes after those held, up to the end of their 64-byte block, arrive in the fetch buffer; a
failure is held there (R22, R313; log 19). -/
def execFetchBufferArrival (slot : Nat) (s : State) : Host.Outcome State Fault Refusal :=
  let t := s.thread slot
  let pc := t.pc.toNat
  let have_ := t.fbuf.from_ pc
  let va := pc + have_.length
  event (if t.entering.isSome || t.kind == .empty || (t.fbuf.failure pc).isSome then s
    else match s.fetchBytes slot (.fetch slot 11) (s.fetchIssuer slot t.mode) va (64 - va % 64) with
      | (s, .blocked) => s
      | (s, .got cells f) => s.modThread slot fun t => { t with fbuf := { base := pc, cells := have_ ++ cells, fail := f }, wait := none })

/-! Interrupts and reports (R383, R384, R389). -/

/-- The highest pending interrupt whose enable bit is 1: 3 error, 2 inter-thread, 0 timer, 1 message, named by its
enable bit (R384). -/
def State.pendingInterrupt (s : State) (h : Nat) : Option Nat :=
  let x := s.thstat h
  [3, 2, 0, 1].find? fun i => x.getLsbD i && x.getLsbD (16 + i)

/-- Whether a slot's thread stands at an instruction boundary: out of every wait, or in MWAIT or WFI (R384). -/
def Thread.atBoundary (t : Thread) : Bool :=
  t.kind != .empty && t.frozen.isNone && t.entering.isNone && t.outstanding.isNone &&
  (t.wait.isNone || t.wait == some .mwait || t.wait == some .wfi || t.wait == some .fetch)

/-- Whether a slot takes an interrupt now (R384). -/
def State.takesInterrupt (s : State) (h : Nat) : Bool :=
  let t := s.thread h
  t.atBoundary && t.ie && !t.exl && (s.pendingInterrupt h).isSome && !(s.focus h).speculative

/-- Removes the oldest record of a slot from its log (R384). -/
def State.takeError (s : State) (h : Nat) : State :=
  match s.errorDie h with
  | some d => s.modDie d fun x => { x with errlog := x.errlog.eraseP fun r => r.target == some h }
  | none => s

/-- The interrupt of the slot in focus: a thread in MWAIT or WFI completes it first; EPC is the next instruction, TVAL 0
or the error record's value (R349, R384, R386). -/
def State.interrupt (s : State) : State :=
  let s := if s.th.wait = some .mwait ∨ s.th.wait = some .wfi then s.retire 4 else s
  let pc := s.th.pc
  match s.pendingInterrupt s.cur with
  | some 3 => (match s.errorFor s.cur with
    | some r => (s.takeError s.cur).trapEntry true false 0 0 r.code r.tval pc
    | none => s)
  | some 2 => s.trapEntry true false 0 0 (code 7 3) 0#64 pc
  | some 0 => s.trapEntry true false 0 0 (code 7 1) 0#64 pc
  | some _ => s.trapEntry true false 0 0 (code 7 2) 0#64 pc
  | none => s

/-- INTERRUPT_TAKE (R384). -/
def execInterruptTake (slot : Nat) (s : State) : Host.Outcome State Fault Refusal :=
  event (if s.takesInterrupt slot then ((s.focus slot).interrupt).focus s.cur else s)

/-- TIMER_EXPIRY: the timer interrupt is pending from TIME ≥ TIMECMP on (R383); a thread that waits in WFI for it looks
again. -/
def execTimerExpiry (slot : Nat) (s : State) : Host.Outcome State Fault Refusal :=
  event (if s.timerPending slot && (s.thread slot).wait == some .wfi then s.modThread slot fun t => { t with wait := none } else s)

/-- Whether a slot takes the report of a frozen command now: at a boundary with EXL = 0 (R389). -/
def State.takesReport (s : State) (h : Nat) : Bool :=
  let t := s.thread h
  t.atBoundary && !t.exl && !t.reports.isEmpty

/-- FROZEN_COMMAND_REPORT: the oldest report is taken as an asynchronous trap (R389). -/
def execFrozenCommandReport (slot : Nat) (s : State) : Host.Outcome State Fault Refusal :=
  event (if s.takesReport slot then
      let x := s.focus slot
      match x.th.reports with
      | r :: rs => ({ x with th := { x.th with reports := rs } }.trapEntry false true r.master r.ch r.code r.addr x.th.pc).focus s.cur
      | [] => s
    else s)

end Sys2Proof.Machine
end

