-- ==== Sys2Proof/Machine/Registers.lean ====
section
/-! DEFINITION. The control registers kept per thread, by their selectors: their values, the bits each of them has, and
their bare replacement (R67, R84, R120, R170, R207, R230, R278, R323, R378, R379, R381, R389, R390). -/

namespace Sys2Proof.Machine

/-- The bits [hi:lo] as a mask. -/
def bitsMask (hi lo : Nat) : Word := BitVec.ofNat 64 ((2 ^ (hi + 1 - lo) - 1) * 2 ^ lo)

/-- The bits that are not reserved, of a register kept per thread. -/
def crBits (sel : Nat) : Word :=
  match sel with
  | 0x000 => bitsMask 19 16 ||| bitsMask 11 5 ||| bitsMask 3 0
  | 0x001 => bitsMask 63 1
  | 0x002 => bitsMask 63 1
  | 0x003 => bitsMask 63 55 ||| bitsMask 8 0
  | 0x004 => bitsMask 63 0
  | 0x005 => bitsMask 63 0
  | 0x007 => bitsMask 15 0
  | 0x008 => bitsMask 63 62
  | 0x010 => bitsMask 13 0
  | 0x011 => bitsMask 51 13 ||| 1#64
  | 0x012 => bitsMask 55 18 ||| 1#64
  | 0x018 => bitsMask 3 0
  | 0x019 => bitsMask 4 0
  | 0x01A => bitsMask 8 8 ||| bitsMask 3 0
  | 0x020 => bitsMask 37 32 ||| bitsMask 5 0
  | 0x021 => bitsMask 38 32 ||| bitsMask 9 5 ||| bitsMask 1 1
  | 0x022 => bitsMask 49 32 ||| bitsMask 20 16 ||| bitsMask 5 0
  | 0x023 => bitsMask 55 1
  | 0x024 => bitsMask 38 32 ||| bitsMask 5 4 ||| bitsMask 2 0
  | 0x025 => bitsMask 55 1
  | 0x028 => bitsMask 4 0
  | 0x029 => bitsMask 63 0
  | _ => 0#64

/-- A register kept per thread, but for what comes from elsewhere: THSTAT's bits IPE, IPM and IPT (R378). -/
def Thread.cr (t : Thread) (sel : Nat) : Word :=
  match sel with
  | 0x000 => t.thstat
  | 0x001 => t.tvec
  | 0x002 => t.epc
  | 0x003 => t.cause
  | 0x004 => t.tval
  | 0x005 => t.timecmp
  | 0x007 => t.frzto
  | 0x008 => t.thaw
  | 0x010 => t.asid
  | 0x011 => t.ptbase
  | 0x012 => t.ttbase
  | 0x018 => t.frm
  | 0x019 => t.fstat
  | 0x01A => t.rstat
  | 0x020 => t.estat
  | 0x021 => t.cstat
  | 0x022 => setField (setField t.vstat 47 40 t.laneReq) 39 32 t.grant
  | 0x023 => t.vfpc
  | 0x024 => t.mstat
  | 0x025 => t.mfpc
  | 0x028 => t.tdomain
  | 0x029 => t.vtime
  | _ => 0#64

/-- Replaces a register kept per thread; REQ and GRANT of VSTAT stay where the claim keeps them. -/
def Thread.setCr (t : Thread) (sel : Nat) (x : Word) : Thread :=
  let x := x &&& crBits sel
  match sel with
  | 0x000 => { t with thstat := x &&& ~~~(bitsMask 19 19 ||| bitsMask 17 16) }
  | 0x001 => { t with tvec := x }
  | 0x002 => { t with epc := x }
  | 0x003 => { t with cause := x }
  | 0x004 => { t with tval := x }
  | 0x005 => { t with timecmp := x }
  | 0x007 => { t with frzto := x }
  | 0x008 => { t with thaw := x }
  | 0x010 => { t with asid := x }
  | 0x011 => { t with ptbase := x }
  | 0x012 => { t with ttbase := x }
  | 0x018 => { t with frm := x }
  | 0x019 => { t with fstat := x }
  | 0x01A => { t with rstat := x }
  | 0x020 => { t with estat := x }
  | 0x021 => { t with cstat := x }
  | 0x022 => { t with vstat := x &&& ~~~(bitsMask 47 32) }
  | 0x023 => { t with vfpc := x }
  | 0x024 => { t with mstat := x }
  | 0x025 => { t with mfpc := x }
  | 0x028 => { t with tdomain := x }
  | 0x029 => { t with vtime := x }
  | _ => t

end Sys2Proof.Machine
end

