-- ==== Sys2Proof/Machine/Context.lean ====
section
/-! DEFINITION. Saved contexts: the image of a thread (R391), its place in memory, CTXPARK and CTXLOAD (R392, R393), the
halt of a slot and its answers (R394, R395), resumption (R316, R227), and the arrival of a migrated context (R375, R376).
The saved thread stands among the threads of State; its image is written from it, and kept in step with it. -/

namespace Sys2Proof.Machine

/-! The image (R391). -/

/-- The registers of the block at 0x180, in their order. -/
def imageRegs : List Nat :=
  [0x000, 0x001, 0x002, 0x003, 0x004, 0x005, 0x010, 0x011, 0x012, 0x018, 0x019, 0x01A, 0x020, 0x021, 0x022, 0x023, 0x024,
   0x025, 0x028, 0x029, 0x007]

/-- The model's number of a stream's state, 0 for no stream. -/
def streamNumber : Option Stream → Nat
  | none => 0
  | some x => 1 + (if x.output then 2 else 0) + x.ch * 4 + x.ring * 2 ^ 6 + x.size * 2 ^ 32 + x.moved * 2 ^ 64 +
      x.used * 2 ^ 128 + x.pat.toNat * 2 ^ 192

/-- The resume address: after the instruction whose answer is outstanding, and otherwise at it (R391). -/
def Thread.resumePc (t : Thread) : Word := if t.outstanding.isSome then t.pc + 4#64 else t.pc

/-- RSN as SAVEST has it. -/
def Resume.code : Resume → Nat
  | .atPc => 0
  | .reissue => 1
  | .wait => 2
  | .answer => 3

/-- SAVEST but for CHECK (R391). -/
def Thread.savest (t : Thread) (p : Park) (key : Nat) : Word :=
  BitVec.ofNat 64 (2 ^ 63 + (if p.sched then 2 ^ 62 else 0) + (if t.frozen.isSome then 2 ^ 61 else 0) +
    (if t.sb.isEmpty then 2 ^ 60 else 0) + (if t.outstanding.isNone then 2 ^ 59 else 0) + p.rsn.code * 2 ^ 45 +
    p.ans * 2 ^ 36 + p.sbcnt * 2 ^ 32 + key % 32768 * 2 ^ 16)

/-- The three words of an inbox entry; zero without a message. -/
def inboxWords : Option Message → List Word
  | some m => [m.payload, m.meta_ ||| 0x8000000000000000#64, m.ts]
  | none => [0#64, 0#64, 0#64]

/-- The word of a binding: V, END and the queue. -/
def bindingWord : Option Binding → Word
  | some b => BitVec.ofNat 64 (2 ^ 63 + (if b.producer then 2 ^ 11 else 0) + b.queue.toNat)
  | none => 0#64

/-- The 256 words of an image, CHECK zero, with what THSTAT shows (R378, R391). -/
def Thread.imageWords (t : Thread) (p : Park) (key : Nat) (thstat : Word) : List Word :=
  (0#64 :: t.g.toList.tail) ++ t.bt.toList.map btImage ++
  t.loops.toList.flatMap (fun l => [l.lc.zeroExtend 64, l.ls.zeroExtend 64, l.le.zeroExtend 64]) ++
  [qImage t.q, t.resumePc] ++ (thstat :: imageRegs.tail.map t.cr) ++ [t.savest p key, 0#64, 0#64] ++
  t.held.toList.flatMap (fun f => match f with
    | some f => [BitVec.ofNat 64 f.code, f.addr]
    | none => [0#64, 0#64]) ++
  (List.range 16).flatMap (fun i => inboxWords t.inbox[i]?) ++ t.bind.toList.map bindingWord ++
  t.streams.toList.flatMap (fun x => (List.range 8).map fun i => (Config.streamImage (streamNumber x)).extractLsb' (64 * i) 64) ++
  List.replicate 60 0#64

/-- Place of SAVEST among the words. -/
def savestIndex : Nat := 69

/-- The exclusive-or of the four halfwords of a word. -/
def foldHalves (x : Word) : Nat :=
  Nat.xor (Nat.xor (wfield x 15 0) (wfield x 31 16)) (Nat.xor (wfield x 47 32) (wfield x 63 48))

/-- CHECK of an image: the exclusive-or of every other halfword (R391). -/
def imageCheck (ws : List Word) : Nat :=
  let s := ws.getD savestIndex 0#64
  ((ws.set savestIndex (s &&& ~~~(bitsMask 15 0))).map foldHalves).foldl Nat.xor 0

/-- Physical address of word i of an image (R149, R391, R392). -/
def Park.wordPa (p : Park) (i : Nat) : Option Nat :=
  p.image.map fun a => match p.cluster with
    | some c => clusterPa c (a + 8 * i)
    | none => a + 8 * i

/-- The words of an image as memory holds them. -/
def State.readImage (s : State) (p : Park) : List Word :=
  (List.range 256).map fun i => match p.wordPa i with
    | some a => s.word a
    | none => 0#64

/-- The first address of an image that holds a poisoned byte, as its accesses name it (R147). -/
def State.imagePoison (s : State) (p : Park) : Option Nat :=
  ((List.range 256).find? fun i => (p.wordPa i).any fun a => s.poisoned a 8).bind fun i => p.image.map (· + 8 * i)

/-- Writes a word of an image; one in a wider poisoned unit leaves the unit unchanged (R147; log 107). -/
def State.writeImageWord (s : State) (p : Park) (i : Nat) (x : Word) : State :=
  match p.wordPa i with
  | some a => s.perform a (leBytes 8 x.toNat)
  | none => s
/-- The write of a whole image covers every poisoned unit there (R147). -/
def State.clearImage (s : State) (p : Park) : State :=
  match p.image with
  | some a => if p.cluster.isSome then s else s.clearPoison a 2048
  | none => s

/-- Recomputes CHECK of an image in memory (R391). -/
def State.checkImage (s : State) (p : Park) : State :=
  let ws := s.readImage p
  s.writeImageWord p savestIndex (setField (ws.getD savestIndex 0#64) 15 0 (imageCheck ws))

/-- Writes the whole image of a saved context. -/
def State.writeImage (s : State) (key : Nat) : State :=
  let t := s.thread key
  match t.park with
  | some p => (((t.imageWords p key (s.thstat key)).zipIdx).foldl (fun s w => s.writeImageWord p w.2 w.1) (s.clearImage p)).checkImage p
  | none => s

/-- Writes what has changed of a saved context into its image: the commands, transfers, stores, messages and interrupts of a saved
thread update it (R118, R172, R235, R260, R378, R391). -/
def State.syncContext (s : State) (before : Thread) (shown : Word) (key : Nat) : State :=
  let t := s.thread key
  match t.park with
  | some p =>
    if before == t && shown == s.thstat key then s
    else
      let pairs := ((before.imageWords p key shown).zip (t.imageWords p key (s.thstat key))).zipIdx
      let changed := pairs.filter fun w => w.1.1 != w.1.2
      if changed.isEmpty then s
      else (changed.foldl (fun s w => s.writeImageWord p w.2
        (if w.2 = savestIndex then setField w.1.2 15 0 0 else w.1.2)) s).checkImage p
  | none => s

/-- Every context that was saved before a step and still is keeps its image in step with it. -/
def State.syncContexts (s before : State) : State :=
  before.saved.foldl (fun s k => if (s.thread k).park.isSome then s.syncContext (before.thread k) (before.thstat k) k else s) s

/-! From an image (R316, R391). -/

/-- Clears bit 0 of an address of 56 bits. -/
def even56 (x : Word) : BitVec 56 := (x &&& ~~~1#64).truncate 56

/-- A branch-target register of an image: bit 0 of the target reads 0, and it is stale if it is valid (R35, R316). -/
def btOfImage (x : Word) : BtReg := { target := even56 x, v := x.getLsbD 63, s := x.getLsbD 63, win := .none }

/-- The inbox of an image. -/
def inboxOf (ws : List Word) : List Message :=
  (List.range 16).filterMap fun i =>
    let w (j : Nat) := ws.getD (80 + 3 * i + j) 0#64
    if (w 1).getLsbD 63 then
      some { payload := w 0, tsFlag := (w 1).getLsbD 24, ch := (w 1).extractLsb' 22 2, tag := (w 1).extractLsb' 16 6
             sender := (w 1).extractLsb' 0 15, ts := w 2 }
    else none

/-- The binding of an image's word. -/
def bindingOf (x : Word) : Option Binding :=
  if x.getLsbD 63 then some { queue := x.extractLsb' 0 11, producer := x.getLsbD 11 } else none

/-- A vector of four from a function. -/
def vec4 (f : Nat → α) : Vector α 4 := #v[f 0, f 1, f 2, f 3]
/-- A vector of eight from a function. -/
def vec8 (f : Nat → α) : Vector α 8 := #v[f 0, f 1, f 2, f 3, f 4, f 5, f 6, f 7]

/-- A saved thread with what its image holds; the pending counts, the streams and the claim are the device's own (R391). Bit 0 of a
loop address reads 0, and so does that of the resume address (R34; log 96). FRM is taken as it stands, RM 5 to 7 included (log
106). -/
def Thread.fromImage (t : Thread) (ws : List Word) : Thread :=
  let w (i : Nat) := ws.getD i 0#64
  let loop (i : Nat) : LoopSet :=
    { lc := (w i).truncate 32, ls := even56 (w (i + 1)), le := even56 (w (i + 2)), stale := true, win := .none }
  let r := (imageRegs.zipIdx).foldl (fun (x : Thread) p => x.setCr p.1 (w (48 + p.2))) t
  let r := ((r.setPend 0#2 (t.pend 0#2)).setPend 1#2 (t.pend 1#2)).setPend 2#2 (t.pend 2#2) |>.setPend 3#2 (t.pend 3#2)
  { r with
    g := (List.range 32).foldl (fun (v : Vector Word 32) i => regSet v (BitVec.ofNat 5 i) (if i = 0 then 0#64 else w i)) t.g
    bt := vec8 fun i => btOfImage (w (32 + i))
    loops := #v[loop 40, loop 43]
    q := qUnpack (w 46)
    pc := w 47 &&& ~~~1#64
    held := vec4 fun i => if w (72 + 2 * i) = 0#64 then none else
      some { code := (w (72 + 2 * i)).toNat, addr := w (73 + 2 * i), seq := match get4 t.held (BitVec.ofNat 2 i) with
        | some f => f.seq
        | none => 0 }
    inbox := inboxOf ws
    bind := vec4 fun i => bindingOf (w (128 + i))
    frozen := if (w savestIndex).getLsbD 61 then some (t.frozen.getD { code := 0, tval := 0, violation := true }) else none }

/-! Forwarding (R347, R376, R393). -/

/-- Drops every forwarding entry that names a thread, a slot's or a saved one, and frees the old slots (R376). -/
def State.dropForward (s : State) (h : Nat) : State :=
  let olds := s.dies.flatMap fun d => (d.2.forward.filter fun f => f.2 == h).map (·.1)
  let s := { s with dies := s.dies.map fun d => (d.1, { d.2 with forward := d.2.forward.filter fun f => f.2 != h }) }
  olds.foldl (fun s o => s.modThread o fun t => { t with reserved := false }) s

/-- Records that the thread of a slot had another handle: an older entry that names it is dropped. One that keeps its handle keeps
its entry (R376, R393). -/
def State.setForward (s : State) (old new : Nat) : State :=
  if old = new then s
  else ((s.dropForward new).modDie (dieOf old) fun d => { d with forward := assocSet old new d.forward }).modThread old
    fun t => { t with reserved := true }

/-! Slots (R368). -/

/-- Whether a slot is free: no thread, no forwarding entry that keeps it reserved, no piece being started on it, and
no takeover of its cluster (R361, R376, R396). -/
def State.slotFree (s : State) (h : Nat) : Bool :=
  let t := s.thread h
  t.kind == .empty && !t.reserved && !s.tileStopped (tileOf h) && !(s.launches.any fun l => l.2.starting == some h)
/-- Whether a queue owns a slot (R368). -/
def Thread.ownedBy (t : Thread) (q : Nat) : Bool := t.lqV && t.lqQueue.toNat == q
/-- The handles of the slots of a tile. -/
def tileSlots (tile : Nat) : List Nat := (List.range 64).map (64 * tile + ·)
/-- The handles of the slots of a core. -/
def coreSlots (core : Nat) : List Nat := (List.range 8).map (8 * core + ·)
/-- The free slots of a list that admit a queue's work (R368). -/
def State.admitting (s : State) (l : List Nat) (q : Nat) : List Nat := l.filter fun h => s.slotFree h && (s.thread h).ownedBy q
/-- The slot a context of a core resumes on: that of its handle if it is free for it, and otherwise the lowest (R393; log 27). -/
def State.resumeSlot (s : State) (handle q : Nat) : Option Nat :=
  let l := (s.admitting (coreSlots (coreOf handle)) q).filter fun h => handle == h || s.canForward handle
  if l.contains handle then some handle else l.head?

/-! Resumption (R225, R227, R316, R391). -/

/-- Whether a saved context may resume: its stores have performed and no answer is outstanding (R395). -/
def Thread.resumable (t : Thread) : Bool := t.sb.isEmpty && t.outstanding.isNone

/-- SAVEST.V of a saved context's image clears: the context is resumed or gone (R391, R393). -/
def State.closeImage (s : State) (p : Park) : State :=
  if p.image.isSome then
    (s.writeImageWord p savestIndex (((s.readImage p).getD savestIndex 0#64) &&& ~~~(bitsMask 63 63))).checkImage p
  else s

/-- Resumes a saved context on a slot: it takes what its image holds, SAVEST.V clears, and its lanes are renegotiated once its
vector commands have executed (R224, R225, R316, R391). Of an image with poison it takes POISON as a trap at once (R147; log 107). -/
def State.resume (s : State) (key h : Nat) : State :=
  let t := s.thread key
  let bad := t.park.bind s.imagePoison
  let s := match t.park with
    | some p =>
      if p.image.isSome then (s.closeImage p).setThread key (t.fromImage (s.readImage p)) else s
    | none => s
  let s := (s.setThread key { (s.thread key).asContext with halt := none }).attach key h
  let s := ((s.setForward (key % 32768) h).renegotiateNext h).noteWork (s.thread h)
  match bad.filter fun _ => (s.thread h).frozen.isNone with
  | some a =>
    let u := s.focus h
    (u.trapEntry false false 0 0 (code 1 13) (BitVec.ofNat 64 a) u.th.pc).focus s.cur
  | none => s

/-- CONTEXT_RESUME: a context that the scheduler saved resumes on a slot of its core that its queue owns (R316, R370, R371,
R394). -/
def execContextResume (slot : Nat) (s : State) : Host.Outcome State Fault Refusal :=
  let t := s.thread slot
  event (match t.park with
    | some p =>
      if p.sched && p.image.isSome && t.resumable then
        match s.resumeSlot (slot % 32768) t.lqQueue.toNat with
        | some h => s.resume slot h
        | none => s
      else s
    | none => s)

/-! Halting (R370, R371, R394, R395). -/

/-- RSN of a slot that halts (R395). -/
def Thread.haltReason (t : Thread) : Resume :=
  match t.outstanding with
  | some o => (match o.req with
    | .rational .. => .reissue
    | _ => .answer)
  | none => match t.wait with
    | none => .atPc
    | some .fetch => .atPc
    | some .mwait | some .wfi | some .gbar | some .cwait | some .sfence | some .mfence | some .vfence | some .kdrain
    | some .tdone | some .queue | some .window => .wait
    | some _ => .reissue

/-- ADST, AQ and AQV of a slot that halts, as SAVEST[44:36] has them (R391). -/
def Thread.haltAnswer (t : Thread) : Nat :=
  match t.outstanding with
  | some o => (match o.req with
    | .rational .. => 0
    | .group (.new d) => d.toNat * 2 ^ 4 + o.qd.toNat * 2 + 1
    | .group (.count d) => d.toNat * 2 ^ 4
    | .atomic _ d .. => d.toNat * 2 ^ 4
    | .group .leave | .group .free => 0
    | _ => o.qd.toNat * 2 + 1)
  | none => 0

/-- A slot's thread with its rational operation abandoned (R220, R395). -/
def Thread.abandon (t : Thread) : Thread :=
  match t.outstanding with
  | some o => (match o.req with
    | .rational .. => { t with outstanding := none }
    | _ => t)
  | none => t

/-- The frames of a tile's CTXBASE area that no saved context uses (R394). -/
def State.freeFrames (s : State) (tile : Nat) : List Nat :=
  let b := (s.tile tile).ctxbase
  if b.getLsbD 0 then
    let used := (s.threads.filter fun t => t.2.park.isSome).filterMap fun t => t.2.park.bind (·.image)
    ((List.range 512).map fun i => wfield b 51 20 * 2 ^ 20 + 2048 * i).filter fun a => !used.contains a
  else []

/-- Whether a thread waits for a rational operation (R219). -/
def Thread.inRational (t : Thread) : Bool := match t.outstanding with
  | some o => (match o.req with
    | .rational .. => true
    | _ => false)
  | none => false

/-- Saves the context of a slot: the thread leaves the slot, and its image is written. EPC of a thread that was halted
while a transfer waits for its prepared window, or in a rational operation, holds that instruction's address, as its resume address
does (R220, R312; log 97). -/
def State.saveContext (s : State) (h : Nat) (image : Nat) (cluster : Option Nat) (sched yielded : Bool) : State :=
  let t := s.thread h
  let p : Park := { image := some image, cluster := cluster, sched := sched, rsn := if sched then t.haltReason else .atPc
                    ans := if sched then t.haltAnswer else 0, sbcnt := t.sb.length, wait := if sched then t.wait else none, yielded := yielded }
  let epc := if sched && ((t.wait == some .window && t.entering.isNone) || t.inRational) then t.pc else t.epc
  let r := (s.setThread h { t.abandon with halt := none, epc := epc }).detach h p
  r.2.writeImage r.1

/-- A slot that passes to a queue (R368, R371). -/
def Thread.passTo (t : Thread) (q : Nat) : Thread := { t with lqV := true, lqQueue := BitVec.ofNat 12 q, lqMove := false }

/-! CTXPARK and CTXLOAD (R392, R393). -/

/-- The place of an image that a tagged address names: its space and alignment, translation, permission and every other
check of a store of the issuer's, or of a read and a write (R245, R392, R393). -/
def imagePlace (ga : Word) (k : AccessKind) : Act (Nat × Option Nat) := do
  require (wfield ga 61 56 == 0 && ga.toNat % 2048 == 0) 0 5 ga
  let a := BitVec.ofNat 64 (wfield ga 55 0)
  if wfield ga 63 62 = 2 then
    require (decide (a.toNat < 0x800000)) 1 11 a
    let s ← get
    let c := coreOf s.cur
    let pas := (List.range 256).map fun i => clusterPa c (a.toNat + 8 * i)
    if pas.any fun pa => !s.lmPermits s.issuer pa k then violation 1 10 a
    else
      waitUntil .watermark fun s => pas.all fun pa => !s.unlanded pa 8 0
      seqActs (pas.map fun pa => specAccess pa 8 true)
      return (a.toNat, some c)
  else
    let l ← locate a (ga.extractLsb' 62 2) 2048 k
    if k = .rmw then commitWrite a l 2048
    let s ← get
    let h := s.homeLines (.slot s.cur) s.requester l.pa 2048 true
    set h.1
    if h.2 && !s.stopped l.pa then return (l.pa, none) else waitFor .memoryReply

/-- CTXPARK: the calling thread is saved at g[a], to resume at g[b], whose bit 0 reads 0; with EXL = 1 as if an ERET had taken it there
(R392; log 96). -/
def execCtxpark (a b : BitVec 5) (s : State) : Host.Outcome State Fault Refusal :=
  done (do
    requireS
    useRegs [a, b] []
    escalate
    let s ← get
    let p ← imagePlace (s.rd a) .store
    let pc := s.rd b
    modify fun s => s.popSources [a, b]
    modTh fun t =>
      let t := t.settle
      { t with pc := pc &&& ~~~1#64, thstat := if t.exl then thstatReturn t.thstat else t.thstat }
    modify fun s => s.saveContext s.cur p.1 p.2 false false) s

/-- Whether an image is well-formed for a core: V, CHECK, the zero fields and the core of HANDLE; a mode field of 2 is no mode
(R378, R391, R393). -/
def imageForm (core : Nat) (ws : List Word) : Bool :=
  let w (i : Nat) := ws.getD i 0#64
  let st := w savestIndex
  st.getLsbD 63 && imageCheck ws == wfield st 15 0 && wfield st 58 48 == 0 && !st.getLsbD 31 &&
  w 70 == 0#64 && w 71 == 0#64 && (List.range 60).all (fun i => w (196 + i) == 0#64) &&
  wfield st 30 16 / 8 == core && wfield (w 48) 9 8 != 2 && wfield (w 48) 11 10 != 2

/-- CTXLOAD (R393). An image that no saved context of the device has is resumed as a persistent thread with nothing pending
(log 28). -/
def execCtxload (q : BitVec 3) (a : BitVec 5) (s : State) : Host.Outcome State Fault Refusal :=
  done (do
    requireS
    useRegs [a] []
    escalate
    let s ← get
    let ga := s.rd a
    let p ← imagePlace ga .rmw
    let s ← get
    let place : Park := { image := some p.1, cluster := p.2, sched := false, rsn := .atPc, ans := 0, sbcnt := 0, wait := none, yielded := false }
    match s.imagePoison place with
    | some x => fault 1 13 (BitVec.ofNat 64 (wfield ga 55 0 + (x - p.1)))
    | none => pure ()
    let ws := s.readImage place
    let st := ws.getD savestIndex 0#64
    require (imageForm (coreOf s.cur) ws) 0 10 ga
    require (decide (wfield (ws.getD 48 0#64) 9 8 ≤ s.th.mode.toNat)) 0 11 ga
    let known := s.saved.find? fun k => (s.thread k).park.any fun x => x.image == some p.1 && x.cluster == p.2
    waitUntil .memoryReply fun _ => st.getLsbD 60 && st.getLsbD 59
    waitUntil .memoryReply fun s => match known with
      | some k => (s.thread k).resumable
      | none => true
    match if s.th.lqV then s.resumeSlot (wfield st 30 16) s.th.lqQueue.toNat else none with
    | none =>
      if q = 0#3 then fault 5 30 ga
      else
        modify fun s => s.setQ q false
        finish 4 [a] []
    | some h =>
      modify fun s => match known with
        | some k => s.resume k h
        | none =>
          let (n, s) := s.freshen
          let key := wfield st 30 16 + 32768 * n
          (s.setThread key { Thread.reset with kind := .persistent, park := some place }).resume key h
      modify fun s => s.setQ q true
      finish 4 [a] []) s

end Sys2Proof.Machine
end

