-- ==== Sys2Proof/WellFormed.lean ====
section
/-! DEFINITION. Which instruction terms are well formed: the modifiers that R32 and the instructions' own rules
exclude, and for a device event the bounds of the agents it names (R2). -/

namespace Sys2Proof

/-- Compute dies of the package (R2). -/
def numDies : Nat := 4
/-- Active tiles of one die: the tile numbers 0 to 71 of a handle (R2, R347). -/
def tilesPerDie : Nat := 72

/-- Whether a handle names a thread slot: its tile is at most 71 (R347). -/
def slotOk (h : Nat) : Bool := decide (h < 2 ^ 15) && decide (h / 64 % 128 < tilesPerDie)
/-- Whether a number names a slot or a saved context, which is a handle + 32,768 × n (R391). -/
def threadOk (h : Nat) : Bool := slotOk (h % 2 ^ 15)
/-- Whether a core key (a handle / 8) names a core. -/
def coreOk (c : Nat) : Bool := slotOk (8 * c)
/-- Whether a tile key (a handle / 64) names a tile. -/
def tileOk (t : Nat) : Bool := slotOk (64 * t)
/-- Whether a die number names a compute die. -/
def dieOk (d : Nat) : Bool := decide (d < numDies)

/-- Well-formed instructions and events. -/
def Instr.wf (i : Instr) : Bool :=
  match i with
  | .tvecWrite _ => true
  | .crumbbaseWrite _ => true
  | .spillctlWrite _ => true
  -- an event names agents the device has (R2, R347)
  | .thawMaster _ _ handle => slotOk handle
  | .discardMaster _ _ handle => slotOk handle
  | .monctlWrite _ _ => true
  | .registerWrite _ _ => true
  | .gets core _ => coreOk core
  | .getm core _ => coreOk core
  | .upg core _ => coreOk core
  | .pute core _ => coreOk core
  | .putm core _ => coreOk core
  | .inv core _ => coreOk core
  | .fwd core _ => coreOk core
  | .ack core _ => coreOk core
  | .dack core _ => coreOk core
  | .grant core _ => coreOk core
  | .fill core _ => coreOk core
  | .wback core _ => coreOk core
  | .uncachedHomeAccess _ _ => true
  | .bisnp _ => true
  | .storeBufferDrain slot entry => threadOk slot && decide (entry < 8)
  | .walkRequest die => dieOk die
  | .walkResult die => dieOk die
  | .adUpdate die => dieOk die
  | .tlbiDrop _ => true
  | .tensorCacheDrop _ => true
  | .windowArrival slot win => slotOk slot && decide (win < 11)
  | .windowFetchFailure slot win => slotOk slot && decide (win < 11)
  | .fetchBufferArrival slot => slotOk slot
  | .interruptTake slot => slotOk slot
  | .timerExpiry slot => slotOk slot
  | .frozenCommandReport slot => slotOk slot
  | .transferStart tile ch => tileOk tile && decide (ch < 16)
  | .lineReturn tile ch => tileOk tile && decide (ch < 16)
  | .transferComplete tile ch => tileOk tile && decide (ch < 16)
  | .handlePush tile ch => tileOk tile && decide (ch < 16)
  | .followOnPlacement tile ch => tileOk tile && decide (ch < 16)
  | .streamRefill tile ch => tileOk tile && decide (ch < 16)
  | .streamDrain tile ch => tileOk tile && decide (ch < 16)
  | .remoteWriteAck tile ch _ => tileOk tile && decide (ch < 16)
  | .inboundRdmaWrite _ _ _ => true
  | .inboundRdmaRead _ _ _ => true
  | .unsupportedOperation _ => true
  | .queuePushArrival _ => true
  | .queueCreditReturn _ => true
  | .stackSnapshot core => coreOk core
  | .stackElement core => coreOk core
  | .stackCommandComplete core => coreOk core
  | .vectorCommandExecute slot => threadOk slot
  | .binUpdate core => coreOk core
  | .matrixQueueHead core => coreOk core
  | .arrayCommandStart tile => tileOk tile
  | .matrixCommandComplete core => coreOk core
  | .arrayRampupDone tile => tileOk tile
  | .arrayIdleTimeout tile => tileOk tile
  | .arrayHoldTimeout tile => tileOk tile
  | .arrayRampdownDone tile => tileOk tile
  | .spawnArrival slot => threadOk slot
  | .spawnAnswer slot => slotOk slot
  | .taskReload tile => tileOk tile
  | .taskDispatch slot => slotOk slot
  | .crumbRestore tile entry => tileOk tile && decide (entry < 128)
  | .virtualTimeSample => true
  | .gvtPublish => true
  | .domainAgeExpiry dom => decide (dom < 16)
  | .messageArrival slot => threadOk slot
  | .messageAnswer slot => slotOk slot
  | .launchExpansion _ => true
  | .launchRecordRead _ => true
  | .pieceStart slot => slotOk slot
  | .lmImageCopy slot => slotOk slot
  | .launchCompletionUpdate _ => true
  | .rotationBoundary => true
  | .preemptionRequest tile prio => tileOk tile && decide (prio < 8)
  | .slotHalt slot => slotOk slot
  | .answerWrite slot => threadOk slot
  | .contextResume slot => threadOk slot
  | .migrationArrival slot => slotOk slot
  | .idleTreeSample => true
  | .powerControlSample _ => true
  | .correctedError tile => tileOk tile
  | .uncorrectableError _ tile _ => tileOk tile
  | .takeoverComplete die cluster => dieOk die && decide (cluster < 18)
  | .flitCrcFailure _ => true
  | .linkDown _ => true
  | .linkDegraded _ => true
  | .cxlFailure _ _ _ => true
  | .powerOn => true
  | .romchkComplete _ => true
  | .trainingComplete => true
  | .initComplete => true
  | .regionGating die cluster => dieOk die && decide (cluster < 18)
  | .identity _ => true
  | .attest _ _ => true
  | .bootcfg _ _ _ _ _ _ _ _ => true
  | .qcreate _ _ _ _ _ _ _ _ _ => true
  | .qset _ _ _ _ => true
  | .qdelete _ _ => true
  | .launch _ _ _ => true
  | .qstatus _ _ => true
  | .epset _ _ _ _ _ _ _ => true
  | .mrreg _ _ _ _ _ _ => true
  | .errlog _ _ => true
  | .linkstat _ => true
  | .cxlinfo _ => true
  | .power _ _ _ => true
  | .sparemap _ => true
  | .resetOrderly _ => true
  | .resetFatal _ => true
  | .rationalOperationComplete slot => slotOk slot
  | .groupAnswer slot => slotOk slot
  | .lnchAnswer slot => slotOk slot
  | .badop _ _ => true
  | .rdmaRetriesExhausted tile ch => tileOk tile && decide (ch < 16)
  | .keptConfigurationReapplied => true
  -- the halfword 0x0000 is no instruction (R26)
  | .vmov d b m => !(d == 0#5 && b == 0#5 && m == 0#1)
  | .vaddShort _ _ _ => true
  | .vsubShort _ _ _ => true
  | .vmulShort _ _ _ => true
  | .vandShort _ _ _ => true
  | .vorShort _ _ _ => true
  | .vxorShort _ _ _ => true
  | .vminShort _ _ _ => true
  | .vmaxShort _ _ _ => true
  | .vfaddShort _ _ _ => true
  | .vfsubShort _ _ _ => true
  | .vfmulShort _ _ _ => true
  | .vfminShort _ _ _ => true
  | .vfmaxShort _ _ _ => true
  | .vfneg _ _ _ => true
  | .vabs _ _ _ => true
  | .vadd _ _ _ _ _ => true
  | .vsub _ _ _ _ _ => true
  | .vmul _ _ _ _ _ => true
  | .vmin _ _ _ _ _ => true
  | .vmax _ _ _ _ _ => true
  | .vand _ _ _ _ _ => true
  | .vor _ _ _ _ _ => true
  | .vxor _ _ _ _ _ => true
  | .vsll _ _ _ _ _ => true
  | .vsrl _ _ _ _ _ => true
  | .vsra _ _ _ _ _ => true
  | .vaddsat _ _ _ _ _ => true
  | .vdot4 _ _ _ _ => true
  -- a floating operation has no 8-bit elements (R32, R240 to R242, R249)
  | .vfadd _ _ _ _ w => w != 0#2
  | .vfsub _ _ _ _ w => w != 0#2
  | .vfmul _ _ _ _ w => w != 0#2
  | .vfma _ _ _ _ w => w != 0#2
  | .vfmin _ _ _ _ w => w != 0#2
  | .vfmax _ _ _ _ w => w != 0#2
  | .vrcp _ _ _ w => w != 0#2
  | .vrsq _ _ _ w => w != 0#2
  | .vrcps _ _ _ _ w => w != 0#2
  | .vrsqs _ _ _ _ w => w != 0#2
  | .vcmpeq _ _ _ _ _ => true
  | .vcmplt _ _ _ _ _ => true
  | .vcmpltn _ _ _ _ _ => true
  | .vfcmpeq _ _ _ _ _ => true
  | .vfcmplt _ _ _ _ _ => true
  | .vsel _ _ _ _ _ => true
  | .vcvt _ _ _ _ => true
  | .vlut _ _ _ _ => true
  | .vbcast _ _ _ _ => true
  | .vld _ _ _ _ => true
  | .vst _ _ _ _ => true
  | .vlds _ _ _ _ _ => true
  | .vsts _ _ _ _ _ => true
  | .vldx _ _ _ _ _ => true
  | .vstx _ _ _ _ _ => true
  | .vstxa _ _ _ _ _ => true
  | .vldt _ _ _ _ => true
  | .vstt _ _ _ _ => true
  | .vperm _ _ _ _ _ => true
  | .vrotl _ _ _ _ _ => true
  -- 64-bit elements are illegal (R248)
  | .vtrans _ w => w != 3#2
  | .vrsum _ _ _ _ => true
  | .vrmin _ _ _ _ => true
  | .vrmax _ _ _ _ => true
  -- a floating operation has no 8-bit elements (R32, R240 to R242, R249)
  | .vfrsum _ _ _ w => w != 0#2
  | .vscan _ _ _ _ => true
  | .vcompress _ _ _ _ => true
  | .vexpand _ _ _ _ => true
  -- 8-bit elements are illegal (R250)
  | .vselk _ _ _ _ w => w != 0#2
  | .viota _ _ _ => true
  | .vpopk _ _ _ => true
  | .ksend _ _ _ _ => true
  | .vclaim _ _ => true
  | .vreneg _ => true
  | .vrel => true
  | .vsetw _ => true
  | .vmvg _ _ _ _ => true
  | .vmvv _ _ _ _ => true
  | .vfence => true
  | .vbusyq _ => true
  | .kset _ _ => true
  | .kget _ _ => true
  -- the mode of an operand fetch is .l or .c (R258)
  | .mma _ m _ _ _ => m != 0#2 && m != 3#2
  | .mmas _ m _ _ _ => m != 0#2 && m != 3#2
  | .mspx _ m _ _ _ => m != 0#2 && m != 3#2
  | .mzero _ _ => true
  -- the mode 11 is illegal (R258)
  | .mldacc _ m _ _ _ => m != 3#2
  | .mstacc _ m _ _ _ => m != 3#2
  | .mwbld m _ _ _ => m != 3#2
  | .tzset _ _ _ _ => true
  | .mburst _ => true
  | .mfence => true
  | .sgath _ _ _ _ => true
  | .sscat _ _ _ => true
  -- an operation of 3 is illegal (R105, R32)
  | .sred _ _ _ o => o.extractLsb' 0 2 != 3#2
  | .sconv _ _ _ => true
  | .sfence => true
  | .sstat _ => true
  | .cpy _ _ _ _ => true
  | .cpya _ _ _ => true
  | .cpymx _ _ _ _ => true
  | .cwm _ _ => true
  | .cwait _ _ => true
  | .cstrm _ _ _ _ => true
  | .cstrmx _ _ _ _ => true
  | .cperm _ _ _ _ => true
  | .cstop _ _ => true
  | .add _ _ _ => true
  | .sub _ _ _ => true
  | .and _ _ _ => true
  | .or _ _ _ => true
  | .xor _ _ _ => true
  | .andn _ _ _ => true
  | .sll _ _ _ => true
  | .srl _ _ _ => true
  | .sra _ _ _ => true
  | .rol _ _ _ => true
  | .mul _ _ _ => true
  | .mulh _ _ _ => true
  | .mulhn _ _ _ => true
  | .div _ _ _ => true
  | .divn _ _ _ => true
  | .rem _ _ _ => true
  | .remn _ _ _ => true
  | .min _ _ _ => true
  | .max _ _ _ => true
  | .minn _ _ _ => true
  | .maxn _ _ _ => true
  | .clz _ _ => true
  | .ctz _ _ => true
  | .popc _ _ => true
  | .brev _ _ => true
  | .bswap _ _ => true
  | .sext _ _ _ => true
  | .bfx _ _ _ => true
  | .bfi _ _ _ _ => true
  | .sel _ _ _ _ => true
  | .addsat _ _ _ => true
  | .subsat _ _ _ => true
  | .madd _ _ _ _ => true
  | .addx _ _ _ _ => true
  | .addi _ _ _ => true
  | .andi _ _ _ => true
  | .ori _ _ _ => true
  | .xori _ _ _ => true
  | .slli _ _ _ => true
  | .srli _ _ _ => true
  | .srai _ _ _ => true
  | .mini _ _ _ => true
  | .maxi _ _ _ => true
  | .bfxi _ _ _ => true
  | .wimm _ _ _ => true
  | .wimmk _ _ _ => true
  -- a combine of 11 is illegal (R32)
  | .ceq _ c _ _ => c != 3#2
  | .cne _ c _ _ => c != 3#2
  | .clt _ c _ _ => c != 3#2
  | .cge _ c _ _ => c != 3#2
  | .cltn _ c _ _ => c != 3#2
  | .cgen _ c _ _ => c != 3#2
  | .ctst _ c _ _ => c != 3#2
  | .cbit _ c _ _ => c != 3#2
  | .ceqi _ c _ _ => c != 3#2
  | .cnei _ c _ _ => c != 3#2
  | .clti _ c _ _ => c != 3#2
  | .cgei _ c _ _ => c != 3#2
  | .cltni _ c _ _ => c != 3#2
  | .cgeni _ c _ _ => c != 3#2
  | .qand _ c _ _ => c != 3#2
  | .qor _ c _ _ => c != 3#2
  | .qnot _ c _ => c != 3#2
  | .qpack _ => true
  | .qunpack _ => true
  | .prep _ _ => true
  | .prepc _ _ => true
  | .prepr _ _ _ => true
  | .preprc _ _ _ => true
  | .btrd _ _ => true
  | .btclr _ => true
  | .jmp _ _ _ => true
  | .call _ _ _ => true
  | .jmpx _ _ _ => true
  | .lset _ _ _ => true
  | .lseti _ _ _ => true
  -- LRD names lc, ls or le (R318)
  | .lrd _ r _ => r != 3#2
  | .lwr _ r _ => r != 3#2
  | .lbrk _ => true
  -- a load or store order of 11 is illegal (R32)
  | .ldb _ _ _ r _ => r != 3#2
  | .ldh _ _ _ r _ => r != 3#2
  | .ldw _ _ _ r _ => r != 3#2
  | .ldd _ _ _ r _ => r != 3#2
  | .ldbn _ _ _ r _ => r != 3#2
  | .ldhn _ _ _ r _ => r != 3#2
  | .ldwn _ _ _ r _ => r != 3#2
  | .ldq _ _ _ r _ => r != 3#2
  | .stb _ _ _ r _ => r != 3#2
  | .sth _ _ _ r _ => r != 3#2
  | .stw _ _ _ r _ => r != 3#2
  | .std _ _ _ r _ => r != 3#2
  | .stq _ _ _ r _ => r != 3#2
  -- scope 7 is illegal (R32, R39)
  | .aadd _ _ _ _ s => s != 7#3
  | .aand _ _ _ _ s => s != 7#3
  | .aor _ _ _ _ s => s != 7#3
  | .axor _ _ _ _ s => s != 7#3
  | .amin _ _ _ _ s => s != 7#3
  | .amax _ _ _ _ s => s != 7#3
  | .aminn _ _ _ _ s => s != 7#3
  | .amaxn _ _ _ _ s => s != 7#3
  | .aswap _ _ _ _ s => s != 7#3
  | .acas _ _ _ _ s => s != 7#3
  | .afadds _ _ _ _ s => s != 7#3
  | .afaddd _ _ _ _ s => s != 7#3
  | .aaddW _ _ _ _ s => s != 7#3
  | .aandW _ _ _ _ s => s != 7#3
  | .aorW _ _ _ _ s => s != 7#3
  | .axorW _ _ _ _ s => s != 7#3
  | .aminW _ _ _ _ s => s != 7#3
  | .amaxW _ _ _ _ s => s != 7#3
  | .aminnW _ _ _ _ s => s != 7#3
  | .amaxnW _ _ _ _ s => s != 7#3
  | .aswapW _ _ _ _ s => s != 7#3
  | .acasW _ _ _ _ s => s != 7#3
  -- kind 00 and scope 7 are illegal (R303)
  | .fence k s => k != 0#2 && s != 7#3
  | .ifence => true
  | .qfence _ => true
  -- rounding codes 5 and 6 are illegal (R32, R221)
  | .faddd _ _ _ r _ => r != 5#3 && r != 6#3
  | .fsubd _ _ _ r _ => r != 5#3 && r != 6#3
  | .fmuld _ _ _ r _ => r != 5#3 && r != 6#3
  | .fdivd _ _ _ r _ => r != 5#3 && r != 6#3
  | .fsqrtd _ _ r _ => r != 5#3 && r != 6#3
  | .fmind _ _ _ => true
  | .fmaxd _ _ _ => true
  | .fmad _ _ _ _ => true
  | .fabsd _ _ => true
  | .fnegd _ _ => true
  | .fclassd _ _ => true
  | .fceqd _ _ _ => true
  | .fcltd _ _ _ => true
  | .fcled _ _ _ => true
  | .fadds _ _ _ r _ => r != 5#3 && r != 6#3
  | .fsubs _ _ _ r _ => r != 5#3 && r != 6#3
  | .fmuls _ _ _ r _ => r != 5#3 && r != 6#3
  | .fdivs _ _ _ r _ => r != 5#3 && r != 6#3
  | .fsqrts _ _ r _ => r != 5#3 && r != 6#3
  | .fmins _ _ _ => true
  | .fmaxs _ _ _ => true
  | .fmas _ _ _ _ => true
  | .fabss _ _ => true
  | .fnegs _ _ => true
  | .fclasss _ _ => true
  | .fceqs _ _ _ => true
  | .fclts _ _ _ => true
  | .fcles _ _ _ => true
  | .fcvt _ _ _ _ => true
  | .icvtf _ _ _ _ => true
  | .fcvti _ _ _ _ => true
  | .rmode _ _ => true
  | .rmake _ _ _ r _ => r != 5#3 && r != 6#3
  | .rnumer _ _ => true
  | .rdenom _ _ => true
  | .rmed _ _ _ r _ => r != 5#3 && r != 6#3
  | .rcf _ _ => true
  | .rfromd _ _ r _ => r != 5#3 && r != 6#3
  | .rtod _ _ r _ => r != 5#3 && r != 6#3
  | .tspawn _ _ _ _ => true
  | .tspawnn _ _ _ => true
  | .tspawnu _ _ _ => true
  | .callat _ _ _ => true
  | .tdone => true
  | .tts _ => true
  | .tgvt _ _ => true
  | .lnch _ _ _ => true
  | .tidleq _ _ => true
  | .msend _ _ _ => true
  | .msendt _ _ _ => true
  -- naming one register twice is illegal (R348)
  | .mrecv d a b _ => d != a && d != b && a != b
  | .mwait => true
  | .marm _ _ => true
  | .rqput _ _ _ => true
  | .rqtake _ _ => true
  | .kbin _ _ => true
  | .kdrain => true
  | .gnew _ _ => true
  | .gjoin _ _ => true
  | .gleave _ => true
  | .gbar _ => true
  | .gcount _ _ => true
  | .gfree _ => true
  | .qnew _ _ _ _ => true
  | .qbind _ _ => true
  | .qunbind _ _ => true
  | .qcnt _ _ => true
  | .qtry _ _ _ => true
  | .tdef _ _ => true
  | .trd _ _ _ => true
  -- scope 7 is illegal (R74)
  | .tinv _ s => s != 7#3
  | .lutld _ _ => true
  | .lutrd _ _ => true
  | .crr _ _ _ => true
  | .crw _ _ _ _ => true
  | .crs _ _ _ _ => true
  | .crc _ _ _ _ => true
  | .trap _ => true
  | .eret _ => true
  | .wfi => true
  | .tlbi _ _ => true
  | .tlbsync => true
  | .ctxpark _ _ => true
  | .ctxload _ _ => true
  | .brkpt => true
  | .monrd _ _ => true

end Sys2Proof
end

