-- ==== Sys2Proof/Decode.lean ====
section
/-! DEFINITION. The decoder: from the bytes at an instruction address to an instruction, or a named reason why the
word is no instruction; total on any bytes (R21 to R32). After it, the encoder of a well-formed instruction, from the
same layouts. A row of the opcode table without an encoding (a device event) has no words: the decoder never answers
one and the encoder gives it none. -/

namespace Sys2Proof

/-- Why bytes are no instruction. Every reason but truncated is an encoding of R32 and raises illegal-instruction 0.1
when issued (safe: the specified fault). -/
inductive DecodeError where
  /-- Fewer bytes than the instruction's length; the fetch never hands these on. -/
  | truncated
  /-- The halfword 0x0000 (R26). -/
  | zeroHalfword
  /-- Major 0x00 or 0x1C to 0x1F (R30). -/
  | reservedMajor
  /-- A function, kind or size value that R30 does not list. -/
  | reservedFunction
  /-- A reserved field that is not zero, or a fixed field with another value (R29). -/
  | reservedField
  /-- A modifier that the instruction's rule excludes (R32 and the rules WellFormed.lean names). -/
  | reservedModifier
  deriving DecidableEq, Repr

/-- The fields of the R format (R27), most significant first. -/
structure RFields where
  fn : BitVec 6
  c : BitVec 5
  b : BitVec 5
  a : BitVec 5
  d : BitVec 5
  deriving DecidableEq, Repr

/-- Cuts a 32-bit word into the fields of the R format (R27). -/
def rSplit (w : BitVec 32) : RFields :=
  ⟨w.extractLsb' 26 6, w.extractLsb' 21 5, w.extractLsb' 16 5, w.extractLsb' 11 5, w.extractLsb' 6 5⟩

/-- Lays the fields of the R format (R27) and the major opcode into a 32-bit word whose bit 0 is 1. -/
def rJoin (major : BitVec 5) (f : RFields) : BitVec 32 :=
  (f.fn ++ f.c ++ f.b ++ f.a ++ f.d ++ major ++ 1#1 : BitVec 32)

/-- The fields of the I format (R27), which the LSET and LSETI layouts of R28 share, most significant first. -/
structure IFields where
  imm : BitVec 12
  fn : BitVec 4
  a : BitVec 5
  d : BitVec 5
  deriving DecidableEq, Repr

/-- Cuts a 32-bit word into the fields of the I format (R27), which the LSET and LSETI layouts of R28 share. -/
def iSplit (w : BitVec 32) : IFields :=
  ⟨w.extractLsb' 20 12, w.extractLsb' 16 4, w.extractLsb' 11 5, w.extractLsb' 6 5⟩

/-- Lays the fields of the I format (R27), which the LSET and LSETI layouts of R28 share and the major opcode into a 32-bit word whose bit 0 is 1. -/
def iJoin (major : BitVec 5) (f : IFields) : BitVec 32 :=
  (f.imm ++ f.fn ++ f.a ++ f.d ++ major ++ 1#1 : BitVec 32)

/-- The fields of the WIDE format (R28), most significant first. -/
structure WideFields where
  z : BitVec 2
  imm : BitVec 16
  fn : BitVec 1
  pos : BitVec 2
  d : BitVec 5
  deriving DecidableEq, Repr

/-- Cuts a 32-bit word into the fields of the WIDE format (R28). -/
def wideSplit (w : BitVec 32) : WideFields :=
  ⟨w.extractLsb' 30 2, w.extractLsb' 14 16, w.extractLsb' 13 1, w.extractLsb' 11 2, w.extractLsb' 6 5⟩

/-- Lays the fields of the WIDE format (R28) and the major opcode into a 32-bit word whose bit 0 is 1. -/
def wideJoin (major : BitVec 5) (f : WideFields) : BitVec 32 :=
  (f.z ++ f.imm ++ f.fn ++ f.pos ++ f.d ++ major ++ 1#1 : BitVec 32)

/-- The fields of the CMP format (R28), most significant first. -/
structure CmpFields where
  fn : BitVec 6
  imm : BitVec 10
  a : BitVec 5
  comb : BitVec 2
  q : BitVec 3
  deriving DecidableEq, Repr

/-- Cuts a 32-bit word into the fields of the CMP format (R28). -/
def cmpSplit (w : BitVec 32) : CmpFields :=
  ⟨w.extractLsb' 26 6, w.extractLsb' 16 10, w.extractLsb' 11 5, w.extractLsb' 9 2, w.extractLsb' 6 3⟩

/-- Lays the fields of the CMP format (R28) and the major opcode into a 32-bit word whose bit 0 is 1. -/
def cmpJoin (major : BitVec 5) (f : CmpFields) : BitVec 32 :=
  (f.fn ++ f.imm ++ f.a ++ f.comb ++ f.q ++ major ++ 1#1 : BitVec 32)

/-- The fields of the B format (R27), most significant first. -/
structure BFields where
  disp : BitVec 21
  fn : BitVec 2
  bt : BitVec 3
  deriving DecidableEq, Repr

/-- Cuts a 32-bit word into the fields of the B format (R27). -/
def bSplit (w : BitVec 32) : BFields :=
  ⟨w.extractLsb' 11 21, w.extractLsb' 9 2, w.extractLsb' 6 3⟩

/-- Lays the fields of the B format (R27) and the major opcode into a 32-bit word whose bit 0 is 1. -/
def bJoin (major : BitVec 5) (f : BFields) : BitVec 32 :=
  (f.disp ++ f.fn ++ f.bt ++ major ++ 1#1 : BitVec 32)

/-- The fields of the X format (R27), most significant first. -/
structure XFields where
  z : BitVec 17
  fn : BitVec 2
  sense : BitVec 1
  q : BitVec 3
  bt : BitVec 3
  deriving DecidableEq, Repr

/-- Cuts a 32-bit word into the fields of the X format (R27). -/
def xSplit (w : BitVec 32) : XFields :=
  ⟨w.extractLsb' 15 17, w.extractLsb' 13 2, w.extractLsb' 12 1, w.extractLsb' 9 3, w.extractLsb' 6 3⟩

/-- Lays the fields of the X format (R27) and the major opcode into a 32-bit word whose bit 0 is 1. -/
def xJoin (major : BitVec 5) (f : XFields) : BitVec 32 :=
  (f.z ++ f.fn ++ f.sense ++ f.q ++ f.bt ++ major ++ 1#1 : BitVec 32)

/-- The fields of the M format (R27), most significant first. -/
structure MFields where
  off : BitVec 9
  ord : BitVec 2
  am : BitVec 2
  fn : BitVec 3
  a : BitVec 5
  d : BitVec 5
  deriving DecidableEq, Repr

/-- Cuts a 32-bit word into the fields of the M format (R27). -/
def mSplit (w : BitVec 32) : MFields :=
  ⟨w.extractLsb' 23 9, w.extractLsb' 21 2, w.extractLsb' 19 2, w.extractLsb' 16 3, w.extractLsb' 11 5, w.extractLsb' 6 5⟩

/-- Lays the fields of the M format (R27) and the major opcode into a 32-bit word whose bit 0 is 1. -/
def mJoin (major : BitVec 5) (f : MFields) : BitVec 32 :=
  (f.off ++ f.ord ++ f.am ++ f.fn ++ f.a ++ f.d ++ major ++ 1#1 : BitVec 32)

/-- The fields of the V format (R27), most significant first. -/
structure VFields where
  fn : BitVec 6
  ew : BitVec 2
  k : BitVec 3
  b : BitVec 5
  a : BitVec 5
  d : BitVec 5
  deriving DecidableEq, Repr

/-- Cuts a 32-bit word into the fields of the V format (R27). -/
def vSplit (w : BitVec 32) : VFields :=
  ⟨w.extractLsb' 26 6, w.extractLsb' 24 2, w.extractLsb' 21 3, w.extractLsb' 16 5, w.extractLsb' 11 5, w.extractLsb' 6 5⟩

/-- Lays the fields of the V format (R27) and the major opcode into a 32-bit word whose bit 0 is 1. -/
def vJoin (major : BitVec 5) (f : VFields) : BitVec 32 :=
  (f.fn ++ f.ew ++ f.k ++ f.b ++ f.a ++ f.d ++ major ++ 1#1 : BitVec 32)

/-- The fields of the E format (R27), most significant first. -/
structure EFields where
  fn : BitVec 6
  tz : BitVec 3
  b : BitVec 5
  a : BitVec 5
  ch : BitVec 4
  x : BitVec 3
  deriving DecidableEq, Repr

/-- Cuts a 32-bit word into the fields of the E format (R27). -/
def eSplit (w : BitVec 32) : EFields :=
  ⟨w.extractLsb' 26 6, w.extractLsb' 23 3, w.extractLsb' 18 5, w.extractLsb' 13 5, w.extractLsb' 9 4, w.extractLsb' 6 3⟩

/-- Lays the fields of the E format (R27) and the major opcode into a 32-bit word whose bit 0 is 1. -/
def eJoin (major : BitVec 5) (f : EFields) : BitVec 32 :=
  (f.fn ++ f.tz ++ f.b ++ f.a ++ f.ch ++ f.x ++ major ++ 1#1 : BitVec 32)

/-- The 16-bit short form (R24, R25): op in bits 4 to 1, vd, vb and m. -/
def decodeShortForm (h : BitVec 16) : Except DecodeError Instr :=
  let d := h.extractLsb' 5 5
  let b := h.extractLsb' 10 5
  let m := h.extractLsb' 15 1
  match (h.extractLsb' 1 4).toNat with
  | 0 => .ok (.vmov d b m)
  | 1 => .ok (.vaddShort d b m)
  | 2 => .ok (.vsubShort d b m)
  | 3 => .ok (.vmulShort d b m)
  | 4 => .ok (.vandShort d b m)
  | 5 => .ok (.vorShort d b m)
  | 6 => .ok (.vxorShort d b m)
  | 7 => .ok (.vminShort d b m)
  | 8 => .ok (.vmaxShort d b m)
  | 9 => .ok (.vfaddShort d b m)
  | 10 => .ok (.vfsubShort d b m)
  | 11 => .ok (.vfmulShort d b m)
  | 12 => .ok (.vfminShort d b m)
  | 13 => .ok (.vfmaxShort d b m)
  | 14 => .ok (.vfneg d b m)
  | 15 => .ok (.vabs d b m)
  | _ => .error .reservedFunction

/-- Major 0x01, IOP (R30). -/
noncomputable def decodeIop (f : RFields) : Except DecodeError Instr :=
  match f.fn.toNat with
  | 0 => if f.c = 0#5 then .ok (.add f.d f.a f.b) else .error .reservedField
  | 1 => if f.c = 0#5 then .ok (.sub f.d f.a f.b) else .error .reservedField
  | 2 => if f.c = 0#5 then .ok (.and f.d f.a f.b) else .error .reservedField
  | 3 => if f.c = 0#5 then .ok (.or f.d f.a f.b) else .error .reservedField
  | 4 => if f.c = 0#5 then .ok (.xor f.d f.a f.b) else .error .reservedField
  | 5 => if f.c = 0#5 then .ok (.andn f.d f.a f.b) else .error .reservedField
  | 6 => if f.c = 0#5 then .ok (.sll f.d f.a f.b) else .error .reservedField
  | 7 => if f.c = 0#5 then .ok (.srl f.d f.a f.b) else .error .reservedField
  | 8 => if f.c = 0#5 then .ok (.sra f.d f.a f.b) else .error .reservedField
  | 9 => if f.c = 0#5 then .ok (.rol f.d f.a f.b) else .error .reservedField
  | 10 => if f.c = 0#5 then .ok (.mul f.d f.a f.b) else .error .reservedField
  | 11 => if f.c = 0#5 then .ok (.mulh f.d f.a f.b) else .error .reservedField
  | 12 => if f.c = 0#5 then .ok (.mulhn f.d f.a f.b) else .error .reservedField
  | 13 => if f.c = 0#5 then .ok (.div f.d f.a f.b) else .error .reservedField
  | 14 => if f.c = 0#5 then .ok (.divn f.d f.a f.b) else .error .reservedField
  | 15 => if f.c = 0#5 then .ok (.rem f.d f.a f.b) else .error .reservedField
  | 16 => if f.c = 0#5 then .ok (.remn f.d f.a f.b) else .error .reservedField
  | 17 => if f.c = 0#5 then .ok (.min f.d f.a f.b) else .error .reservedField
  | 18 => if f.c = 0#5 then .ok (.max f.d f.a f.b) else .error .reservedField
  | 19 => if f.c = 0#5 then .ok (.minn f.d f.a f.b) else .error .reservedField
  | 20 => if f.c = 0#5 then .ok (.maxn f.d f.a f.b) else .error .reservedField
  | 21 => if f.c = 0#5 ∧ f.b = 0#5 then .ok (.clz f.d f.a) else .error .reservedField
  | 22 => if f.c = 0#5 ∧ f.b = 0#5 then .ok (.ctz f.d f.a) else .error .reservedField
  | 23 => if f.c = 0#5 ∧ f.b = 0#5 then .ok (.popc f.d f.a) else .error .reservedField
  | 24 => if f.c = 0#5 ∧ f.b = 0#5 then .ok (.brev f.d f.a) else .error .reservedField
  | 25 => if f.c = 0#5 ∧ f.b = 0#5 then .ok (.bswap f.d f.a) else .error .reservedField
  | 26 => if f.c = 0#5 then .ok (.sext f.d f.a f.b) else .error .reservedField
  | 27 => if f.c = 0#5 then .ok (.bfx f.d f.a f.b) else .error .reservedField
  | 28 => .ok (.bfi f.d f.a f.b f.c)
  | 29 => if f.c.extractLsb' 3 2 = 0#2 then .ok (.sel f.d f.a f.b (f.c.extractLsb' 0 3)) else .error .reservedField
  | 30 => if f.c = 0#5 then .ok (.addsat f.d f.a f.b) else .error .reservedField
  | 31 => if f.c = 0#5 then .ok (.subsat f.d f.a f.b) else .error .reservedField
  | 32 => .ok (.madd f.d f.a f.b f.c)
  | 33 => if f.c.extractLsb' 3 2 = 0#2 then .ok (.addx f.d f.a f.b (f.c.extractLsb' 0 3)) else .error .reservedField
  | _ => .error .reservedFunction

/-- Major 0x02, IOPI (R30). -/
noncomputable def decodeIopi (f : IFields) : Except DecodeError Instr :=
  match f.fn.toNat with
  | 0 => .ok (.addi f.d f.a f.imm)
  | 1 => .ok (.andi f.d f.a f.imm)
  | 2 => .ok (.ori f.d f.a f.imm)
  | 3 => .ok (.xori f.d f.a f.imm)
  | 4 => if f.imm.extractLsb' 6 6 = 0#6 then .ok (.slli f.d f.a (f.imm.extractLsb' 0 6)) else .error .reservedField
  | 5 => if f.imm.extractLsb' 6 6 = 0#6 then .ok (.srli f.d f.a (f.imm.extractLsb' 0 6)) else .error .reservedField
  | 6 => if f.imm.extractLsb' 6 6 = 0#6 then .ok (.srai f.d f.a (f.imm.extractLsb' 0 6)) else .error .reservedField
  | 7 => .ok (.mini f.d f.a f.imm)
  | 8 => .ok (.maxi f.d f.a f.imm)
  | 9 => .ok (.bfxi f.d f.a f.imm)
  | _ => .error .reservedFunction

/-- Major 0x03, WIDE (R30). -/
noncomputable def decodeWide (f : WideFields) : Except DecodeError Instr :=
  match f.fn.toNat with
  | 0 => if f.z = 0#2 then .ok (.wimm f.d f.pos f.imm) else .error .reservedField
  | 1 => if f.z = 0#2 then .ok (.wimmk f.d f.pos f.imm) else .error .reservedField
  | _ => .error .reservedFunction

/-- Major 0x04, CMP (R30). -/
noncomputable def decodeCmp (f : CmpFields) : Except DecodeError Instr :=
  match f.fn.toNat with
  | 0 => if f.imm.extractLsb' 5 5 = 0#5 then .ok (.ceq f.q f.comb f.a (f.imm.extractLsb' 0 5)) else .error .reservedField
  | 1 => if f.imm.extractLsb' 5 5 = 0#5 then .ok (.cne f.q f.comb f.a (f.imm.extractLsb' 0 5)) else .error .reservedField
  | 2 => if f.imm.extractLsb' 5 5 = 0#5 then .ok (.clt f.q f.comb f.a (f.imm.extractLsb' 0 5)) else .error .reservedField
  | 3 => if f.imm.extractLsb' 5 5 = 0#5 then .ok (.cge f.q f.comb f.a (f.imm.extractLsb' 0 5)) else .error .reservedField
  | 4 => if f.imm.extractLsb' 5 5 = 0#5 then .ok (.cltn f.q f.comb f.a (f.imm.extractLsb' 0 5)) else .error .reservedField
  | 5 => if f.imm.extractLsb' 5 5 = 0#5 then .ok (.cgen f.q f.comb f.a (f.imm.extractLsb' 0 5)) else .error .reservedField
  | 6 => if f.imm.extractLsb' 5 5 = 0#5 then .ok (.ctst f.q f.comb f.a (f.imm.extractLsb' 0 5)) else .error .reservedField
  | 7 => if f.imm.extractLsb' 5 5 = 0#5 then .ok (.cbit f.q f.comb f.a (f.imm.extractLsb' 0 5)) else .error .reservedField
  | 8 => .ok (.ceqi f.q f.comb f.a f.imm)
  | 9 => .ok (.cnei f.q f.comb f.a f.imm)
  | 10 => .ok (.clti f.q f.comb f.a f.imm)
  | 11 => .ok (.cgei f.q f.comb f.a f.imm)
  | 12 => .ok (.cltni f.q f.comb f.a f.imm)
  | 13 => .ok (.cgeni f.q f.comb f.a f.imm)
  | 14 => if f.imm.extractLsb' 3 7 = 0#7 ∧ f.a.extractLsb' 3 2 = 0#2 then .ok (.qand f.q f.comb (f.a.extractLsb' 0 3) (f.imm.extractLsb' 0 3)) else .error .reservedField
  | 15 => if f.imm.extractLsb' 3 7 = 0#7 ∧ f.a.extractLsb' 3 2 = 0#2 then .ok (.qor f.q f.comb (f.a.extractLsb' 0 3) (f.imm.extractLsb' 0 3)) else .error .reservedField
  | 16 => if f.imm = 0#10 ∧ f.a.extractLsb' 3 2 = 0#2 then .ok (.qnot f.q f.comb (f.a.extractLsb' 0 3)) else .error .reservedField
  | 17 => if f.imm = 0#10 ∧ f.comb = 0#2 ∧ f.q = 0#3 then .ok (.qpack f.a) else .error .reservedField
  | 18 => if f.imm = 0#10 ∧ f.comb = 0#2 ∧ f.q = 0#3 then .ok (.qunpack f.a) else .error .reservedField
  | _ => .error .reservedFunction

/-- Major 0x05, PREP (R30). -/
noncomputable def decodePrep (f : BFields) : Except DecodeError Instr :=
  match f.fn.toNat with
  | 0 => .ok (.prep f.bt f.disp)
  | 1 => .ok (.prepc f.bt f.disp)
  | _ => .error .reservedFunction

/-- Major 0x06, PREPR (R30). -/
noncomputable def decodePrepr (f : IFields) : Except DecodeError Instr :=
  match f.fn.toNat with
  | 0 => if f.d.extractLsb' 3 2 = 0#2 then .ok (.prepr (f.d.extractLsb' 0 3) f.a f.imm) else .error .reservedField
  | 1 => if f.d.extractLsb' 3 2 = 0#2 then .ok (.preprc (f.d.extractLsb' 0 3) f.a f.imm) else .error .reservedField
  | 2 => if f.imm = 0#12 ∧ f.a.extractLsb' 3 2 = 0#2 then .ok (.btrd f.d (f.a.extractLsb' 0 3)) else .error .reservedField
  | 3 => if f.imm = 0#12 ∧ f.a = 0#5 ∧ f.d.extractLsb' 3 2 = 0#2 then .ok (.btclr (f.d.extractLsb' 0 3)) else .error .reservedField
  | _ => .error .reservedFunction

/-- Major 0x07, XFER (R30). -/
noncomputable def decodeXfer (f : XFields) : Except DecodeError Instr :=
  match f.fn.toNat with
  | 0 => if f.z = 0#17 then .ok (.jmp f.bt f.q f.sense) else .error .reservedField
  | 1 => if f.z = 0#17 then .ok (.call f.bt f.q f.sense) else .error .reservedField
  | 2 => if f.z = 0#17 then .ok (.jmpx f.bt f.q f.sense) else .error .reservedField
  | _ => .error .reservedFunction

/-- Major 0x08, LOOP (R30). -/
noncomputable def decodeLoop (f : IFields) : Except DecodeError Instr :=
  match f.fn.toNat with
  | 0 => if f.d.extractLsb' 1 4 = 0#4 then .ok (.lset (f.d.extractLsb' 0 1) f.a f.imm) else .error .reservedField
  | 1 => .ok (.lseti (f.d.extractLsb' 0 1) (f.a ++ f.d.extractLsb' 1 4) f.imm)
  | 2 => if f.imm.extractLsb' 3 9 = 0#9 ∧ f.a = 0#5 then .ok (.lrd f.d (f.imm.extractLsb' 0 2) (f.imm.extractLsb' 2 1)) else .error .reservedField
  | 3 => if f.imm.extractLsb' 3 9 = 0#9 ∧ f.d = 0#5 then .ok (.lwr f.a (f.imm.extractLsb' 0 2) (f.imm.extractLsb' 2 1)) else .error .reservedField
  | 4 => if f.imm.extractLsb' 3 9 = 0#9 ∧ f.imm.extractLsb' 0 2 = 0#2 ∧ f.a = 0#5 ∧ f.d = 0#5 then .ok (.lbrk (f.imm.extractLsb' 2 1)) else .error .reservedField
  | _ => .error .reservedFunction

/-- Major 0x09, LD (R30). -/
noncomputable def decodeLd (f : MFields) : Except DecodeError Instr :=
  match f.fn.toNat with
  | 0 => .ok (.ldb f.d f.a f.am f.ord f.off)
  | 1 => .ok (.ldh f.d f.a f.am f.ord f.off)
  | 2 => .ok (.ldw f.d f.a f.am f.ord f.off)
  | 3 => .ok (.ldd f.d f.a f.am f.ord f.off)
  | 4 => .ok (.ldbn f.d f.a f.am f.ord f.off)
  | 5 => .ok (.ldhn f.d f.a f.am f.ord f.off)
  | 6 => .ok (.ldwn f.d f.a f.am f.ord f.off)
  | 7 => if f.d.extractLsb' 0 1 = 0#1 then .ok (.ldq (f.d.extractLsb' 1 4) f.a f.am f.ord f.off) else .error .reservedField
  | _ => .error .reservedFunction

/-- Major 0x0A, ST (R30). -/
noncomputable def decodeSt (f : MFields) : Except DecodeError Instr :=
  match f.fn.toNat with
  | 0 => .ok (.stb f.d f.a f.am f.ord f.off)
  | 1 => .ok (.sth f.d f.a f.am f.ord f.off)
  | 2 => .ok (.stw f.d f.a f.am f.ord f.off)
  | 3 => .ok (.std f.d f.a f.am f.ord f.off)
  | 4 => if f.d.extractLsb' 0 1 = 0#1 then .ok (.stq (f.d.extractLsb' 1 4) f.a f.am f.ord f.off) else .error .reservedField
  | _ => .error .reservedFunction

/-- Major 0x0B, ATOM (R30). -/
noncomputable def decodeAtom (f : RFields) : Except DecodeError Instr :=
  match f.fn.toNat with
  | 0 => .ok (.aadd f.d f.a f.b (f.c.extractLsb' 0 2) (f.c.extractLsb' 2 3))
  | 1 => .ok (.aand f.d f.a f.b (f.c.extractLsb' 0 2) (f.c.extractLsb' 2 3))
  | 2 => .ok (.aor f.d f.a f.b (f.c.extractLsb' 0 2) (f.c.extractLsb' 2 3))
  | 3 => .ok (.axor f.d f.a f.b (f.c.extractLsb' 0 2) (f.c.extractLsb' 2 3))
  | 4 => .ok (.amin f.d f.a f.b (f.c.extractLsb' 0 2) (f.c.extractLsb' 2 3))
  | 5 => .ok (.amax f.d f.a f.b (f.c.extractLsb' 0 2) (f.c.extractLsb' 2 3))
  | 6 => .ok (.aminn f.d f.a f.b (f.c.extractLsb' 0 2) (f.c.extractLsb' 2 3))
  | 7 => .ok (.amaxn f.d f.a f.b (f.c.extractLsb' 0 2) (f.c.extractLsb' 2 3))
  | 8 => .ok (.aswap f.d f.a f.b (f.c.extractLsb' 0 2) (f.c.extractLsb' 2 3))
  | 9 => .ok (.acas f.d f.a f.b (f.c.extractLsb' 0 2) (f.c.extractLsb' 2 3))
  | 10 => .ok (.afadds f.d f.a f.b (f.c.extractLsb' 0 2) (f.c.extractLsb' 2 3))
  | 11 => .ok (.afaddd f.d f.a f.b (f.c.extractLsb' 0 2) (f.c.extractLsb' 2 3))
  | 16 => .ok (.aaddW f.d f.a f.b (f.c.extractLsb' 0 2) (f.c.extractLsb' 2 3))
  | 17 => .ok (.aandW f.d f.a f.b (f.c.extractLsb' 0 2) (f.c.extractLsb' 2 3))
  | 18 => .ok (.aorW f.d f.a f.b (f.c.extractLsb' 0 2) (f.c.extractLsb' 2 3))
  | 19 => .ok (.axorW f.d f.a f.b (f.c.extractLsb' 0 2) (f.c.extractLsb' 2 3))
  | 20 => .ok (.aminW f.d f.a f.b (f.c.extractLsb' 0 2) (f.c.extractLsb' 2 3))
  | 21 => .ok (.amaxW f.d f.a f.b (f.c.extractLsb' 0 2) (f.c.extractLsb' 2 3))
  | 22 => .ok (.aminnW f.d f.a f.b (f.c.extractLsb' 0 2) (f.c.extractLsb' 2 3))
  | 23 => .ok (.amaxnW f.d f.a f.b (f.c.extractLsb' 0 2) (f.c.extractLsb' 2 3))
  | 24 => .ok (.aswapW f.d f.a f.b (f.c.extractLsb' 0 2) (f.c.extractLsb' 2 3))
  | 25 => .ok (.acasW f.d f.a f.b (f.c.extractLsb' 0 2) (f.c.extractLsb' 2 3))
  | _ => .error .reservedFunction

/-- Major 0x0C, FENCE (R30). -/
noncomputable def decodeFence (f : RFields) : Except DecodeError Instr :=
  match f.fn.toNat with
  | 0 => if f.b = 0#5 ∧ f.a = 0#5 ∧ f.d = 0#5 then .ok (.fence (f.c.extractLsb' 0 2) (f.c.extractLsb' 2 3)) else .error .reservedField
  | 1 => if f.c = 0#5 ∧ f.b = 0#5 ∧ f.a = 0#5 ∧ f.d = 0#5 then .ok .ifence else .error .reservedField
  | 2 => if f.c = 0#5 ∧ f.b = 0#5 ∧ f.d = 0#5 then .ok (.qfence f.a) else .error .reservedField
  | _ => .error .reservedFunction

/-- Major 0x0D, FOP (R30). -/
noncomputable def decodeFop (f : RFields) : Except DecodeError Instr :=
  match f.fn.toNat with
  | 0 => if f.c.extractLsb' 4 1 = 0#1 then .ok (.faddd f.d f.a f.b (f.c.extractLsb' 0 3) (f.c.extractLsb' 3 1)) else .error .reservedField
  | 1 => if f.c.extractLsb' 4 1 = 0#1 then .ok (.fsubd f.d f.a f.b (f.c.extractLsb' 0 3) (f.c.extractLsb' 3 1)) else .error .reservedField
  | 2 => if f.c.extractLsb' 4 1 = 0#1 then .ok (.fmuld f.d f.a f.b (f.c.extractLsb' 0 3) (f.c.extractLsb' 3 1)) else .error .reservedField
  | 3 => if f.c.extractLsb' 4 1 = 0#1 then .ok (.fdivd f.d f.a f.b (f.c.extractLsb' 0 3) (f.c.extractLsb' 3 1)) else .error .reservedField
  | 4 => if f.c.extractLsb' 4 1 = 0#1 ∧ f.b = 0#5 then .ok (.fsqrtd f.d f.a (f.c.extractLsb' 0 3) (f.c.extractLsb' 3 1)) else .error .reservedField
  | 5 => if f.c = 0#5 then .ok (.fmind f.d f.a f.b) else .error .reservedField
  | 6 => if f.c = 0#5 then .ok (.fmaxd f.d f.a f.b) else .error .reservedField
  | 7 => .ok (.fmad f.d f.a f.b f.c)
  | 8 => if f.c = 0#5 ∧ f.b = 0#5 then .ok (.fabsd f.d f.a) else .error .reservedField
  | 9 => if f.c = 0#5 ∧ f.b = 0#5 then .ok (.fnegd f.d f.a) else .error .reservedField
  | 10 => if f.c = 0#5 ∧ f.b = 0#5 then .ok (.fclassd f.d f.a) else .error .reservedField
  | 11 => if f.c = 0#5 then .ok (.fceqd f.d f.a f.b) else .error .reservedField
  | 12 => if f.c = 0#5 then .ok (.fcltd f.d f.a f.b) else .error .reservedField
  | 13 => if f.c = 0#5 then .ok (.fcled f.d f.a f.b) else .error .reservedField
  | 16 => if f.c.extractLsb' 4 1 = 0#1 then .ok (.fadds f.d f.a f.b (f.c.extractLsb' 0 3) (f.c.extractLsb' 3 1)) else .error .reservedField
  | 17 => if f.c.extractLsb' 4 1 = 0#1 then .ok (.fsubs f.d f.a f.b (f.c.extractLsb' 0 3) (f.c.extractLsb' 3 1)) else .error .reservedField
  | 18 => if f.c.extractLsb' 4 1 = 0#1 then .ok (.fmuls f.d f.a f.b (f.c.extractLsb' 0 3) (f.c.extractLsb' 3 1)) else .error .reservedField
  | 19 => if f.c.extractLsb' 4 1 = 0#1 then .ok (.fdivs f.d f.a f.b (f.c.extractLsb' 0 3) (f.c.extractLsb' 3 1)) else .error .reservedField
  | 20 => if f.c.extractLsb' 4 1 = 0#1 ∧ f.b = 0#5 then .ok (.fsqrts f.d f.a (f.c.extractLsb' 0 3) (f.c.extractLsb' 3 1)) else .error .reservedField
  | 21 => if f.c = 0#5 then .ok (.fmins f.d f.a f.b) else .error .reservedField
  | 22 => if f.c = 0#5 then .ok (.fmaxs f.d f.a f.b) else .error .reservedField
  | 23 => .ok (.fmas f.d f.a f.b f.c)
  | 24 => if f.c = 0#5 ∧ f.b = 0#5 then .ok (.fabss f.d f.a) else .error .reservedField
  | 25 => if f.c = 0#5 ∧ f.b = 0#5 then .ok (.fnegs f.d f.a) else .error .reservedField
  | 26 => if f.c = 0#5 ∧ f.b = 0#5 then .ok (.fclasss f.d f.a) else .error .reservedField
  | 27 => if f.c = 0#5 then .ok (.fceqs f.d f.a f.b) else .error .reservedField
  | 28 => if f.c = 0#5 then .ok (.fclts f.d f.a f.b) else .error .reservedField
  | 29 => if f.c = 0#5 then .ok (.fcles f.d f.a f.b) else .error .reservedField
  | _ => .error .reservedFunction

/-- Major 0x0E, FCVT (R30). -/
noncomputable def decodeFcvt (f : RFields) : Except DecodeError Instr :=
  match f.fn.toNat with
  | 0 => .ok (.fcvt f.d f.a f.b f.c)
  | 1 => .ok (.icvtf f.d f.a f.b f.c)
  | 2 => .ok (.fcvti f.d f.a f.b f.c)
  | 3 => if f.c = 0#5 ∧ f.b = 0#5 then .ok (.rmode f.d f.a) else .error .reservedField
  | 4 => if f.c.extractLsb' 4 1 = 0#1 then .ok (.rmake f.d f.a f.b (f.c.extractLsb' 0 3) (f.c.extractLsb' 3 1)) else .error .reservedField
  | 5 => if f.c = 0#5 ∧ f.b = 0#5 then .ok (.rnumer f.d f.a) else .error .reservedField
  | 6 => if f.c = 0#5 ∧ f.b = 0#5 then .ok (.rdenom f.d f.a) else .error .reservedField
  | 7 => if f.c.extractLsb' 4 1 = 0#1 then .ok (.rmed f.d f.a f.b (f.c.extractLsb' 0 3) (f.c.extractLsb' 3 1)) else .error .reservedField
  | 8 => if f.c = 0#5 ∧ f.b = 0#5 ∧ f.d.extractLsb' 0 1 = 0#1 then .ok (.rcf (f.d.extractLsb' 1 4) f.a) else .error .reservedField
  | 9 => if f.c.extractLsb' 4 1 = 0#1 ∧ f.b = 0#5 then .ok (.rfromd f.d f.a (f.c.extractLsb' 0 3) (f.c.extractLsb' 3 1)) else .error .reservedField
  | 10 => if f.c.extractLsb' 4 1 = 0#1 ∧ f.b = 0#5 then .ok (.rtod f.d f.a (f.c.extractLsb' 0 3) (f.c.extractLsb' 3 1)) else .error .reservedField
  | _ => .error .reservedFunction

/-- Major 0x0F, TASK (R30). -/
noncomputable def decodeTask (f : RFields) : Except DecodeError Instr :=
  match f.fn.toNat with
  | 0 => if f.d.extractLsb' 3 2 = 0#2 then .ok (.tspawn (f.d.extractLsb' 0 3) f.a f.b f.c) else .error .reservedField
  | 1 => if f.c = 0#5 ∧ f.d.extractLsb' 3 2 = 0#2 then .ok (.tspawnn (f.d.extractLsb' 0 3) f.a f.b) else .error .reservedField
  | 2 => if f.c = 0#5 ∧ f.d.extractLsb' 3 2 = 0#2 then .ok (.tspawnu (f.d.extractLsb' 0 3) f.a f.b) else .error .reservedField
  | 3 => if f.c = 0#5 ∧ f.d.extractLsb' 3 2 = 0#2 then .ok (.callat (f.d.extractLsb' 0 3) f.a f.b) else .error .reservedField
  | 4 => if f.c = 0#5 ∧ f.b = 0#5 ∧ f.a = 0#5 ∧ f.d = 0#5 then .ok .tdone else .error .reservedField
  | 5 => if f.c = 0#5 ∧ f.b = 0#5 ∧ f.a = 0#5 ∧ f.d.extractLsb' 0 1 = 0#1 then .ok (.tts (f.d.extractLsb' 1 4)) else .error .reservedField
  | 6 => if f.c = 0#5 ∧ f.b = 0#5 ∧ f.d.extractLsb' 0 1 = 0#1 then .ok (.tgvt (f.d.extractLsb' 1 4) f.a) else .error .reservedField
  | 7 => if f.c = 0#5 ∧ f.d.extractLsb' 3 2 = 0#2 then .ok (.lnch (f.d.extractLsb' 0 3) f.a f.b) else .error .reservedField
  | 8 => if f.c = 0#5 ∧ f.b = 0#5 then .ok (.tidleq f.d f.a) else .error .reservedField
  | _ => .error .reservedFunction

/-- Major 0x10, MSG (R30). -/
noncomputable def decodeMsg (f : RFields) : Except DecodeError Instr :=
  match f.fn.toNat with
  | 0 => if f.c = 0#5 ∧ f.d.extractLsb' 3 2 = 0#2 then .ok (.msend (f.d.extractLsb' 0 3) f.a f.b) else .error .reservedField
  | 1 => if f.c = 0#5 ∧ f.d.extractLsb' 3 2 = 0#2 then .ok (.msendt (f.d.extractLsb' 0 3) f.a f.b) else .error .reservedField
  | 2 => if f.c.extractLsb' 3 2 = 0#2 then .ok (.mrecv f.d f.a f.b (f.c.extractLsb' 0 3)) else .error .reservedField
  | 3 => if f.c = 0#5 ∧ f.b = 0#5 ∧ f.a = 0#5 ∧ f.d = 0#5 then .ok .mwait else .error .reservedField
  | 4 => if f.c = 0#5 ∧ f.d = 0#5 then .ok (.marm f.a f.b) else .error .reservedField
  | 5 => if f.c.extractLsb' 3 2 = 0#2 ∧ f.d = 0#5 then .ok (.rqput f.a f.b (f.c.extractLsb' 0 3)) else .error .reservedField
  | 6 => if f.c.extractLsb' 3 2 = 0#2 ∧ f.b = 0#5 ∧ f.a = 0#5 then .ok (.rqtake f.d (f.c.extractLsb' 0 3)) else .error .reservedField
  | 7 => if f.c = 0#5 ∧ f.d = 0#5 then .ok (.kbin f.a f.b) else .error .reservedField
  | 8 => if f.c = 0#5 ∧ f.b = 0#5 ∧ f.a = 0#5 ∧ f.d = 0#5 then .ok .kdrain else .error .reservedField
  | _ => .error .reservedFunction

/-- Major 0x11, GRP (R30). -/
noncomputable def decodeGrp (f : RFields) : Except DecodeError Instr :=
  match f.fn.toNat with
  | 0 => if f.c.extractLsb' 3 2 = 0#2 ∧ f.b = 0#5 ∧ f.a = 0#5 then .ok (.gnew f.d (f.c.extractLsb' 0 3)) else .error .reservedField
  | 1 => if f.c.extractLsb' 3 2 = 0#2 ∧ f.b = 0#5 ∧ f.d = 0#5 then .ok (.gjoin f.a (f.c.extractLsb' 0 3)) else .error .reservedField
  | 2 => if f.c = 0#5 ∧ f.b = 0#5 ∧ f.d = 0#5 then .ok (.gleave f.a) else .error .reservedField
  | 3 => if f.c = 0#5 ∧ f.b = 0#5 ∧ f.d = 0#5 then .ok (.gbar f.a) else .error .reservedField
  | 4 => if f.c = 0#5 ∧ f.b = 0#5 then .ok (.gcount f.d f.a) else .error .reservedField
  | 5 => if f.c = 0#5 ∧ f.b = 0#5 ∧ f.d = 0#5 then .ok (.gfree f.a) else .error .reservedField
  | _ => .error .reservedFunction

/-- Major 0x12, VOP (R30). -/
def decodeVop (f : VFields) : Except DecodeError Instr :=
  match f.fn.toNat with
  | 0 => .ok (.vadd f.d f.a f.b f.k f.ew)
  | 1 => .ok (.vsub f.d f.a f.b f.k f.ew)
  | 2 => .ok (.vmul f.d f.a f.b f.k f.ew)
  | 3 => .ok (.vmin f.d f.a f.b f.k f.ew)
  | 4 => .ok (.vmax f.d f.a f.b f.k f.ew)
  | 5 => .ok (.vand f.d f.a f.b f.k f.ew)
  | 6 => .ok (.vor f.d f.a f.b f.k f.ew)
  | 7 => .ok (.vxor f.d f.a f.b f.k f.ew)
  | 8 => .ok (.vsll f.d f.a f.b f.k f.ew)
  | 9 => .ok (.vsrl f.d f.a f.b f.k f.ew)
  | 10 => .ok (.vsra f.d f.a f.b f.k f.ew)
  | 11 => .ok (.vaddsat f.d f.a f.b f.k f.ew)
  | 12 => if f.ew = 2#2 then .ok (.vdot4 f.d f.a f.b f.k) else .error .reservedField
  | 13 => .ok (.vfadd f.d f.a f.b f.k f.ew)
  | 14 => .ok (.vfsub f.d f.a f.b f.k f.ew)
  | 15 => .ok (.vfmul f.d f.a f.b f.k f.ew)
  | 16 => .ok (.vfma f.d f.a f.b f.k f.ew)
  | 17 => .ok (.vfmin f.d f.a f.b f.k f.ew)
  | 18 => .ok (.vfmax f.d f.a f.b f.k f.ew)
  | 19 => if f.b = 0#5 then .ok (.vrcp f.d f.a f.k f.ew) else .error .reservedField
  | 20 => if f.b = 0#5 then .ok (.vrsq f.d f.a f.k f.ew) else .error .reservedField
  | 21 => .ok (.vrcps f.d f.a f.b f.k f.ew)
  | 22 => .ok (.vrsqs f.d f.a f.b f.k f.ew)
  | 23 => if f.ew.extractLsb' 1 1 = 1#1 ∧ f.d.extractLsb' 3 2 = 0#2 then .ok (.vcmpeq (f.d.extractLsb' 0 3) f.a f.b f.k (f.ew.extractLsb' 0 1)) else .error .reservedField
  | 24 => if f.ew.extractLsb' 1 1 = 1#1 ∧ f.d.extractLsb' 3 2 = 0#2 then .ok (.vcmplt (f.d.extractLsb' 0 3) f.a f.b f.k (f.ew.extractLsb' 0 1)) else .error .reservedField
  | 25 => if f.ew.extractLsb' 1 1 = 1#1 ∧ f.d.extractLsb' 3 2 = 0#2 then .ok (.vcmpltn (f.d.extractLsb' 0 3) f.a f.b f.k (f.ew.extractLsb' 0 1)) else .error .reservedField
  | 26 => if f.ew.extractLsb' 1 1 = 1#1 ∧ f.d.extractLsb' 3 2 = 0#2 then .ok (.vfcmpeq (f.d.extractLsb' 0 3) f.a f.b f.k (f.ew.extractLsb' 0 1)) else .error .reservedField
  | 27 => if f.ew.extractLsb' 1 1 = 1#1 ∧ f.d.extractLsb' 3 2 = 0#2 then .ok (.vfcmplt (f.d.extractLsb' 0 3) f.a f.b f.k (f.ew.extractLsb' 0 1)) else .error .reservedField
  | 28 => .ok (.vsel f.d f.a f.b f.k f.ew)
  | 29 => .ok (.vcvt f.d f.a f.b (f.ew ++ f.k))
  | 30 => if f.ew = 0#2 ∧ f.b.extractLsb' 1 4 = 0#4 then .ok (.vlut f.d f.a (f.b.extractLsb' 0 1) f.k) else .error .reservedField
  | 31 => if f.b = 0#5 then .ok (.vbcast f.d f.a f.k f.ew) else .error .reservedField
  | _ => .error .reservedFunction

/-- Major 0x13, VMEM (R30). -/
def decodeVmem (f : VFields) : Except DecodeError Instr :=
  match f.fn.toNat with
  | 0 => if f.b = 0#5 then .ok (.vld f.d f.a f.k f.ew) else .error .reservedField
  | 1 => if f.b = 0#5 then .ok (.vst f.d f.a f.k f.ew) else .error .reservedField
  | 2 => .ok (.vlds f.d f.a f.b f.k f.ew)
  | 3 => .ok (.vsts f.d f.a f.b f.k f.ew)
  | 4 => if f.ew.extractLsb' 1 1 = 1#1 then .ok (.vldx f.d f.a f.b f.k (f.ew.extractLsb' 0 1)) else .error .reservedField
  | 5 => if f.ew.extractLsb' 1 1 = 1#1 then .ok (.vstx f.d f.a f.b f.k (f.ew.extractLsb' 0 1)) else .error .reservedField
  | 6 => if f.ew.extractLsb' 1 1 = 1#1 then .ok (.vstxa f.d f.a f.b f.k (f.ew.extractLsb' 0 1)) else .error .reservedField
  | 7 => if f.b = 0#5 then .ok (.vldt f.d f.a f.k f.ew) else .error .reservedField
  | 8 => if f.b = 0#5 then .ok (.vstt f.d f.a f.k f.ew) else .error .reservedField
  | _ => .error .reservedFunction

/-- Major 0x14, VPERM (R30). -/
def decodeVperm (f : VFields) : Except DecodeError Instr :=
  match f.fn.toNat with
  | 0 => .ok (.vperm f.d f.a f.b f.k f.ew)
  | 1 => .ok (.vrotl f.d f.a f.b f.k f.ew)
  | 2 => if f.k = 0#3 ∧ f.b = 0#5 ∧ f.a = 0#5 ∧ f.d.extractLsb' 0 3 = 0#3 then .ok (.vtrans (f.d.extractLsb' 3 2) f.ew) else .error .reservedField
  | 3 => if f.b = 0#5 then .ok (.vrsum f.d f.a f.k f.ew) else .error .reservedField
  | 4 => if f.b = 0#5 then .ok (.vrmin f.d f.a f.k f.ew) else .error .reservedField
  | 5 => if f.b = 0#5 then .ok (.vrmax f.d f.a f.k f.ew) else .error .reservedField
  | 6 => if f.b = 0#5 then .ok (.vfrsum f.d f.a f.k f.ew) else .error .reservedField
  | 7 => if f.b = 0#5 then .ok (.vscan f.d f.a f.k f.ew) else .error .reservedField
  | 8 => if f.b = 0#5 then .ok (.vcompress f.d f.a f.k f.ew) else .error .reservedField
  | 9 => if f.b = 0#5 then .ok (.vexpand f.d f.a f.k f.ew) else .error .reservedField
  | 10 => .ok (.vselk f.d f.a f.b f.k f.ew)
  | 11 => if f.b = 0#5 ∧ f.a = 0#5 then .ok (.viota f.d f.k f.ew) else .error .reservedField
  | 12 => if f.b = 0#5 ∧ f.a = 0#5 then .ok (.vpopk f.d f.k f.ew) else .error .reservedField
  | 13 => if f.ew = 2#2 then .ok (.ksend f.d f.a f.b f.k) else .error .reservedField
  | _ => .error .reservedFunction

/-- Major 0x15, VCTL (R30). -/
def decodeVctl (f : VFields) : Except DecodeError Instr :=
  match f.fn.toNat with
  | 0 => if f.ew = 0#2 ∧ f.k = 0#3 ∧ f.b = 0#5 then .ok (.vclaim f.d f.a) else .error .reservedField
  | 1 => if f.ew = 0#2 ∧ f.k = 0#3 ∧ f.b = 0#5 ∧ f.a = 0#5 then .ok (.vreneg f.d) else .error .reservedField
  | 2 => if f.ew = 0#2 ∧ f.k = 0#3 ∧ f.b = 0#5 ∧ f.a = 0#5 ∧ f.d = 0#5 then .ok .vrel else .error .reservedField
  | 3 => if f.k = 0#3 ∧ f.b = 0#5 ∧ f.a = 0#5 ∧ f.d = 0#5 then .ok (.vsetw f.ew) else .error .reservedField
  | 4 => if f.k = 0#3 then .ok (.vmvg f.d f.a f.b f.ew) else .error .reservedField
  | 5 => if f.k = 0#3 then .ok (.vmvv f.d f.a f.b f.ew) else .error .reservedField
  | 6 => if f.ew = 0#2 ∧ f.k = 0#3 ∧ f.b = 0#5 ∧ f.a = 0#5 ∧ f.d = 0#5 then .ok .vfence else .error .reservedField
  | 7 => if f.ew = 0#2 ∧ f.k = 0#3 ∧ f.b = 0#5 ∧ f.a = 0#5 then .ok (.vbusyq f.d) else .error .reservedField
  | 8 => if f.ew = 0#2 ∧ f.k = 0#3 ∧ f.b = 0#5 ∧ f.d.extractLsb' 3 2 = 0#2 then .ok (.kset (f.d.extractLsb' 0 3) f.a) else .error .reservedField
  | 9 => if f.ew = 0#2 ∧ f.k = 0#3 ∧ f.b = 0#5 ∧ f.a.extractLsb' 3 2 = 0#2 then .ok (.kget f.d (f.a.extractLsb' 0 3)) else .error .reservedField
  | _ => .error .reservedFunction

/-- Major 0x16, MTX (R30). -/
def decodeMtx (f : EFields) : Except DecodeError Instr :=
  match f.fn.toNat with
  | 0 => if f.ch.extractLsb' 2 2 = 0#2 then .ok (.mma f.x (f.ch.extractLsb' 0 2) f.a f.b f.tz) else .error .reservedField
  | 1 => if f.ch.extractLsb' 2 2 = 0#2 then .ok (.mmas f.x (f.ch.extractLsb' 0 2) f.a f.b f.tz) else .error .reservedField
  | 2 => if f.ch.extractLsb' 2 2 = 0#2 then .ok (.mspx f.x (f.ch.extractLsb' 0 2) f.a f.b f.tz) else .error .reservedField
  | 3 => if f.b = 0#5 ∧ f.a = 0#5 ∧ f.ch = 0#4 then .ok (.mzero f.x f.tz) else .error .reservedField
  | 4 => if f.ch.extractLsb' 2 2 = 0#2 then .ok (.mldacc f.x (f.ch.extractLsb' 0 2) f.a f.b f.tz) else .error .reservedField
  | 5 => if f.ch.extractLsb' 2 2 = 0#2 then .ok (.mstacc f.x (f.ch.extractLsb' 0 2) f.a f.b f.tz) else .error .reservedField
  | 6 => if f.ch.extractLsb' 2 2 = 0#2 ∧ f.x = 0#3 then .ok (.mwbld (f.ch.extractLsb' 0 2) f.a f.b f.tz) else .error .reservedField
  | 7 => if f.ch = 0#4 then .ok (.tzset f.x f.a f.b f.tz) else .error .reservedField
  | 8 => if f.tz = 0#3 ∧ f.b = 0#5 ∧ f.ch = 0#4 ∧ f.x = 0#3 then .ok (.mburst f.a) else .error .reservedField
  | 9 => if f.tz = 0#3 ∧ f.b = 0#5 ∧ f.a = 0#5 ∧ f.ch = 0#4 ∧ f.x = 0#3 then .ok .mfence else .error .reservedField
  | _ => .error .reservedFunction

/-- Major 0x17, CPY (R30). -/
noncomputable def decodeCpy (f : EFields) : Except DecodeError Instr :=
  match f.fn.toNat with
  | 0 => if f.tz = 0#3 then .ok (.cpy f.x f.ch f.a f.b) else .error .reservedField
  | 1 => if f.tz = 0#3 ∧ f.b = 0#5 then .ok (.cpya f.x f.ch f.a) else .error .reservedField
  | 2 => if f.tz = 0#3 then .ok (.cpymx f.x f.ch f.a f.b) else .error .reservedField
  | 3 => if f.tz = 0#3 ∧ f.b = 0#5 ∧ f.x = 0#3 then .ok (.cwm f.ch f.a) else .error .reservedField
  | 4 => if f.tz = 0#3 ∧ f.b = 0#5 ∧ f.x = 0#3 then .ok (.cwait f.ch f.a) else .error .reservedField
  | 5 => if f.tz = 0#3 then .ok (.cstrm f.x f.ch f.a f.b) else .error .reservedField
  | 6 => if f.tz = 0#3 then .ok (.cstrmx f.x f.ch f.a f.b) else .error .reservedField
  | 7 => if f.tz = 0#3 then .ok (.cperm f.x f.ch f.a f.b) else .error .reservedField
  | 8 => if f.tz = 0#3 ∧ f.b = 0#5 ∧ f.x = 0#3 then .ok (.cstop f.ch f.a) else .error .reservedField
  | _ => .error .reservedFunction

/-- Major 0x18, QUE (R30). -/
noncomputable def decodeQue (f : RFields) : Except DecodeError Instr :=
  match f.fn.toNat with
  | 0 => if f.c.extractLsb' 3 2 = 0#2 then .ok (.qnew f.d f.a f.b (f.c.extractLsb' 0 3)) else .error .reservedField
  | 1 => if f.c = 0#5 ∧ f.d = 0#5 then .ok (.qbind f.a f.b) else .error .reservedField
  | 2 => if f.c = 0#5 ∧ f.d = 0#5 then .ok (.qunbind f.a f.b) else .error .reservedField
  | 3 => if f.c = 0#5 ∧ f.b = 0#5 then .ok (.qcnt f.d f.a) else .error .reservedField
  | 4 => if f.c.extractLsb' 3 2 = 0#2 ∧ f.b = 0#5 then .ok (.qtry f.d f.a (f.c.extractLsb' 0 3)) else .error .reservedField
  | _ => .error .reservedFunction

/-- Major 0x19, STK (R30). -/
def decodeStk (f : EFields) : Except DecodeError Instr :=
  match f.fn.toNat with
  | 0 => if f.tz = 0#3 then .ok (.sgath f.x f.ch f.a f.b) else .error .reservedField
  | 1 => if f.tz = 0#3 ∧ f.ch = 0#4 then .ok (.sscat f.x f.a f.b) else .error .reservedField
  | 2 => if f.ch = 0#4 then .ok (.sred f.x f.a f.b f.tz) else .error .reservedField
  | 3 => if f.tz = 0#3 ∧ f.ch = 0#4 then .ok (.sconv f.x f.a f.b) else .error .reservedField
  | 4 => if f.tz = 0#3 ∧ f.b = 0#5 ∧ f.a = 0#5 ∧ f.ch = 0#4 ∧ f.x = 0#3 then .ok .sfence else .error .reservedField
  | 5 => if f.tz = 0#3 ∧ f.b = 0#5 ∧ f.ch = 0#4 ∧ f.x = 0#3 then .ok (.sstat f.a) else .error .reservedField
  | _ => .error .reservedFunction

/-- Major 0x1A, TEN (R30). -/
noncomputable def decodeTen (f : RFields) : Except DecodeError Instr :=
  match f.fn.toNat with
  | 0 => if f.c = 0#5 ∧ f.d = 0#5 then .ok (.tdef f.a f.b) else .error .reservedField
  | 1 => if f.c = 0#5 then .ok (.trd f.d f.a f.b) else .error .reservedField
  | 2 => if f.c.extractLsb' 3 2 = 0#2 ∧ f.b = 0#5 ∧ f.d = 0#5 then .ok (.tinv f.a (f.c.extractLsb' 0 3)) else .error .reservedField
  | 3 => if f.c = 0#5 ∧ f.d = 0#5 then .ok (.lutld f.a f.b) else .error .reservedField
  | 4 => if f.c = 0#5 ∧ f.b = 0#5 then .ok (.lutrd f.d f.a) else .error .reservedField
  | _ => .error .reservedFunction

/-- Major 0x1B, SYS (R30). -/
noncomputable def decodeSys (f : RFields) : Except DecodeError Instr :=
  match f.fn.toNat with
  | 0 => if f.a = 0#5 then .ok (.crr f.d f.b f.c) else .error .reservedField
  | 1 => .ok (.crw f.d f.a f.b f.c)
  | 2 => .ok (.crs f.d f.a f.b f.c)
  | 3 => .ok (.crc f.d f.a f.b f.c)
  | 4 => if f.c = 0#5 ∧ f.b = 0#5 ∧ f.d = 0#5 then .ok (.trap f.a) else .error .reservedField
  | 5 => if f.c = 0#5 ∧ f.b = 0#5 ∧ f.a = 0#5 ∧ f.d.extractLsb' 3 2 = 0#2 then .ok (.eret (f.d.extractLsb' 0 3)) else .error .reservedField
  | 6 => if f.c = 0#5 ∧ f.b = 0#5 ∧ f.a = 0#5 ∧ f.d = 0#5 then .ok .wfi else .error .reservedField
  | 7 => if f.c = 0#5 ∧ f.d = 0#5 then .ok (.tlbi f.a f.b) else .error .reservedField
  | 8 => if f.c = 0#5 ∧ f.b = 0#5 ∧ f.a = 0#5 ∧ f.d = 0#5 then .ok .tlbsync else .error .reservedField
  | 9 => if f.c = 0#5 ∧ f.d = 0#5 then .ok (.ctxpark f.a f.b) else .error .reservedField
  | 10 => if f.c = 0#5 ∧ f.b = 0#5 ∧ f.d.extractLsb' 3 2 = 0#2 then .ok (.ctxload (f.d.extractLsb' 0 3) f.a) else .error .reservedField
  | 11 => if f.c = 0#5 ∧ f.b = 0#5 ∧ f.a = 0#5 ∧ f.d = 0#5 then .ok .brkpt else .error .reservedField
  | 12 => if f.c = 0#5 ∧ f.b = 0#5 then .ok (.monrd f.d f.a) else .error .reservedField
  | _ => .error .reservedFunction

/-- Decodes a 32-bit word by its major opcode (R30), before the modifier checks. -/
noncomputable def decodeFields (w : BitVec 32) : Except DecodeError Instr :=
  match (w.extractLsb' 1 5).toNat with
  | 1 => decodeIop (rSplit w)
  | 2 => decodeIopi (iSplit w)
  | 3 => decodeWide (wideSplit w)
  | 4 => decodeCmp (cmpSplit w)
  | 5 => decodePrep (bSplit w)
  | 6 => decodePrepr (iSplit w)
  | 7 => decodeXfer (xSplit w)
  | 8 => decodeLoop (iSplit w)
  | 9 => decodeLd (mSplit w)
  | 10 => decodeSt (mSplit w)
  | 11 => decodeAtom (rSplit w)
  | 12 => decodeFence (rSplit w)
  | 13 => decodeFop (rSplit w)
  | 14 => decodeFcvt (rSplit w)
  | 15 => decodeTask (rSplit w)
  | 16 => decodeMsg (rSplit w)
  | 17 => decodeGrp (rSplit w)
  | 18 => decodeVop (vSplit w)
  | 19 => decodeVmem (vSplit w)
  | 20 => decodeVperm (vSplit w)
  | 21 => decodeVctl (vSplit w)
  | 22 => decodeMtx (eSplit w)
  | 23 => decodeCpy (eSplit w)
  | 24 => decodeQue (rSplit w)
  | 25 => decodeStk (eSplit w)
  | 26 => decodeTen (rSplit w)
  | 27 => decodeSys (rSplit w)
  | _ => .error .reservedMajor

/-- Keeps an instruction whose modifiers are well formed (R32). -/
def checkModifiers (r : Except DecodeError Instr) : Except DecodeError Instr :=
  match r with
  | .ok i => if i.wf then .ok i else .error .reservedModifier
  | .error e => .error e

/-- Decodes a halfword whose bit 0 is 0 (R24 to R26). -/
def decode16 (h : BitVec 16) : Except DecodeError Instr :=
  if h = 0#16 then .error .zeroHalfword else checkModifiers (decodeShortForm h)

/-- Decodes a 32-bit word whose bit 0 is 1 (R27 to R32). -/
noncomputable def decode32 (w : BitVec 32) : Except DecodeError Instr := checkModifiers (decodeFields w)

/-- The length in bytes of the instruction whose first byte is given: bit 0 clear, 2; set, 4 (R21). -/
def instrLength (first : Byte) : Nat := if first.getLsbD 0 then 4 else 2

/-- Two bytes, the lower address first, as a halfword (R3). -/
def half (b0 b1 : Byte) : BitVec 16 := b1 ++ b0

/-- Four bytes, the lowest address first, as a word (R3). -/
def wordOf (b0 b1 b2 b3 : Byte) : BitVec 32 := (b3 ++ b2 ++ b1 ++ b0 : BitVec 32)

/-- Reads one instruction from the front of a byte list, and answers it with the bytes after it (R21). -/
noncomputable def decode (bs : List Byte) : Except DecodeError (Instr × List Byte) :=
  match bs with
  | b0 :: b1 :: rest =>
    if b0.getLsbD 0 then
      match rest with
      | b2 :: b3 :: rest' =>
        match decode32 (wordOf b0 b1 b2 b3) with
        | .ok i => .ok (i, rest')
        | .error e => .error e
      | _ => .error .truncated
    else
      match decode16 (half b0 b1) with
      | .ok i => .ok (i, rest)
      | .error e => .error e
  | _ => .error .truncated

/-- The encoding of an instruction: a halfword, a word, or none for a device event. -/
inductive Encoding where
  | half (h : BitVec 16)
  | word (w : BitVec 32)
  | none
  deriving DecidableEq, Repr

/-- A short form's halfword (R24). -/
def shortJoin (op : BitVec 4) (d b : BitVec 5) (m : BitVec 1) : BitVec 16 := (m ++ b ++ d ++ op ++ 0#1 : BitVec 16)

/-- The encoding of a well-formed instruction. -/
def encoding (i : Instr) : Encoding :=
  match i with
  | .vmov d b m => .half (shortJoin 0#4 d b m)
  | .vaddShort d b m => .half (shortJoin 1#4 d b m)
  | .vsubShort d b m => .half (shortJoin 2#4 d b m)
  | .vmulShort d b m => .half (shortJoin 3#4 d b m)
  | .vandShort d b m => .half (shortJoin 4#4 d b m)
  | .vorShort d b m => .half (shortJoin 5#4 d b m)
  | .vxorShort d b m => .half (shortJoin 6#4 d b m)
  | .vminShort d b m => .half (shortJoin 7#4 d b m)
  | .vmaxShort d b m => .half (shortJoin 8#4 d b m)
  | .vfaddShort d b m => .half (shortJoin 9#4 d b m)
  | .vfsubShort d b m => .half (shortJoin 10#4 d b m)
  | .vfmulShort d b m => .half (shortJoin 11#4 d b m)
  | .vfminShort d b m => .half (shortJoin 12#4 d b m)
  | .vfmaxShort d b m => .half (shortJoin 13#4 d b m)
  | .vfneg d b m => .half (shortJoin 14#4 d b m)
  | .vabs d b m => .half (shortJoin 15#4 d b m)
  | .add d a b => .word (rJoin 1#5 ⟨0#6, 0#5, b, a, d⟩)
  | .sub d a b => .word (rJoin 1#5 ⟨1#6, 0#5, b, a, d⟩)
  | .and d a b => .word (rJoin 1#5 ⟨2#6, 0#5, b, a, d⟩)
  | .or d a b => .word (rJoin 1#5 ⟨3#6, 0#5, b, a, d⟩)
  | .xor d a b => .word (rJoin 1#5 ⟨4#6, 0#5, b, a, d⟩)
  | .andn d a b => .word (rJoin 1#5 ⟨5#6, 0#5, b, a, d⟩)
  | .sll d a b => .word (rJoin 1#5 ⟨6#6, 0#5, b, a, d⟩)
  | .srl d a b => .word (rJoin 1#5 ⟨7#6, 0#5, b, a, d⟩)
  | .sra d a b => .word (rJoin 1#5 ⟨8#6, 0#5, b, a, d⟩)
  | .rol d a b => .word (rJoin 1#5 ⟨9#6, 0#5, b, a, d⟩)
  | .mul d a b => .word (rJoin 1#5 ⟨10#6, 0#5, b, a, d⟩)
  | .mulh d a b => .word (rJoin 1#5 ⟨11#6, 0#5, b, a, d⟩)
  | .mulhn d a b => .word (rJoin 1#5 ⟨12#6, 0#5, b, a, d⟩)
  | .div d a b => .word (rJoin 1#5 ⟨13#6, 0#5, b, a, d⟩)
  | .divn d a b => .word (rJoin 1#5 ⟨14#6, 0#5, b, a, d⟩)
  | .rem d a b => .word (rJoin 1#5 ⟨15#6, 0#5, b, a, d⟩)
  | .remn d a b => .word (rJoin 1#5 ⟨16#6, 0#5, b, a, d⟩)
  | .min d a b => .word (rJoin 1#5 ⟨17#6, 0#5, b, a, d⟩)
  | .max d a b => .word (rJoin 1#5 ⟨18#6, 0#5, b, a, d⟩)
  | .minn d a b => .word (rJoin 1#5 ⟨19#6, 0#5, b, a, d⟩)
  | .maxn d a b => .word (rJoin 1#5 ⟨20#6, 0#5, b, a, d⟩)
  | .clz d a => .word (rJoin 1#5 ⟨21#6, 0#5, 0#5, a, d⟩)
  | .ctz d a => .word (rJoin 1#5 ⟨22#6, 0#5, 0#5, a, d⟩)
  | .popc d a => .word (rJoin 1#5 ⟨23#6, 0#5, 0#5, a, d⟩)
  | .brev d a => .word (rJoin 1#5 ⟨24#6, 0#5, 0#5, a, d⟩)
  | .bswap d a => .word (rJoin 1#5 ⟨25#6, 0#5, 0#5, a, d⟩)
  | .sext d a b => .word (rJoin 1#5 ⟨26#6, 0#5, b, a, d⟩)
  | .bfx d a b => .word (rJoin 1#5 ⟨27#6, 0#5, b, a, d⟩)
  | .bfi d a b c => .word (rJoin 1#5 ⟨28#6, c, b, a, d⟩)
  | .sel d a b c => .word (rJoin 1#5 ⟨29#6, 0#2 ++ c, b, a, d⟩)
  | .addsat d a b => .word (rJoin 1#5 ⟨30#6, 0#5, b, a, d⟩)
  | .subsat d a b => .word (rJoin 1#5 ⟨31#6, 0#5, b, a, d⟩)
  | .madd d a b c => .word (rJoin 1#5 ⟨32#6, c, b, a, d⟩)
  | .addx d a b c => .word (rJoin 1#5 ⟨33#6, 0#2 ++ c, b, a, d⟩)
  | .addi d a i => .word (iJoin 2#5 ⟨i, 0#4, a, d⟩)
  | .andi d a i => .word (iJoin 2#5 ⟨i, 1#4, a, d⟩)
  | .ori d a i => .word (iJoin 2#5 ⟨i, 2#4, a, d⟩)
  | .xori d a i => .word (iJoin 2#5 ⟨i, 3#4, a, d⟩)
  | .slli d a i => .word (iJoin 2#5 ⟨0#6 ++ i, 4#4, a, d⟩)
  | .srli d a i => .word (iJoin 2#5 ⟨0#6 ++ i, 5#4, a, d⟩)
  | .srai d a i => .word (iJoin 2#5 ⟨0#6 ++ i, 6#4, a, d⟩)
  | .mini d a i => .word (iJoin 2#5 ⟨i, 7#4, a, d⟩)
  | .maxi d a i => .word (iJoin 2#5 ⟨i, 8#4, a, d⟩)
  | .bfxi d a i => .word (iJoin 2#5 ⟨i, 9#4, a, d⟩)
  | .wimm d p i => .word (wideJoin 3#5 ⟨0#2, i, 0#1, p, d⟩)
  | .wimmk d p i => .word (wideJoin 3#5 ⟨0#2, i, 1#1, p, d⟩)
  | .ceq q c a b => .word (cmpJoin 4#5 ⟨0#6, 0#5 ++ b, a, c, q⟩)
  | .cne q c a b => .word (cmpJoin 4#5 ⟨1#6, 0#5 ++ b, a, c, q⟩)
  | .clt q c a b => .word (cmpJoin 4#5 ⟨2#6, 0#5 ++ b, a, c, q⟩)
  | .cge q c a b => .word (cmpJoin 4#5 ⟨3#6, 0#5 ++ b, a, c, q⟩)
  | .cltn q c a b => .word (cmpJoin 4#5 ⟨4#6, 0#5 ++ b, a, c, q⟩)
  | .cgen q c a b => .word (cmpJoin 4#5 ⟨5#6, 0#5 ++ b, a, c, q⟩)
  | .ctst q c a b => .word (cmpJoin 4#5 ⟨6#6, 0#5 ++ b, a, c, q⟩)
  | .cbit q c a b => .word (cmpJoin 4#5 ⟨7#6, 0#5 ++ b, a, c, q⟩)
  | .ceqi q c a i => .word (cmpJoin 4#5 ⟨8#6, i, a, c, q⟩)
  | .cnei q c a i => .word (cmpJoin 4#5 ⟨9#6, i, a, c, q⟩)
  | .clti q c a i => .word (cmpJoin 4#5 ⟨10#6, i, a, c, q⟩)
  | .cgei q c a i => .word (cmpJoin 4#5 ⟨11#6, i, a, c, q⟩)
  | .cltni q c a i => .word (cmpJoin 4#5 ⟨12#6, i, a, c, q⟩)
  | .cgeni q c a i => .word (cmpJoin 4#5 ⟨13#6, i, a, c, q⟩)
  | .qand q c a b => .word (cmpJoin 4#5 ⟨14#6, 0#7 ++ b, 0#2 ++ a, c, q⟩)
  | .qor q c a b => .word (cmpJoin 4#5 ⟨15#6, 0#7 ++ b, 0#2 ++ a, c, q⟩)
  | .qnot q c a => .word (cmpJoin 4#5 ⟨16#6, 0#10, 0#2 ++ a, c, q⟩)
  | .qpack a => .word (cmpJoin 4#5 ⟨17#6, 0#10, a, 0#2, 0#3⟩)
  | .qunpack a => .word (cmpJoin 4#5 ⟨18#6, 0#10, a, 0#2, 0#3⟩)
  | .prep b i => .word (bJoin 5#5 ⟨i, 0#2, b⟩)
  | .prepc b i => .word (bJoin 5#5 ⟨i, 1#2, b⟩)
  | .prepr b a i => .word (iJoin 6#5 ⟨i, 0#4, a, 0#2 ++ b⟩)
  | .preprc b a i => .word (iJoin 6#5 ⟨i, 1#4, a, 0#2 ++ b⟩)
  | .btrd d b => .word (iJoin 6#5 ⟨0#12, 2#4, 0#2 ++ b, d⟩)
  | .btclr b => .word (iJoin 6#5 ⟨0#12, 3#4, 0#5, 0#2 ++ b⟩)
  | .jmp b q s => .word (xJoin 7#5 ⟨0#17, 0#2, s, q, b⟩)
  | .call b q s => .word (xJoin 7#5 ⟨0#17, 1#2, s, q, b⟩)
  | .jmpx b q s => .word (xJoin 7#5 ⟨0#17, 2#2, s, q, b⟩)
  | .lset s a i => .word (iJoin 8#5 ⟨i, 0#4, a, 0#4 ++ s⟩)
  | .lseti s n i => .word (iJoin 8#5 ⟨i, 1#4, n.extractLsb' 4 5, n.extractLsb' 0 4 ++ s⟩)
  | .lrd d r e => .word (iJoin 8#5 ⟨0#9 ++ e ++ r, 2#4, 0#5, d⟩)
  | .lwr a r e => .word (iJoin 8#5 ⟨0#9 ++ e ++ r, 3#4, a, 0#5⟩)
  | .lbrk e => .word (iJoin 8#5 ⟨0#9 ++ e ++ 0#2, 4#4, 0#5, 0#5⟩)
  | .ldb d a m r o => .word (mJoin 9#5 ⟨o, r, m, 0#3, a, d⟩)
  | .ldh d a m r o => .word (mJoin 9#5 ⟨o, r, m, 1#3, a, d⟩)
  | .ldw d a m r o => .word (mJoin 9#5 ⟨o, r, m, 2#3, a, d⟩)
  | .ldd d a m r o => .word (mJoin 9#5 ⟨o, r, m, 3#3, a, d⟩)
  | .ldbn d a m r o => .word (mJoin 9#5 ⟨o, r, m, 4#3, a, d⟩)
  | .ldhn d a m r o => .word (mJoin 9#5 ⟨o, r, m, 5#3, a, d⟩)
  | .ldwn d a m r o => .word (mJoin 9#5 ⟨o, r, m, 6#3, a, d⟩)
  | .ldq d a m r o => .word (mJoin 9#5 ⟨o, r, m, 7#3, a, d ++ 0#1⟩)
  | .stb d a m r o => .word (mJoin 10#5 ⟨o, r, m, 0#3, a, d⟩)
  | .sth d a m r o => .word (mJoin 10#5 ⟨o, r, m, 1#3, a, d⟩)
  | .stw d a m r o => .word (mJoin 10#5 ⟨o, r, m, 2#3, a, d⟩)
  | .std d a m r o => .word (mJoin 10#5 ⟨o, r, m, 3#3, a, d⟩)
  | .stq d a m r o => .word (mJoin 10#5 ⟨o, r, m, 4#3, a, d ++ 0#1⟩)
  | .aadd d a b p s => .word (rJoin 11#5 ⟨0#6, s ++ p, b, a, d⟩)
  | .aand d a b p s => .word (rJoin 11#5 ⟨1#6, s ++ p, b, a, d⟩)
  | .aor d a b p s => .word (rJoin 11#5 ⟨2#6, s ++ p, b, a, d⟩)
  | .axor d a b p s => .word (rJoin 11#5 ⟨3#6, s ++ p, b, a, d⟩)
  | .amin d a b p s => .word (rJoin 11#5 ⟨4#6, s ++ p, b, a, d⟩)
  | .amax d a b p s => .word (rJoin 11#5 ⟨5#6, s ++ p, b, a, d⟩)
  | .aminn d a b p s => .word (rJoin 11#5 ⟨6#6, s ++ p, b, a, d⟩)
  | .amaxn d a b p s => .word (rJoin 11#5 ⟨7#6, s ++ p, b, a, d⟩)
  | .aswap d a b p s => .word (rJoin 11#5 ⟨8#6, s ++ p, b, a, d⟩)
  | .acas d a b p s => .word (rJoin 11#5 ⟨9#6, s ++ p, b, a, d⟩)
  | .afadds d a b p s => .word (rJoin 11#5 ⟨10#6, s ++ p, b, a, d⟩)
  | .afaddd d a b p s => .word (rJoin 11#5 ⟨11#6, s ++ p, b, a, d⟩)
  | .aaddW d a b p s => .word (rJoin 11#5 ⟨16#6, s ++ p, b, a, d⟩)
  | .aandW d a b p s => .word (rJoin 11#5 ⟨17#6, s ++ p, b, a, d⟩)
  | .aorW d a b p s => .word (rJoin 11#5 ⟨18#6, s ++ p, b, a, d⟩)
  | .axorW d a b p s => .word (rJoin 11#5 ⟨19#6, s ++ p, b, a, d⟩)
  | .aminW d a b p s => .word (rJoin 11#5 ⟨20#6, s ++ p, b, a, d⟩)
  | .amaxW d a b p s => .word (rJoin 11#5 ⟨21#6, s ++ p, b, a, d⟩)
  | .aminnW d a b p s => .word (rJoin 11#5 ⟨22#6, s ++ p, b, a, d⟩)
  | .amaxnW d a b p s => .word (rJoin 11#5 ⟨23#6, s ++ p, b, a, d⟩)
  | .aswapW d a b p s => .word (rJoin 11#5 ⟨24#6, s ++ p, b, a, d⟩)
  | .acasW d a b p s => .word (rJoin 11#5 ⟨25#6, s ++ p, b, a, d⟩)
  | .fence k s => .word (rJoin 12#5 ⟨0#6, s ++ k, 0#5, 0#5, 0#5⟩)
  | .ifence => .word (rJoin 12#5 ⟨1#6, 0#5, 0#5, 0#5, 0#5⟩)
  | .qfence a => .word (rJoin 12#5 ⟨2#6, 0#5, 0#5, a, 0#5⟩)
  | .faddd d a b r o => .word (rJoin 13#5 ⟨0#6, 0#1 ++ o ++ r, b, a, d⟩)
  | .fsubd d a b r o => .word (rJoin 13#5 ⟨1#6, 0#1 ++ o ++ r, b, a, d⟩)
  | .fmuld d a b r o => .word (rJoin 13#5 ⟨2#6, 0#1 ++ o ++ r, b, a, d⟩)
  | .fdivd d a b r o => .word (rJoin 13#5 ⟨3#6, 0#1 ++ o ++ r, b, a, d⟩)
  | .fsqrtd d a r o => .word (rJoin 13#5 ⟨4#6, 0#1 ++ o ++ r, 0#5, a, d⟩)
  | .fmind d a b => .word (rJoin 13#5 ⟨5#6, 0#5, b, a, d⟩)
  | .fmaxd d a b => .word (rJoin 13#5 ⟨6#6, 0#5, b, a, d⟩)
  | .fmad d a b c => .word (rJoin 13#5 ⟨7#6, c, b, a, d⟩)
  | .fabsd d a => .word (rJoin 13#5 ⟨8#6, 0#5, 0#5, a, d⟩)
  | .fnegd d a => .word (rJoin 13#5 ⟨9#6, 0#5, 0#5, a, d⟩)
  | .fclassd d a => .word (rJoin 13#5 ⟨10#6, 0#5, 0#5, a, d⟩)
  | .fceqd d a b => .word (rJoin 13#5 ⟨11#6, 0#5, b, a, d⟩)
  | .fcltd d a b => .word (rJoin 13#5 ⟨12#6, 0#5, b, a, d⟩)
  | .fcled d a b => .word (rJoin 13#5 ⟨13#6, 0#5, b, a, d⟩)
  | .fadds d a b r o => .word (rJoin 13#5 ⟨16#6, 0#1 ++ o ++ r, b, a, d⟩)
  | .fsubs d a b r o => .word (rJoin 13#5 ⟨17#6, 0#1 ++ o ++ r, b, a, d⟩)
  | .fmuls d a b r o => .word (rJoin 13#5 ⟨18#6, 0#1 ++ o ++ r, b, a, d⟩)
  | .fdivs d a b r o => .word (rJoin 13#5 ⟨19#6, 0#1 ++ o ++ r, b, a, d⟩)
  | .fsqrts d a r o => .word (rJoin 13#5 ⟨20#6, 0#1 ++ o ++ r, 0#5, a, d⟩)
  | .fmins d a b => .word (rJoin 13#5 ⟨21#6, 0#5, b, a, d⟩)
  | .fmaxs d a b => .word (rJoin 13#5 ⟨22#6, 0#5, b, a, d⟩)
  | .fmas d a b c => .word (rJoin 13#5 ⟨23#6, c, b, a, d⟩)
  | .fabss d a => .word (rJoin 13#5 ⟨24#6, 0#5, 0#5, a, d⟩)
  | .fnegs d a => .word (rJoin 13#5 ⟨25#6, 0#5, 0#5, a, d⟩)
  | .fclasss d a => .word (rJoin 13#5 ⟨26#6, 0#5, 0#5, a, d⟩)
  | .fceqs d a b => .word (rJoin 13#5 ⟨27#6, 0#5, b, a, d⟩)
  | .fclts d a b => .word (rJoin 13#5 ⟨28#6, 0#5, b, a, d⟩)
  | .fcles d a b => .word (rJoin 13#5 ⟨29#6, 0#5, b, a, d⟩)
  | .fcvt d a b c => .word (rJoin 14#5 ⟨0#6, c, b, a, d⟩)
  | .icvtf d a b c => .word (rJoin 14#5 ⟨1#6, c, b, a, d⟩)
  | .fcvti d a b c => .word (rJoin 14#5 ⟨2#6, c, b, a, d⟩)
  | .rmode d a => .word (rJoin 14#5 ⟨3#6, 0#5, 0#5, a, d⟩)
  | .rmake d a b r o => .word (rJoin 14#5 ⟨4#6, 0#1 ++ o ++ r, b, a, d⟩)
  | .rnumer d a => .word (rJoin 14#5 ⟨5#6, 0#5, 0#5, a, d⟩)
  | .rdenom d a => .word (rJoin 14#5 ⟨6#6, 0#5, 0#5, a, d⟩)
  | .rmed d a b r o => .word (rJoin 14#5 ⟨7#6, 0#1 ++ o ++ r, b, a, d⟩)
  | .rcf d a => .word (rJoin 14#5 ⟨8#6, 0#5, 0#5, a, d ++ 0#1⟩)
  | .rfromd d a r o => .word (rJoin 14#5 ⟨9#6, 0#1 ++ o ++ r, 0#5, a, d⟩)
  | .rtod d a r o => .word (rJoin 14#5 ⟨10#6, 0#1 ++ o ++ r, 0#5, a, d⟩)
  | .tspawn q a b c => .word (rJoin 15#5 ⟨0#6, c, b, a, 0#2 ++ q⟩)
  | .tspawnn q a b => .word (rJoin 15#5 ⟨1#6, 0#5, b, a, 0#2 ++ q⟩)
  | .tspawnu q a b => .word (rJoin 15#5 ⟨2#6, 0#5, b, a, 0#2 ++ q⟩)
  | .callat q a b => .word (rJoin 15#5 ⟨3#6, 0#5, b, a, 0#2 ++ q⟩)
  | .tdone => .word (rJoin 15#5 ⟨4#6, 0#5, 0#5, 0#5, 0#5⟩)
  | .tts d => .word (rJoin 15#5 ⟨5#6, 0#5, 0#5, 0#5, d ++ 0#1⟩)
  | .tgvt d a => .word (rJoin 15#5 ⟨6#6, 0#5, 0#5, a, d ++ 0#1⟩)
  | .lnch q a b => .word (rJoin 15#5 ⟨7#6, 0#5, b, a, 0#2 ++ q⟩)
  | .tidleq d a => .word (rJoin 15#5 ⟨8#6, 0#5, 0#5, a, d⟩)
  | .msend q a b => .word (rJoin 16#5 ⟨0#6, 0#5, b, a, 0#2 ++ q⟩)
  | .msendt q a b => .word (rJoin 16#5 ⟨1#6, 0#5, b, a, 0#2 ++ q⟩)
  | .mrecv d a b c => .word (rJoin 16#5 ⟨2#6, 0#2 ++ c, b, a, d⟩)
  | .mwait => .word (rJoin 16#5 ⟨3#6, 0#5, 0#5, 0#5, 0#5⟩)
  | .marm a b => .word (rJoin 16#5 ⟨4#6, 0#5, b, a, 0#5⟩)
  | .rqput a b c => .word (rJoin 16#5 ⟨5#6, 0#2 ++ c, b, a, 0#5⟩)
  | .rqtake d c => .word (rJoin 16#5 ⟨6#6, 0#2 ++ c, 0#5, 0#5, d⟩)
  | .kbin a b => .word (rJoin 16#5 ⟨7#6, 0#5, b, a, 0#5⟩)
  | .kdrain => .word (rJoin 16#5 ⟨8#6, 0#5, 0#5, 0#5, 0#5⟩)
  | .gnew d c => .word (rJoin 17#5 ⟨0#6, 0#2 ++ c, 0#5, 0#5, d⟩)
  | .gjoin a c => .word (rJoin 17#5 ⟨1#6, 0#2 ++ c, 0#5, a, 0#5⟩)
  | .gleave a => .word (rJoin 17#5 ⟨2#6, 0#5, 0#5, a, 0#5⟩)
  | .gbar a => .word (rJoin 17#5 ⟨3#6, 0#5, 0#5, a, 0#5⟩)
  | .gcount d a => .word (rJoin 17#5 ⟨4#6, 0#5, 0#5, a, d⟩)
  | .gfree a => .word (rJoin 17#5 ⟨5#6, 0#5, 0#5, a, 0#5⟩)
  | .vadd d a b k w => .word (vJoin 18#5 ⟨0#6, w, k, b, a, d⟩)
  | .vsub d a b k w => .word (vJoin 18#5 ⟨1#6, w, k, b, a, d⟩)
  | .vmul d a b k w => .word (vJoin 18#5 ⟨2#6, w, k, b, a, d⟩)
  | .vmin d a b k w => .word (vJoin 18#5 ⟨3#6, w, k, b, a, d⟩)
  | .vmax d a b k w => .word (vJoin 18#5 ⟨4#6, w, k, b, a, d⟩)
  | .vand d a b k w => .word (vJoin 18#5 ⟨5#6, w, k, b, a, d⟩)
  | .vor d a b k w => .word (vJoin 18#5 ⟨6#6, w, k, b, a, d⟩)
  | .vxor d a b k w => .word (vJoin 18#5 ⟨7#6, w, k, b, a, d⟩)
  | .vsll d a b k w => .word (vJoin 18#5 ⟨8#6, w, k, b, a, d⟩)
  | .vsrl d a b k w => .word (vJoin 18#5 ⟨9#6, w, k, b, a, d⟩)
  | .vsra d a b k w => .word (vJoin 18#5 ⟨10#6, w, k, b, a, d⟩)
  | .vaddsat d a b k w => .word (vJoin 18#5 ⟨11#6, w, k, b, a, d⟩)
  | .vdot4 d a b k => .word (vJoin 18#5 ⟨12#6, 2#2, k, b, a, d⟩)
  | .vfadd d a b k w => .word (vJoin 18#5 ⟨13#6, w, k, b, a, d⟩)
  | .vfsub d a b k w => .word (vJoin 18#5 ⟨14#6, w, k, b, a, d⟩)
  | .vfmul d a b k w => .word (vJoin 18#5 ⟨15#6, w, k, b, a, d⟩)
  | .vfma d a b k w => .word (vJoin 18#5 ⟨16#6, w, k, b, a, d⟩)
  | .vfmin d a b k w => .word (vJoin 18#5 ⟨17#6, w, k, b, a, d⟩)
  | .vfmax d a b k w => .word (vJoin 18#5 ⟨18#6, w, k, b, a, d⟩)
  | .vrcp d a k w => .word (vJoin 18#5 ⟨19#6, w, k, 0#5, a, d⟩)
  | .vrsq d a k w => .word (vJoin 18#5 ⟨20#6, w, k, 0#5, a, d⟩)
  | .vrcps d a b k w => .word (vJoin 18#5 ⟨21#6, w, k, b, a, d⟩)
  | .vrsqs d a b k w => .word (vJoin 18#5 ⟨22#6, w, k, b, a, d⟩)
  | .vcmpeq d a b k w => .word (vJoin 18#5 ⟨23#6, 1#1 ++ w, k, b, a, 0#2 ++ d⟩)
  | .vcmplt d a b k w => .word (vJoin 18#5 ⟨24#6, 1#1 ++ w, k, b, a, 0#2 ++ d⟩)
  | .vcmpltn d a b k w => .word (vJoin 18#5 ⟨25#6, 1#1 ++ w, k, b, a, 0#2 ++ d⟩)
  | .vfcmpeq d a b k w => .word (vJoin 18#5 ⟨26#6, 1#1 ++ w, k, b, a, 0#2 ++ d⟩)
  | .vfcmplt d a b k w => .word (vJoin 18#5 ⟨27#6, 1#1 ++ w, k, b, a, 0#2 ++ d⟩)
  | .vsel d a b k w => .word (vJoin 18#5 ⟨28#6, w, k, b, a, d⟩)
  | .vcvt d a b s => .word (vJoin 18#5 ⟨29#6, s.extractLsb' 3 2, s.extractLsb' 0 3, b, a, d⟩)
  | .vlut d a h k => .word (vJoin 18#5 ⟨30#6, 0#2, k, 0#4 ++ h, a, d⟩)
  | .vbcast d a k w => .word (vJoin 18#5 ⟨31#6, w, k, 0#5, a, d⟩)
  | .vld d a k w => .word (vJoin 19#5 ⟨0#6, w, k, 0#5, a, d⟩)
  | .vst d a k w => .word (vJoin 19#5 ⟨1#6, w, k, 0#5, a, d⟩)
  | .vlds d a b k w => .word (vJoin 19#5 ⟨2#6, w, k, b, a, d⟩)
  | .vsts d a b k w => .word (vJoin 19#5 ⟨3#6, w, k, b, a, d⟩)
  | .vldx d a b k w => .word (vJoin 19#5 ⟨4#6, 1#1 ++ w, k, b, a, d⟩)
  | .vstx d a b k w => .word (vJoin 19#5 ⟨5#6, 1#1 ++ w, k, b, a, d⟩)
  | .vstxa d a b k w => .word (vJoin 19#5 ⟨6#6, 1#1 ++ w, k, b, a, d⟩)
  | .vldt d a k w => .word (vJoin 19#5 ⟨7#6, w, k, 0#5, a, d⟩)
  | .vstt d a k w => .word (vJoin 19#5 ⟨8#6, w, k, 0#5, a, d⟩)
  | .vperm d a b k w => .word (vJoin 20#5 ⟨0#6, w, k, b, a, d⟩)
  | .vrotl d a b k w => .word (vJoin 20#5 ⟨1#6, w, k, b, a, d⟩)
  | .vtrans d w => .word (vJoin 20#5 ⟨2#6, w, 0#3, 0#5, 0#5, d ++ 0#3⟩)
  | .vrsum d a k w => .word (vJoin 20#5 ⟨3#6, w, k, 0#5, a, d⟩)
  | .vrmin d a k w => .word (vJoin 20#5 ⟨4#6, w, k, 0#5, a, d⟩)
  | .vrmax d a k w => .word (vJoin 20#5 ⟨5#6, w, k, 0#5, a, d⟩)
  | .vfrsum d a k w => .word (vJoin 20#5 ⟨6#6, w, k, 0#5, a, d⟩)
  | .vscan d a k w => .word (vJoin 20#5 ⟨7#6, w, k, 0#5, a, d⟩)
  | .vcompress d a k w => .word (vJoin 20#5 ⟨8#6, w, k, 0#5, a, d⟩)
  | .vexpand d a k w => .word (vJoin 20#5 ⟨9#6, w, k, 0#5, a, d⟩)
  | .vselk d a b k w => .word (vJoin 20#5 ⟨10#6, w, k, b, a, d⟩)
  | .viota d k w => .word (vJoin 20#5 ⟨11#6, w, k, 0#5, 0#5, d⟩)
  | .vpopk d k w => .word (vJoin 20#5 ⟨12#6, w, k, 0#5, 0#5, d⟩)
  | .ksend d a b k => .word (vJoin 20#5 ⟨13#6, 2#2, k, b, a, d⟩)
  | .vclaim d a => .word (vJoin 21#5 ⟨0#6, 0#2, 0#3, 0#5, a, d⟩)
  | .vreneg d => .word (vJoin 21#5 ⟨1#6, 0#2, 0#3, 0#5, 0#5, d⟩)
  | .vrel => .word (vJoin 21#5 ⟨2#6, 0#2, 0#3, 0#5, 0#5, 0#5⟩)
  | .vsetw w => .word (vJoin 21#5 ⟨3#6, w, 0#3, 0#5, 0#5, 0#5⟩)
  | .vmvg d a b w => .word (vJoin 21#5 ⟨4#6, w, 0#3, b, a, d⟩)
  | .vmvv d a b w => .word (vJoin 21#5 ⟨5#6, w, 0#3, b, a, d⟩)
  | .vfence => .word (vJoin 21#5 ⟨6#6, 0#2, 0#3, 0#5, 0#5, 0#5⟩)
  | .vbusyq d => .word (vJoin 21#5 ⟨7#6, 0#2, 0#3, 0#5, 0#5, d⟩)
  | .kset k a => .word (vJoin 21#5 ⟨8#6, 0#2, 0#3, 0#5, a, 0#2 ++ k⟩)
  | .kget d k => .word (vJoin 21#5 ⟨9#6, 0#2, 0#3, 0#5, 0#2 ++ k, d⟩)
  | .mma x m a b p => .word (eJoin 22#5 ⟨0#6, p, b, a, 0#2 ++ m, x⟩)
  | .mmas x m a b p => .word (eJoin 22#5 ⟨1#6, p, b, a, 0#2 ++ m, x⟩)
  | .mspx x m a b p => .word (eJoin 22#5 ⟨2#6, p, b, a, 0#2 ++ m, x⟩)
  | .mzero x p => .word (eJoin 22#5 ⟨3#6, p, 0#5, 0#5, 0#4, x⟩)
  | .mldacc x m a b p => .word (eJoin 22#5 ⟨4#6, p, b, a, 0#2 ++ m, x⟩)
  | .mstacc x m a b p => .word (eJoin 22#5 ⟨5#6, p, b, a, 0#2 ++ m, x⟩)
  | .mwbld m a b p => .word (eJoin 22#5 ⟨6#6, p, b, a, 0#2 ++ m, 0#3⟩)
  | .tzset x a b c => .word (eJoin 22#5 ⟨7#6, c, b, a, 0#4, x⟩)
  | .mburst a => .word (eJoin 22#5 ⟨8#6, 0#3, 0#5, a, 0#4, 0#3⟩)
  | .mfence => .word (eJoin 22#5 ⟨9#6, 0#3, 0#5, 0#5, 0#4, 0#3⟩)
  | .cpy x c a b => .word (eJoin 23#5 ⟨0#6, 0#3, b, a, c, x⟩)
  | .cpya x c a => .word (eJoin 23#5 ⟨1#6, 0#3, 0#5, a, c, x⟩)
  | .cpymx x c a b => .word (eJoin 23#5 ⟨2#6, 0#3, b, a, c, x⟩)
  | .cwm c a => .word (eJoin 23#5 ⟨3#6, 0#3, 0#5, a, c, 0#3⟩)
  | .cwait c a => .word (eJoin 23#5 ⟨4#6, 0#3, 0#5, a, c, 0#3⟩)
  | .cstrm x c a b => .word (eJoin 23#5 ⟨5#6, 0#3, b, a, c, x⟩)
  | .cstrmx x c a b => .word (eJoin 23#5 ⟨6#6, 0#3, b, a, c, x⟩)
  | .cperm x c a b => .word (eJoin 23#5 ⟨7#6, 0#3, b, a, c, x⟩)
  | .cstop c a => .word (eJoin 23#5 ⟨8#6, 0#3, 0#5, a, c, 0#3⟩)
  | .qnew d a b c => .word (rJoin 24#5 ⟨0#6, 0#2 ++ c, b, a, d⟩)
  | .qbind a b => .word (rJoin 24#5 ⟨1#6, 0#5, b, a, 0#5⟩)
  | .qunbind a b => .word (rJoin 24#5 ⟨2#6, 0#5, b, a, 0#5⟩)
  | .qcnt d a => .word (rJoin 24#5 ⟨3#6, 0#5, 0#5, a, d⟩)
  | .qtry d a c => .word (rJoin 24#5 ⟨4#6, 0#2 ++ c, 0#5, a, d⟩)
  | .sgath x c a b => .word (eJoin 25#5 ⟨0#6, 0#3, b, a, c, x⟩)
  | .sscat x a b => .word (eJoin 25#5 ⟨1#6, 0#3, b, a, 0#4, x⟩)
  | .sred x a b o => .word (eJoin 25#5 ⟨2#6, o, b, a, 0#4, x⟩)
  | .sconv x a b => .word (eJoin 25#5 ⟨3#6, 0#3, b, a, 0#4, x⟩)
  | .sfence => .word (eJoin 25#5 ⟨4#6, 0#3, 0#5, 0#5, 0#4, 0#3⟩)
  | .sstat a => .word (eJoin 25#5 ⟨5#6, 0#3, 0#5, a, 0#4, 0#3⟩)
  | .tdef a b => .word (rJoin 26#5 ⟨0#6, 0#5, b, a, 0#5⟩)
  | .trd d a b => .word (rJoin 26#5 ⟨1#6, 0#5, b, a, d⟩)
  | .tinv a s => .word (rJoin 26#5 ⟨2#6, 0#2 ++ s, 0#5, a, 0#5⟩)
  | .lutld a b => .word (rJoin 26#5 ⟨3#6, 0#5, b, a, 0#5⟩)
  | .lutrd d a => .word (rJoin 26#5 ⟨4#6, 0#5, 0#5, a, d⟩)
  | .crr d b c => .word (rJoin 27#5 ⟨0#6, c, b, 0#5, d⟩)
  | .crw d a b c => .word (rJoin 27#5 ⟨1#6, c, b, a, d⟩)
  | .crs d a b c => .word (rJoin 27#5 ⟨2#6, c, b, a, d⟩)
  | .crc d a b c => .word (rJoin 27#5 ⟨3#6, c, b, a, d⟩)
  | .trap a => .word (rJoin 27#5 ⟨4#6, 0#5, 0#5, a, 0#5⟩)
  | .eret b => .word (rJoin 27#5 ⟨5#6, 0#5, 0#5, 0#5, 0#2 ++ b⟩)
  | .wfi => .word (rJoin 27#5 ⟨6#6, 0#5, 0#5, 0#5, 0#5⟩)
  | .tlbi a b => .word (rJoin 27#5 ⟨7#6, 0#5, b, a, 0#5⟩)
  | .tlbsync => .word (rJoin 27#5 ⟨8#6, 0#5, 0#5, 0#5, 0#5⟩)
  | .ctxpark a b => .word (rJoin 27#5 ⟨9#6, 0#5, b, a, 0#5⟩)
  | .ctxload q a => .word (rJoin 27#5 ⟨10#6, 0#5, 0#5, a, 0#2 ++ q⟩)
  | .brkpt => .word (rJoin 27#5 ⟨11#6, 0#5, 0#5, 0#5, 0#5⟩)
  | .monrd d a => .word (rJoin 27#5 ⟨12#6, 0#5, 0#5, a, d⟩)
  | .tvecWrite _ => .none
  | .crumbbaseWrite _ => .none
  | .spillctlWrite _ => .none
  | .thawMaster _ _ _ => .none
  | .discardMaster _ _ _ => .none
  | .monctlWrite _ _ => .none
  | .registerWrite _ _ => .none
  | .gets _ _ => .none
  | .getm _ _ => .none
  | .upg _ _ => .none
  | .pute _ _ => .none
  | .putm _ _ => .none
  | .inv _ _ => .none
  | .fwd _ _ => .none
  | .ack _ _ => .none
  | .dack _ _ => .none
  | .grant _ _ => .none
  | .fill _ _ => .none
  | .wback _ _ => .none
  | .uncachedHomeAccess _ _ => .none
  | .bisnp _ => .none
  | .storeBufferDrain _ _ => .none
  | .walkRequest _ => .none
  | .walkResult _ => .none
  | .adUpdate _ => .none
  | .tlbiDrop _ => .none
  | .tensorCacheDrop _ => .none
  | .windowArrival _ _ => .none
  | .windowFetchFailure _ _ => .none
  | .fetchBufferArrival _ => .none
  | .interruptTake _ => .none
  | .timerExpiry _ => .none
  | .frozenCommandReport _ => .none
  | .transferStart _ _ => .none
  | .lineReturn _ _ => .none
  | .transferComplete _ _ => .none
  | .handlePush _ _ => .none
  | .followOnPlacement _ _ => .none
  | .streamRefill _ _ => .none
  | .streamDrain _ _ => .none
  | .remoteWriteAck _ _ _ => .none
  | .inboundRdmaWrite _ _ _ => .none
  | .inboundRdmaRead _ _ _ => .none
  | .unsupportedOperation _ => .none
  | .queuePushArrival _ => .none
  | .queueCreditReturn _ => .none
  | .stackSnapshot _ => .none
  | .stackElement _ => .none
  | .stackCommandComplete _ => .none
  | .vectorCommandExecute _ => .none
  | .binUpdate _ => .none
  | .matrixQueueHead _ => .none
  | .arrayCommandStart _ => .none
  | .matrixCommandComplete _ => .none
  | .arrayRampupDone _ => .none
  | .arrayIdleTimeout _ => .none
  | .arrayHoldTimeout _ => .none
  | .arrayRampdownDone _ => .none
  | .spawnArrival _ => .none
  | .spawnAnswer _ => .none
  | .taskReload _ => .none
  | .taskDispatch _ => .none
  | .crumbRestore _ _ => .none
  | .virtualTimeSample => .none
  | .gvtPublish => .none
  | .domainAgeExpiry _ => .none
  | .messageArrival _ => .none
  | .messageAnswer _ => .none
  | .launchExpansion _ => .none
  | .launchRecordRead _ => .none
  | .pieceStart _ => .none
  | .lmImageCopy _ => .none
  | .launchCompletionUpdate _ => .none
  | .rotationBoundary => .none
  | .preemptionRequest _ _ => .none
  | .slotHalt _ => .none
  | .answerWrite _ => .none
  | .contextResume _ => .none
  | .migrationArrival _ => .none
  | .idleTreeSample => .none
  | .powerControlSample _ => .none
  | .correctedError _ => .none
  | .uncorrectableError _ _ _ => .none
  | .takeoverComplete _ _ => .none
  | .flitCrcFailure _ => .none
  | .linkDown _ => .none
  | .linkDegraded _ => .none
  | .cxlFailure _ _ _ => .none
  | .powerOn => .none
  | .romchkComplete _ => .none
  | .trainingComplete => .none
  | .initComplete => .none
  | .regionGating _ _ => .none
  | .identity _ => .none
  | .attest _ _ => .none
  | .bootcfg _ _ _ _ _ _ _ _ => .none
  | .qcreate _ _ _ _ _ _ _ _ _ => .none
  | .qset _ _ _ _ => .none
  | .qdelete _ _ => .none
  | .launch _ _ _ => .none
  | .qstatus _ _ => .none
  | .epset _ _ _ _ _ _ _ => .none
  | .mrreg _ _ _ _ _ _ => .none
  | .errlog _ _ => .none
  | .linkstat _ => .none
  | .cxlinfo _ => .none
  | .power _ _ _ => .none
  | .sparemap _ => .none
  | .resetOrderly _ => .none
  | .resetFatal _ => .none
  | .rationalOperationComplete _ => .none
  | .groupAnswer _ => .none
  | .lnchAnswer _ => .none
  | .badop _ _ => .none
  | .rdmaRetriesExhausted _ _ => .none
  | .keptConfigurationReapplied => .none

/-- The bytes of a halfword, lowest address first (R3). -/
def halfBytes (h : BitVec 16) : List Byte := [h.extractLsb' 0 8, h.extractLsb' 8 8]

/-- The bytes of a 32-bit word, lowest address first (R3). -/
def wordBytes (w : BitVec 32) : List Byte :=
  [w.extractLsb' 0 8, w.extractLsb' 8 8, w.extractLsb' 16 8, w.extractLsb' 24 8]

/-- The bytes of a well-formed instruction, lowest address first; none for a device event. -/
def encode (i : Instr) : List Byte :=
  match encoding i with
  | .half h => halfBytes h
  | .word w => wordBytes w
  | .none => []

/-- Whether the opcode table gives the instruction an encoding. -/
def Instr.encoded (i : Instr) : Bool :=
  match encoding i with
  | .none => false
  | _ => true

/-- The bytes, lowest address first, of an instruction whose bits are w: the bits above nbits are zero, up to the four
bytes of the longest instruction. -/
def tableBytes (nbits w : Nat) : List Byte := wordBytes (BitVec.ofNat 32 (w % 2 ^ nbits))

/-- The instruction the decoder reads from an instruction whose bits are w, numbered as the opcode table numbers
them. -/
noncomputable def decodeTableWord (nbits w : Nat) : Option Instr :=
  match decode (tableBytes nbits w) with
  | .ok (i, _) => some i
  | .error _ => none

end Sys2Proof
end

