-- ==== Sys2Proof/Machine/Int.lean ====
section
/-! DEFINITION. The IOP, IOPI and WIDE instructions (R187 to R194). -/

namespace Sys2Proof.Machine

/-- An instruction whose result is a function of g[a] and g[b]. -/
def binop (d a b : BitVec 5) (f : Word → Word → Word) (s : State) : Host.Outcome State Fault Refusal :=
  done (compute d [a, b] fun s => f (s.rd a) (s.rd b)) s
/-- An instruction whose result is a function of g[a]. -/
def unop (d a : BitVec 5) (f : Word → Word) (s : State) : Host.Outcome State Fault Refusal :=
  done (compute d [a] fun s => f (s.rd a)) s
/-- An instruction whose result is a function of g[a], g[b] and g[c]. -/
def terop (d a b c : BitVec 5) (f : Word → Word → Word → Word) (s : State) : Host.Outcome State Fault Refusal :=
  done (compute d [a, b, c] fun s => f (s.rd a) (s.rd b) (s.rd c)) s

/-- ROL (R188). -/
def rolValue (x y : Word) : Word :=
  let n := wfield y 5 0
  (x <<< n) ||| (x >>> (64 - n))
/-- SRA (R188). -/
def sraValue (x : Word) (n : Nat) : Word := x.sshiftRight n
/-- Signed minimum (R188). -/
def sminValue (x y : Word) : Word := if x.toInt ≤ y.toInt then x else y
/-- Signed maximum (R188). -/
def smaxValue (x y : Word) : Word := if x.toInt ≤ y.toInt then y else x
/-- Unsigned minimum (R188). -/
def uminValue (x y : Word) : Word := if x.toNat ≤ y.toNat then x else y
/-- Unsigned maximum (R188). -/
def umaxValue (x y : Word) : Word := if x.toNat ≤ y.toNat then y else x
/-- MULH (R189). -/
def mulhValue (x y : Word) : Word := BitVec.ofInt 64 (x.toInt * y.toInt / 2 ^ 64)
/-- MULHN (R189). -/
def mulhnValue (x y : Word) : Word := BitVec.ofNat 64 (x.toNat * y.toNat / 2 ^ 64)
/-- DIV: truncated toward zero; all ones for a zero divisor (R189). -/
def divValue (x y : Word) : Word := if y = 0#64 then 0xFFFFFFFFFFFFFFFF#64 else BitVec.ofInt 64 (x.toInt.tdiv y.toInt)
/-- DIVN (R189). -/
def divnValue (x y : Word) : Word := if y = 0#64 then 0xFFFFFFFFFFFFFFFF#64 else BitVec.ofNat 64 (x.toNat / y.toNat)
/-- REM: the sign of the dividend; x for a zero divisor (R189). -/
def remValue (x y : Word) : Word := if y = 0#64 then x else BitVec.ofInt 64 (x.toInt.tmod y.toInt)
/-- REMN (R189). -/
def remnValue (x y : Word) : Word := if y = 0#64 then x else BitVec.ofNat 64 (x.toNat % y.toNat)

/-- Zero bits of a word before the first one bit, counted through a list of bit positions. -/
def countZeros (x : Word) : List Nat → Nat
  | [] => 0
  | i :: is => if x.getLsbD i then 0 else countZeros x is + 1
/-- CLZ (R190). -/
def clzValue (x : Word) : Word := BitVec.ofNat 64 (countZeros x (List.range 64).reverse)
/-- CTZ (R190). -/
def ctzValue (x : Word) : Word := BitVec.ofNat 64 (countZeros x (List.range 64))
/-- Number of one bits. -/
def ones (x : Word) : Nat := ((List.range 64).filter fun i => x.getLsbD i).length
/-- POPC (R190). -/
def popcValue (x : Word) : Word := BitVec.ofNat 64 (ones x)
/-- BREV (R190). -/
def brevValue (x : Word) : Word := x.reverse
/-- BSWAP (R190). -/
def bswapValue (x : Word) : Word := BitVec.ofNat 64 (leNat (leBytes 8 x.toNat).reverse)
/-- BFX (R190). -/
def bfxValue (x y : Word) : Word := extractField x (fieldDesc y).1 (fieldDesc y).2.1 (fieldDesc y).2.2
/-- BFI (R190). -/
def bfiValue (x y old : Word) : Word := insertField old x (fieldDesc y).1 (fieldDesc y).2.1
/-- BFXI (R192). -/
def bfxiValue (x : Word) (i : BitVec 12) : Word :=
  let pos := wfield i 5 0
  extractField x pos (min (wfield i 11 6 + 1) (64 - pos)) false

/-- ADD (R188). -/
def execAdd (d a b : BitVec 5) := binop d a b (· + ·)
/-- SUB (R188). -/
def execSub (d a b : BitVec 5) := binop d a b (· - ·)
/-- AND (R188). -/
def execAnd (d a b : BitVec 5) := binop d a b (· &&& ·)
/-- OR (R188). -/
def execOr (d a b : BitVec 5) := binop d a b (· ||| ·)
/-- XOR (R188). -/
def execXor (d a b : BitVec 5) := binop d a b (· ^^^ ·)
/-- ANDN (R188). -/
def execAndn (d a b : BitVec 5) := binop d a b fun x y => x &&& ~~~y
/-- SLL (R188). -/
def execSll (d a b : BitVec 5) := binop d a b fun x y => x <<< wfield y 5 0
/-- SRL (R188). -/
def execSrl (d a b : BitVec 5) := binop d a b fun x y => x >>> wfield y 5 0
/-- SRA (R188). -/
def execSra (d a b : BitVec 5) := binop d a b fun x y => sraValue x (wfield y 5 0)
/-- ROL (R188). -/
def execRol (d a b : BitVec 5) := binop d a b rolValue
/-- MUL (R189). -/
def execMul (d a b : BitVec 5) := binop d a b (· * ·)
/-- MULH (R189). -/
def execMulh (d a b : BitVec 5) := binop d a b mulhValue
/-- MULHN (R189). -/
def execMulhn (d a b : BitVec 5) := binop d a b mulhnValue
/-- DIV (R189). -/
def execDiv (d a b : BitVec 5) := binop d a b divValue
/-- DIVN (R189). -/
def execDivn (d a b : BitVec 5) := binop d a b divnValue
/-- REM (R189). -/
def execRem (d a b : BitVec 5) := binop d a b remValue
/-- REMN (R189). -/
def execRemn (d a b : BitVec 5) := binop d a b remnValue
/-- MIN (R188). -/
def execMin (d a b : BitVec 5) := binop d a b sminValue
/-- MAX (R188). -/
def execMax (d a b : BitVec 5) := binop d a b smaxValue
/-- MINN (R188). -/
def execMinn (d a b : BitVec 5) := binop d a b uminValue
/-- MAXN (R188). -/
def execMaxn (d a b : BitVec 5) := binop d a b umaxValue
/-- CLZ (R190). -/
def execClz (d a : BitVec 5) := unop d a clzValue
/-- CTZ (R190). -/
def execCtz (d a : BitVec 5) := unop d a ctzValue
/-- POPC (R190). -/
def execPopc (d a : BitVec 5) := unop d a popcValue
/-- BREV (R190). -/
def execBrev (d a : BitVec 5) := unop d a brevValue
/-- BSWAP (R190). -/
def execBswap (d a : BitVec 5) := unop d a bswapValue
/-- SEXT (R190). -/
def execSext (d a b : BitVec 5) := binop d a b fun x y => sextValue x (wfield y 5 0)
/-- BFX (R190). -/
def execBfx (d a b : BitVec 5) := binop d a b bfxValue
/-- BFI (R190). -/
def execBfi (d a b c : BitVec 5) := terop d a b c bfiValue
/-- SEL (R191). -/
def execSel (d a b : BitVec 5) (c : BitVec 3) (s : State) :=
  done (compute d [a, b] fun s => if s.q c then s.rd a else s.rd b) s
/-- ADDSAT (R188). -/
def execAddsat (d a b : BitVec 5) := binop d a b fun x y => clamp64 (x.toInt + y.toInt)
/-- SUBSAT (R188). -/
def execSubsat (d a b : BitVec 5) := binop d a b fun x y => clamp64 (x.toInt - y.toInt)
/-- MADD (R191). -/
def execMadd (d a b c : BitVec 5) := terop d a b c fun x y z => x * y + z
/-- ADDX: the sum with the carry of q[c], and the carry out into q[c] (R191). -/
def execAddx (d a b : BitVec 5) (c : BitVec 3) (s : State) : Host.Outcome State Fault Refusal :=
  done (do
    useRegs [a, b] [d]
    let s ← get
    let t := addxSum (s.rd a) (s.rd b) (s.q c)
    set (s.setQ c (decide (2 ^ 64 ≤ t)))
    finish 4 [a, b] [(d, BitVec.ofNat 64 t)]) s

/-- ADDI (R192). -/
def execAddi (d a : BitVec 5) (i : BitVec 12) := unop d a fun x => x + imm i
/-- ANDI (R192). -/
def execAndi (d a : BitVec 5) (i : BitVec 12) := unop d a fun x => x &&& imm i
/-- ORI (R192). -/
def execOri (d a : BitVec 5) (i : BitVec 12) := unop d a fun x => x ||| imm i
/-- XORI (R192). -/
def execXori (d a : BitVec 5) (i : BitVec 12) := unop d a fun x => x ^^^ imm i
/-- SLLI (R192). -/
def execSlli (d a : BitVec 5) (i : BitVec 6) := unop d a fun x => x <<< i.toNat
/-- SRLI (R192). -/
def execSrli (d a : BitVec 5) (i : BitVec 6) := unop d a fun x => x >>> i.toNat
/-- SRAI (R192). -/
def execSrai (d a : BitVec 5) (i : BitVec 6) := unop d a fun x => sraValue x i.toNat
/-- MINI (R192). -/
def execMini (d a : BitVec 5) (i : BitVec 12) := unop d a fun x => sminValue x (imm i)
/-- MAXI (R192). -/
def execMaxi (d a : BitVec 5) (i : BitVec 12) := unop d a fun x => smaxValue x (imm i)
/-- BFXI (R192). -/
def execBfxi (d a : BitVec 5) (i : BitVec 12) := unop d a fun x => bfxiValue x i
/-- WIMM (R28, R193). -/
def execWimm (d : BitVec 5) (p : BitVec 2) (i : BitVec 16) (s : State) := done (compute d [] fun _ => wimmValue i p) s
/-- WIMMK; its a and b fields name no general register (R28, R193, R456). -/
def execWimmk (d : BitVec 5) (p : BitVec 2) (i : BitVec 16) (s : State) : Host.Outcome State Fault Refusal :=
  done (do
    useRegsAs 0#64 [d] [d]
    let s ← get
    finish 4 [d] [(d, wimmkValue (s.rd d) i p)]) s

end Sys2Proof.Machine
end

