-- ==== Sys2Proof/Machine/Matrix.lean ====
section
/-! DEFINITION. The matrix unit: the MTX instructions at issue (R258 to R264, R268 to R275, R282), and the events of its
queues and of its array (R262, R263, R270 to R274, R279 to R284). -/

namespace Sys2Proof.Machine

/-! Acceptance (R259). -/

/-- A fault of a check at issue with the value TVAL takes. -/
def need (c : Bool) (src cause : Nat) (tv : Word) : Act Unit := require c src cause tv

/-- Whether a format is one of the narrow floating formats of R63. -/
def narrowFmt (c : Nat) : Bool := c == 8 || c == 9 || c == 12 || c == 13
/-- Whether a format is one of the six binary floating formats. -/
def floatFmt (c : Nat) : Bool := (ffmtOf c).isSome
/-- The accepted pairs of MMA (R267). -/
def mmaPair (a b : Nat) : Bool :=
  (a == 11 && b == 11) || (a == 10 && b == 10) || (narrowFmt a && (narrowFmt b || b == 0 || b == 14)) ||
  ((sxbOf a).isSome && (sxbOf b).isSome)
/-- The accepted pairs of MMAS (R267). -/
def mmasPair (a b : Nat) : Bool := narrowFmt a && narrowFmt b
/-- The accepted pairs of MSPX (R267). -/
def mspxPair (a b : Nat) : Bool := (narrowFmt a || a == 10) && (narrowFmt b || b == 10)

/-- Rows-valid of a descriptor: 0 means 32 (R268). -/
def rowsValid (x : Word) : Nat := let r := wfield x 56 52; if r = 0 then 32 else r
/-- K of a K field (R37). -/
def kOf (c : Nat) : Nat := 32 * 2 ^ c
/-- Bytes of a local address space: own local memory or the cluster's (R149). -/
def spaceSize (am : Nat) : Nat := if am = 2 then 0x800000 else 0x40000

/-- Size of a B image of K rows (R265). -/
def imageSize (fmt k : Nat) (sparse : Bool) : Nat :=
  let w := fmtWidth fmt
  if sparse then 2 * w * k + 4 * k
  else if (sxbOf fmt).isSome then 4 * w * k + k
  else if floatFmt fmt then 4 * w * k
  else 4 * w * k + 128

/-- The byte offsets of an existing element in its mode: the first, and the one after the last. -/
def Tensor.elemSpan (t : Tensor) (i j : Nat) : Nat × Nat := (t.elemBit i j / 8, (t.elemBit i j + t.w + 7) / 8)

/-- The existing elements of a window. -/
def Tensor.windowElems (t : Tensor) (row0 col0 nr nc : Nat) : List (Nat × Nat) :=
  (List.range nr).flatMap fun i => ((List.range nc).filter fun j => t.has (row0 + i) (col0 + j)).map fun j => (row0 + i, col0 + j)

/-- The byte ranges of the elements that a command touches in a local space, for the limit of step 5 (R259, R269, R273). -/
def localSpan (t : Tensor) (es : List (Nat × Nat)) : List (Nat × Nat) :=
  es.map fun e => t.elemSpan e.1 e.2
/-- The byte ranges of those elements' scales and block exponents (R72, R259). -/
def scaleSpan (t : Tensor) (es : List (Nat × Nat)) : List (Nat × Nat) :=
  match t.skind with
  | 0 => []
  | 3 => es.map fun e => (t.scaleAddr e.1 e.2, t.scaleAddr e.1 e.2 + 1)
  | _ => es.map fun e => (t.scaleAddr e.1 e.2, t.scaleAddr e.1 e.2 + 4)

/-- Step 6 for .c spans: every byte in another core passes that core's register; a byte past the end of the space is in no core
(R154, R259). -/
def checkSpans (am : Nat) (spans : List (Nat × Nat)) (k : AccessKind) (tv : Word) : Act Unit := do
  let s ← get
  if am == 2 && spans.any fun p => (List.range (p.2 - p.1)).any fun i =>
      decide (p.1 + i < 0x800000) && !s.lmPermits s.issuer (clusterPa (coreOf s.cur) (p.1 + i)) k
  then violation 1 10 tv

/-- Steps 3 to 7 of R259 for a command of the issuing thread: the tensor entries it captures. tv is the value TVAL
takes. -/
def matrixChecks (i : Instr) (ga gb tv : Word) : Act (List (BitVec 512)) := do
  match i with
  | .mma x m _ _ _ | .mmas x m _ _ _ =>
    let sparse := match i with
      | .mmas .. => true
      | _ => false
    let ea ← resolve 3 (wfield ga 11 0) tv
    let eb ← resolve 3 (wfield gb 19 8) tv
    let a := Tensor.ofEntry ea
    let b := Tensor.ofEntry eb
    need (if sparse then mmasPair a.format b.format else mmaPair a.format b.format) 3 21 tv
    let k := kOf (wfield ga 58 57)
    let sxbA := (sxbOf a.format).isSome
    let sxbB := (sxbOf b.format).isSome
    need (wfield ga 58 57 != 3 && wfield ga 63 59 == 0 && wfield gb 63 40 == 0) 3 5 tv
    need (!(a.format == 11) || x.getLsbD 0 == false) 3 5 tv
    need (if sxbA then a.skind == 3 && !a.kcol && wfield ga 51 32 % 32 == 0 else a.skind == 0) 3 5 tv
    need (if sxbB then b.skind == 3 && b.kcol else if floatFmt b.format then b.skind == 0 else b.skind == 0 || b.skind == 2) 3 5 tv
    let es := a.windowElems (wfield ga 31 12) (wfield ga 51 32) (rowsValid ga) k
    let spans := localSpan a es
    need (spans.all fun p => decide (p.2 ≤ spaceSize m.toNat)) 3 5 tv
    need (decide (2048 * wfield gb 7 0 + imageSize b.format k sparse ≤ 0x80000)) 3 5 tv
    checkSpans m.toNat (spans ++ scaleSpan a es) .load tv
    return [ea, eb]
  | .mspx _ m _ _ _ =>
    let ea ← resolve 3 (wfield ga 11 0) tv
    let eb ← resolve 3 (wfield gb 19 8) tv
    let a := Tensor.ofEntry ea
    let b := Tensor.ofEntry eb
    need (mspxPair a.format b.format) 3 21 tv
    need (a.skind == 0 && b.skind == 0 && wfield ga 51 36 == 0 && wfield ga 63 57 == 0 && wfield gb 63 20 == 0) 3 5 tv
    let off := wfield ga 35 12
    need (decide (off + 16 * rowsValid ga ≤ spaceSize m.toNat)) 3 5 tv
    checkSpans m.toNat [(off, off + 16 * rowsValid ga)] .load tv
    return [ea, eb]
  | .mldacc x m _ _ _ | .mstacc x m _ _ _ =>
    let store := match i with
      | .mstacc .. => true
      | _ => false
    let e ← resolve 3 (wfield ga 11 0) tv
    let t := Tensor.ofEntry e
    need (floatFmt t.format && t.skind == 0) 3 21 tv
    need (wfield ga 63 57 == 0 && wfield gb 63 1 == 0 && !(gb.getLsbD 0 && x.getLsbD 0)) 3 5 tv
    let es := t.windowElems (wfield ga 31 12) (wfield ga 51 32) (rowsValid ga) 32
    let spans := localSpan t es
    need (m.toNat == 0 || spans.all fun p => decide (p.2 ≤ spaceSize m.toNat)) 3 5 tv
    checkSpans m.toNat spans (if store then .store else .load) tv
    if store && t.wprot then violation 3 16 tv
    if store && !t.has (wfield ga 31 12) (wfield ga 51 32) then violation 3 17 tv
    return [e]
  | .mwbld m _ _ _ =>
    let e ← resolve 3 (wfield ga 19 8) tv
    let t := Tensor.ofEntry e
    let sp := ga.getLsbD 40
    let sxb := (sxbOf t.format).isSome
    let coded := t.format == 0 || t.format == 14
    need (floatFmt t.format || coded || sxb) 3 21 tv
    let k := kOf (wfield gb 21 20)
    need (wfield ga 63 41 == 0 && wfield gb 63 22 == 0 && wfield gb 21 20 != 3 && (!sp || narrowFmt t.format)) 3 5 tv
    need (if sxb then t.skind == 3 && t.kcol && wfield gb 19 0 % 32 == 0 else t.skind == 0 || (coded && t.skind == 2)) 3 5 tv
    need (decide (2048 * wfield ga 7 0 + imageSize t.format k sp ≤ 0x80000)) 3 5 tv
    let es := t.windowElems (wfield gb 19 0) (wfield ga 39 20) k 32
    let spans := localSpan t es
    need (m.toNat == 0 || spans.all fun p => decide (p.2 ≤ spaceSize m.toNat)) 3 5 tv
    let cs := if t.skind = 2 then ((List.range 32).filter fun j => decide (wfield ga 39 20 + j < t.cols)).map fun j => (0, wfield ga 39 20 + j) else es
    checkSpans m.toNat (spans ++ scaleSpan t cs) .load tv
    return [e]
  | _ => return []

/-- Accepts a command into the matrix queue, waiting for room; PEND rises (R259 step 8, R260). -/
def acceptMatrix (i : Instr) (srcs : List (BitVec 5)) (ga gb : Word) (es : List (BitVec 512)) : Act Unit := do
  waitUntil .memoryReply fun s => decide (s.myCore.mq.length < 16)
  let s ← get
  let (n, s) := s.freshen
  set (s.modCore fun c => { c with mq := c.mq ++ [s.command i n ga gb es] })
  modTh fun t => t.pendUp 3#2
  finish 4 srcs []

/-- A queued MTX instruction: escalation, the held fault, the checks, and acceptance (R259, R261). -/
def matrixIssue (i : Instr) (srcs : List (BitVec 5)) (ga gb : State → Word) : Act Unit := do
  useRegs srcs []
  escalate
  deliverHeld 3#2
  let s ← get
  let x := ga s
  let y := gb s
  let es ← matrixChecks i x y x
  acceptMatrix i srcs x y es

/-- MMA (R259, R269). -/
def execMma (x : BitVec 3) (m : BitVec 2) (a b : BitVec 5) (p : BitVec 3) (s : State) : Host.Outcome State Fault Refusal :=
  done (matrixIssue (.mma x m a b p) [a, b] (·.rd a) (·.rd b)) s
/-- MMAS (R259, R269). -/
def execMmas (x : BitVec 3) (m : BitVec 2) (a b : BitVec 5) (p : BitVec 3) (s : State) : Host.Outcome State Fault Refusal :=
  done (matrixIssue (.mmas x m a b p) [a, b] (·.rd a) (·.rd b)) s
/-- MSPX (R259, R271). -/
def execMspx (x : BitVec 3) (m : BitVec 2) (a b : BitVec 5) (p : BitVec 3) (s : State) : Host.Outcome State Fault Refusal :=
  done (matrixIssue (.mspx x m a b p) [a, b] (·.rd a) (·.rd b)) s
/-- MZERO (R259, R272). -/
def execMzero (x p : BitVec 3) (s : State) : Host.Outcome State Fault Refusal :=
  done (matrixIssue (.mzero x p) [] (fun _ => 0) (fun _ => 0)) s
/-- MLDACC (R259, R273). -/
def execMldacc (x : BitVec 3) (m : BitVec 2) (a b : BitVec 5) (p : BitVec 3) (s : State) : Host.Outcome State Fault Refusal :=
  done (matrixIssue (.mldacc x m a b p) [a, b] (·.rd a) (·.rd b)) s
/-- MSTACC (R259, R273). -/
def execMstacc (x : BitVec 3) (m : BitVec 2) (a b : BitVec 5) (p : BitVec 3) (s : State) : Host.Outcome State Fault Refusal :=
  done (matrixIssue (.mstacc x m a b p) [a, b] (·.rd a) (·.rd b)) s
/-- MWBLD (R259, R274). -/
def execMwbld (m : BitVec 2) (a b : BitVec 5) (p : BitVec 3) (s : State) : Host.Outcome State Fault Refusal :=
  done (matrixIssue (.mwbld m a b p) [a, b] (·.rd a) (·.rd b)) s
/-- TZSET: steps 1, 2 and 8 of R259 (R264). -/
def execTzset (x : BitVec 3) (a b : BitVec 5) (c : BitVec 3) (s : State) : Host.Outcome State Fault Refusal :=
  done (do
    useRegs [a, b] []
    escalate
    deliverHeld 3#2
    let s ← get
    acceptMatrix (.tzset x a b c) [a, b] (s.rd a) (s.rd b) []) s

/-! The array's power states (R281, R282). -/

/-- An array command with a true predicate at a queue head, or MBURST with n of at least 1: OFF ramps up, and a ramp down
after j clk turns into a ramp up of j clk (R281). -/
def Tile.rampEvent (t : Tile) (now : Nat) : Tile :=
  match t.array with
  | .off => { t with array := .rampUp, ramp := (now, 32) }
  | .rampDown => { t with array := .rampUp, ramp := (now, min (now - t.ramp.1) t.ramp.2) }
  | _ => t

/-- MBURST: HOLD := n; executed by the core at issue (R282). -/
def execMburst (a : BitVec 5) (s : State) : Host.Outcome State Fault Refusal :=
  done (do
    useRegs [a] []
    escalate
    let s ← get
    let x := s.rd a
    require (decide (x.toNat ≤ 4096)) 3 5 x
    modify fun s => s.modTile fun t =>
      let t := { t with hold := x.toNat }
      if x = 0#64 then t else t.rampEvent s.time
    finish 4 [a] []) s

/-- MFENCE: waits until PEND is 0, then delivers a held fault (R277). -/
def execMfence (s : State) : Host.Outcome State Fault Refusal :=
  done (do
    escalate
    waitUntil .mfence fun s => s.th.pend 3#2 == 0
    deliverHeld 3#2
    finish 4 [] []) s

/-- ARRAY_RAMPUP_DONE (R281). -/
def execArrayRampupDone (tile : Nat) (s : State) : Host.Outcome State Fault Refusal :=
  let t := s.tile tile
  .next (if t.array = .rampUp ∧ t.ramp.1 + t.ramp.2 ≤ s.time then s.setTile tile { t with array := .on, arrayLast := s.time, arrayStart := s.time } else s)
/-- Whether a command is an array command (R281). -/
def Command.isArray (c : Command) : Bool :=
  match c.instr with
  | .mma .. | .mmas .. | .mspx .. => true
  | _ => false

/-- Whether an array command of a tile executes: it has started and not completed (R281). -/
def State.arrayBusy (s : State) (tile : Nat) : Bool :=
  (List.range 8).any fun i => (s.core (8 * tile + i)).mq.head?.any fun c => c.isArray && c.started
/-- ARRAY_IDLE_TIMEOUT: 64 clk in which no array command executes, and HOLD = 0 (R281). -/
def execArrayIdleTimeout (tile : Nat) (s : State) : Host.Outcome State Fault Refusal :=
  let t := s.tile tile
  .next (if t.array = .on ∧ t.hold = 0 ∧ !s.arrayBusy tile ∧ t.arrayLast + 64 ≤ s.time then s.setTile tile { t with array := .rampDown, ramp := (s.time, 32) } else s)
/-- ARRAY_HOLD_TIMEOUT: 4,096 clk without a start and HOLD > 0 (R281). -/
def execArrayHoldTimeout (tile : Nat) (s : State) : Host.Outcome State Fault Refusal :=
  let t := s.tile tile
  .next (if t.array = .on ∧ 0 < t.hold ∧ t.arrayStart + 4096 ≤ s.time then
      s.setTile tile { t with hold := 0, array := .rampDown, ramp := (s.time, 32) }
    else s)
/-- ARRAY_RAMPDOWN_DONE (R281). -/
def execArrayRampdownDone (tile : Nat) (s : State) : Host.Outcome State Fault Refusal :=
  let t := s.tile tile
  .next (if t.array = .rampDown ∧ t.ramp.1 + t.ramp.2 ≤ s.time then s.setTile tile { t with array := .off } else s)

/-! Accumulators, predicates and the weight buffer (R256, R257, R265). -/

/-- An F32 element of an accumulator file. -/
def accGet (acc : Vector (BitVec 32768) 8) (x : BitVec 3) (i j : Nat) : Nat := field (get8 acc x).toNat (32 * (32 * i + j) + 31) (32 * (32 * i + j))
/-- Replaces an element of an accumulator. -/
def accSet (acc : Vector (BitVec 32768) 8) (x : BitVec 3) (i j v : Nat) : Vector (BitVec 32768) 8 :=
  let p := 32 * (32 * i + j)
  let m : BitVec 32768 := 0xFFFFFFFF#32768 <<< p
  set8 acc x ((get8 acc x &&& ~~~m) ||| ((BitVec.ofNat 32768 v <<< p) &&& m))
/-- An element of an F64 pair: its low half lies in the even register (R257). -/
def accGetPair (acc : Vector (BitVec 32768) 8) (x : BitVec 3) (i j : Nat) : Nat := accGet acc x i j + 2 ^ 32 * accGet acc (x ||| 1#3) i j
/-- Replaces an element of an F64 pair. -/
def accSetPair (acc : Vector (BitVec 32768) 8) (x : BitVec 3) (i j v : Nat) : Vector (BitVec 32768) 8 :=
  accSet (accSet acc x i j (v % 2 ^ 32)) (x ||| 1#3) i j (v / 2 ^ 32)

/-- A tile predicate; tz0 reads true (R34, R263). -/
def Core.pred (c : Core) (p : BitVec 3) : Bool := p == 0#3 || c.tz.getLsbD p.toNat

/-- Whether a byte range of a tile's weight buffer lies at or above the watermark of a space-4 transfer that is not of the
accessor's own channel, whose transfers' numbers are given (R159, R266). -/
def Tile.weightsUnlanded (t : Tile) (off n : Nat) (mine : List Nat) : Bool :=
  t.chans.toList.any fun c => c.transfers.any fun x =>
    x.dsp == 4 && !x.over && !mine.contains x.seq && decide (x.dst + x.written < off + n) && decide (off < x.dst + x.len) && decide (x.dst < off + n)

/-- Reads bytes of a tile's weight buffer (R265, R266). -/
def eWeights (tile off n : Nat) : EAct (List Byte) := do
  let s ← get
  let t := s.tile tile
  if t.weightsUnlanded off n [] then eBlocked
  else if t.weightPoison.any fun k => decide (2048 * k < off + n) && decide (off < 2048 * k + 2048) then eFault 1 13 off
  else return (List.range n).map fun i => cellGet (off + i) t.weights

/-- Writes bytes of a tile's weight buffer; a slot wholly written loses its poison. -/
def State.setWeights (s : State) (tile off : Nat) (bs : List Byte) : State :=
  let t := s.tile tile
  s.setTile tile { t with
    weights := (bs.zipIdx off).foldl (fun w b => cellSet b.2 b.1 w) t.weights
    weightPoison := t.weightPoison.filter fun k => !(decide (off ≤ 2048 * k) && decide (2048 * k + 2048 ≤ off + bs.length)) }

/-- Writes bytes of one aligned word of the weight buffer, all of them or none, as part of a write of n bytes from lo on (R266, R293).
A slot that an error has poisoned is clean again once the whole write has covered it, and a narrower write into it faults (R147). -/
def eWeightWrite (tile : Nat) (mine : List Nat) (lo n a : Nat) (bs : List Byte) : EAct Unit := do
  let s ← get
  let slot := a / 2048
  let bad := (s.tile tile).weightPoison.contains slot
  if (s.tile tile).weightsUnlanded a bs.length mine then eBlocked
  else if bad && !(decide (lo ≤ 2048 * slot) && decide (2048 * slot + 2048 ≤ lo + n)) then eFault 1 13 a
  else
    let s := s.setWeights tile a bs
    set (if (a + bs.length) % 2048 = 0 then s.modTileAt tile fun x => { x with weightPoison := x.weightPoison.filter (· != slot) } else s)

/-- The bits [p, p + n) of an image. -/
def imageBits (img p n : Nat) : Nat := img / 2 ^ p % 2 ^ n

/-- The stored bits of dense image element (k, j) under a form that is not block form; none where a 2:4 group does not
place it (R265). -/
def imageElem (fmt kk : Nat) (sparse : Bool) (img k j : Nat) : Option Nat :=
  let w := fmtWidth fmt
  if sparse then
    let nib := imageBits img (8 * (2 * w * kk) + 4 * (32 * (k / 4) + j)) 4
    let p0 := nib % 4
    let p1 := nib / 4
    if k % 4 = p0 then some (imageBits img (8 * (4 * w * (k / 4 * 2)) + j * w) w)
    else if k % 4 = p1 then some (imageBits img (8 * (4 * w * (k / 4 * 2 + 1)) + j * w) w)
    else none
  else some (imageBits img (8 * (4 * w * k) + j * w) w)

/-- The value of image element (k, j) outside block form (R265). -/
def imageValue (fmt kk : Nat) (sparse : Bool) (table : BitVec 128) (img k j : Nat) : Num :=
  match imageElem fmt kk sparse img k j with
  | none => .fin false 0 1
  | some bits =>
    if floatFmt fmt then elemValue fmt bits
    else
      let v := if fmt = 14 then k4Value table bits else elemValue fmt bits
      product v (f32.read (imageBits img (8 * (4 * fmtWidth fmt * kk + 4 * j)) 32))

/-! Execution of the commands (R270 to R274). -/

/-- OR of a list of flag words. -/
def orFlags (l : List Word) : Word := l.foldl (· ||| ·) 0

/-- Adds flags to a thread's MSTAT (R278). -/
def State.mflags (s : State) (slot : Nat) (fl : Word) : State := s.modThread slot fun t => { t with mstat := t.mstat ||| (fl &&& 0x17#64) }

/-- MMA and MMAS (R270). -/
def runMma (core : Nat) (c : Command) (x : BitVec 3) (am : Nat) (sparse : Bool) : EAct Unit := do
  let a := Tensor.ofEntry (c.tensors.getD 0 0)
  let b := Tensor.ofEntry (c.tensors.getD 1 0)
  let rv := rowsValid c.ga
  let k := kOf (wfield c.ga 58 57)
  let row0 := wfield c.ga 31 12
  let k0 := wfield c.ga 51 32
  let col0 := wfield c.gb 39 20
  let w := c.issuer core
  let img ← eWeights (core / 8) (2048 * wfield c.gb 7 0) (imageSize b.format k sparse)
  let img := leNat img
  let ovs := c.frm.getLsbD 3
  let s ← get
  let acc := (s.core core).acc
  match sxbOf a.format, sxbOf b.format with
  | some ma, some mb =>
    let nb := k / 32
    let rows ← mapE (fun i => mapE (fun q => do
      if a.has (row0 + i) (k0 + 32 * q) then
        let e ← eScale w am a (row0 + i) (k0 + 32 * q) c.seq
        let ms ← mapE (fun j => do
          let x ← eElement w am a (row0 + i) (k0 + 32 * q + j) c.seq
          return toSigned ma x) (List.range 32)
        return (e, ms)
      else return (0, List.replicate 32 0)) (List.range nb)) (List.range rv)
    let cols := (List.range 32).map fun j => (List.range nb).map fun q =>
      if b.rows ≤ k0 + 32 * q ∨ b.cols ≤ col0 + j then (0, List.replicate 32 (0 : Int))
      else (imageBits img (8 * (4 * mb * k + j * nb + q)) 8,
            (List.range 32).map fun e => toSigned mb (imageBits img (8 * (4 * mb * (j * nb + q)) + mb * e) mb))
    let r := rows.zipIdx.foldl (fun r row => cols.zipIdx.foldl (fun (r : Vector (BitVec 32768) 8 × Word) col =>
      let v := (List.zip row.1 col.1).foldl (fun (u : Nat × Word) p =>
        let y := blockPair ma mb p.1.1 p.2.1 p.1.2 p.2.2 ovs
        let z := accAdd f32 ovs (f32.read u.1) (f32.read y.1)
        (z.1, u.2 ||| y.2 ||| z.2)) (accGet r.1 x row.2 col.2, 0)
      (accSet r.1 x row.2 col.2 v.1, r.2 ||| v.2)) r) (acc, (0 : Word))
    modify fun s => (s.setCore core { s.core core with acc := r.1 }).mflags c.slot r.2
  | _, _ =>
    let rows ← mapE (fun i => mapE (fun q => do
      if a.has (row0 + i) (k0 + q) then eValue w am a c.codes (row0 + i) (k0 + q) c.seq
      else return .fin false 0 1) (List.range k)) (List.range rv)
    let cols := (List.range 32).map fun j => (List.range k).map fun q =>
      if b.rows ≤ k0 + q ∨ b.cols ≤ col0 + j then Num.fin false 0 1 else imageValue b.format k sparse c.codes img q j
    let r := rows.zipIdx.foldl (fun r row => cols.zipIdx.foldl (fun (r : Vector (BitVec 32768) 8 × Word) col =>
      let ps := List.zip row.1 col.1
      if a.format = 11 then
        let v := fusedChain f64 (accGetPair r.1 x row.2 col.2) ps ovs
        (accSetPair r.1 x row.2 col.2 v.1, r.2 ||| v.2)
      else
        let v := if a.format = 10 then fusedChain f32 (accGet r.1 x row.2 col.2) ps ovs
          else narrowAccumulate (accGet r.1 x row.2 col.2) ps ovs
        (accSet r.1 x row.2 col.2 v.1, r.2 ||| v.2)) r) (acc, (0 : Word))
    modify fun s => (s.setCore core { s.core core with acc := r.1 }).mflags c.slot r.2

/-- A fibre: its coordinates with the offsets of their values (R271). -/
structure Fibre where
  coords : List Nat
  values : List Num

/-- A fibre descriptor's fields (R271). -/
def fibreOk (d size wbytes : Nat) : Bool :=
  let coff := field d 31 0
  let voff := field d 63 32
  let cnt := field d 76 64
  field d 127 77 == 0 && decide (cnt ≤ 4096) && coff % 2 == 0 && voff % wbytes == 0 &&
  decide (coff + 2 * cnt ≤ size) && decide (voff + wbytes * cnt ≤ size)

/-- Whether a list rises strictly. -/
def rising : List Nat → Bool
  | a :: b :: l => decide (a < b) && rising (b :: l)
  | _ => true

/-- Reads a fibre's descriptor and coordinate list through a reader of bytes: the descriptor and the coordinates, or FIBRE at the
descriptor's address (R271). -/
def readFibre (read : Nat → Nat → EAct (List Byte)) (size fmt off : Nat) : EAct (Nat × List Nat) := do
  let d ← read off 16
  let d := leNat d
  if !fibreOk d size (fmtWidth fmt / 8) then eFault 3 22 off
  else
    let cs ← read (field d 31 0) (2 * field d 76 64)
    let coords := (chunks 2 cs.length cs).map leNat
    if !rising coords then eFault 3 22 off else return (d, coords)
/-- Reads a fibre's values at the coordinates that a test accepts; the others take no part (R271). -/
def readValues (read : Nat → Nat → EAct (List Byte)) (fmt : Nat) (meets : Nat → Bool) (f : Nat × List Nat) : EAct Fibre := do
  let wb := fmtWidth fmt / 8
  let vs ← mapE (fun (u : Nat × Nat) => if meets u.1 then do
      let b ← read (field f.1 63 32 + wb * u.2) wb
      return elemValue fmt (leNat b)
    else pure (.fin false 0 1)) f.2.zipIdx
  return { coords := f.2, values := vs }

/-- Reads bytes of a local space one by one. -/
def eLocalBytes (w : Issuer) (am self off n : Nat) : EAct (List Byte) :=
  mapE (fun i => do
    let b ← eRead w am (off + i) 1 self
    return b.headD 0#8) (List.range n)

/-- MSPX: every descriptor and coordinate list is checked first; then the values of the coordinates that meet are read (R271). -/
def runMspx (core : Nat) (c : Command) (x : BitVec 3) (am : Nat) : EAct Unit := do
  let a := Tensor.ofEntry (c.tensors.getD 0 0)
  let b := Tensor.ofEntry (c.tensors.getD 1 0)
  let ovs := c.frm.getLsbD 3
  let readA := eLocalBytes (c.issuer core) am c.seq
  let readB := eWeights (core / 8)
  let as ← mapE (fun i => readFibre readA (spaceSize am) a.format (wfield c.ga 35 12 + 16 * i)) (List.range (rowsValid c.ga))
  let bs ← mapE (fun j => readFibre readB 0x80000 b.format (2048 * wfield c.gb 7 0 + 16 * j)) (List.range 32)
  let rows ← mapE (readValues readA a.format fun u => bs.any fun f => f.2.contains u) as
  let cols ← mapE (readValues readB b.format fun u => as.any fun f => f.2.contains u) bs
  let s ← get
  let r := rows.zipIdx.foldl (fun r row => cols.zipIdx.foldl (fun (r : Vector (BitVec 32768) 8 × Word) col =>
    let v := (List.zip row.1.coords row.1.values).foldl (fun (u : Nat × Word) e =>
      match (List.zip col.1.coords col.1.values).find? fun f => f.1 == e.1 with
      | some f => let t := fusedStep f32 ovs u.1 e.2 f.2; (t.1, u.2 ||| t.2)
      | none => u) (accGet r.1 x row.2 col.2, 0)
    (accSet r.1 x row.2 col.2 v.1, r.2 ||| v.2)) r) ((s.core core).acc, (0 : Word))
  set ((s.setCore core { s.core core with acc := r.1 }).mflags c.slot r.2)

/-- Records how far a command of a matrix queue has come. -/
def noteDone (core seq n : Nat) : EAct Unit :=
  modify fun s => s.setCore core { s.core core with mq := (s.core core).mq.map fun c => if c.seq = seq then { c with done := n } else c }

/-- MLDACC and MSTACC, from element done on, one element at a time (R273). -/
def runWindow (core : Nat) (c : Command) (x : BitVec 3) (am : Nat) (store : Bool) : EAct Unit := do
  let t := Tensor.ofEntry (c.tensors.getD 0 0)
  let pair := c.gb.getLsbD 0
  let rm := wfield c.frm 2 0
  let ovs := c.frm.getLsbD 3
  let f := (ffmtOf t.format).getD f32
  let af := if pair then f64 else f32
  seqE (((List.range (32 * rowsValid c.ga)).drop c.done).map fun n => do
    let i := n / 32
    let j := n % 32
    let row := wfield c.ga 31 12 + i
    let col := wfield c.ga 51 32 + j
    let s ← get
    let acc := (s.core core).acc
    if store then
      if t.has row col then
        let r := roundF f rm ovs (af.read (if pair then accGetPair acc x i j else accGet acc x i j))
        eWrite (c.issuer core) am (t.elemBit row col / 8) (leBytes (t.w / 8) r.1) c.seq
        modify fun s => s.mflags c.slot r.2
    else
      let bits ← (if t.has row col then eElement (c.issuer core) am t row col c.seq else pure 0)
      let r := roundF af rm ovs (f.read bits)
      modify fun s => (s.setCore core { s.core core with
        acc := if pair then accSetPair (s.core core).acc x i j r.1 else accSet (s.core core).acc x i j r.1 }).mflags c.slot r.2
    noteDone core c.seq (n + 1))

/-- The bits of a 2:4 group's elements: the two chosen places, ascending, with their stored bits; none if more than two
are not zero (R274). -/
def chooseTwo (fmt : Nat) (bits : List Nat) : Option ((Nat × Nat) × (Nat × Nat)) :=
  let nz := (List.range 4).filter fun p => !(elemValue fmt (bits.getD p 0)).isZero
  if 2 < nz.length then none
  else
    let added := ((List.range 4).filter fun p => !nz.contains p).take (2 - nz.length)
    match (nz ++ added).mergeSort (fun a b => decide (a ≤ b)) with
    | [p, q] => some ((p, if nz.contains p then bits.getD p 0 else 0), (q, if nz.contains q then bits.getD q 0 else 0))
    | _ => none

/-- Packs fields of w bits into bytes, the first at bit 0. -/
def packBits (w : Nat) (l : List Nat) : List Byte :=
  leBytes ((w * l.length + 7) / 8) ((l.zipIdx.map fun p => p.1 % 2 ^ w * 2 ^ (w * p.2)).foldl (· + ·) 0)

/-- What MWBLD builds: the tensor, its first row and column, the K rows and whether the form is sparse 2:4 (R274). -/
structure Panel where
  t : Tensor
  k0 : Nat
  col0 : Nat
  k : Nat
  sparse : Bool
/-- The panel of a command. -/
def Command.panel (c : Command) : Panel :=
  { t := Tensor.ofEntry (c.tensors.getD 0 0), k0 := wfield c.gb 19 0, col0 := wfield c.ga 39 20, k := kOf (wfield c.gb 21 20)
    sparse := c.ga.getLsbD 40 }
/-- The stored bits of a panel's element; zero bits where it does not exist, which is not read (R71, R274). -/
def panelBits (core : Nat) (c : Command) (am r j : Nat) : EAct Nat :=
  let p := c.panel
  if p.t.has (p.k0 + r) (p.col0 + j) then eElement (c.issuer core) am p.t (p.k0 + r) (p.col0 + j) c.seq else pure 0

/-- The 2:4 choice of group g of column j: the nibble, and from bits 8 and 24 on the bits of its two places. The group is judged once,
when its first value is written, and the choice is kept with the command (R274). -/
def chosenGroup (core : Nat) (c : Command) (am g j : Nat) : EAct Nat := do
  let s ← get
  let now := ((s.core core).mq.find? fun y => y.seq == c.seq).getD c
  match assocFind (32 * g + j) (now.snap.getD []) with
  | some v => return v.toNat
  | none =>
    let bits ← mapE (fun p => panelBits core c am (4 * g + p) j) (List.range 4)
    match chooseTwo c.panel.t.format bits with
    | none => eFault 3 23 (c.panel.t.elemBit (c.panel.k0 + 4 * g) (c.panel.col0 + j) / 8)
    | some (p, q) =>
      let v := p.1 + 4 * q.1 + 2 ^ 8 * p.2 + 2 ^ 24 * q.2
      modify fun s => s.modCoreAt core fun x => { x with mq := x.mq.map fun y =>
        if y.seq = c.seq then { y with snap := some ((32 * g + j, BitVec.ofNat 64 v) :: y.snap.getD []) } else y }
      return v

/-- A field of an image: its first bit, its width, and the action that gives its bits. -/
structure ImageField where
  start : Nat
  width : Nat
  value : EAct Nat
/-- The field of a command's image that holds bit p (R265, R274). -/
def imageField (core : Nat) (c : Command) (am p : Nat) : ImageField :=
  let x := c.panel
  let w := x.t.w
  let values := 32 * w * x.k
  if x.sparse then
    if p < values / 2 then
      { start := p / w * w, width := w, value := do
          let v ← chosenGroup core c am (p / (64 * w)) (p % (32 * w) / w)
          return if p / (32 * w) % 2 = 0 then v / 2 ^ 8 % 2 ^ 16 else v / 2 ^ 24 }
    else
      let n := (p - values / 2) / 4
      { start := values / 2 + 4 * n, width := 4, value := do
          let v ← chosenGroup core c am (n / 32) (n % 32)
          return v % 16 }
  else match sxbOf x.t.format with
    | some _ =>
      let nb := x.k / 32
      if p < values then
        { start := p / w * w, width := w, value := panelBits core c am (32 * (p / (32 * w) % nb) + p % (32 * w) / w) (p / (32 * w) / nb) }
      else
        let n := (p - values) / 8
        let i := x.k0 + 32 * (n % nb)
        let j := x.col0 + n / nb
        { start := values + 8 * n, width := 8, value := if x.t.has i j then eScale (c.issuer core) am x.t i j c.seq else pure 0 }
    | none =>
      if p < values then { start := p / w * w, width := w, value := panelBits core c am (p / (32 * w)) (p % (32 * w) / w) }
      else
        let n := (p - values) / 32
        { start := values + 32 * n, width := 32
          value := if x.t.skind = 2 ∧ x.col0 + n < x.t.cols then eScale (c.issuer core) am x.t 0 (x.col0 + n) c.seq else pure 0x3F800000 }

/-- The bits of an image from bit p to bit e, as far as they can be formed: their value, their number, and what stopped them. -/
def imageRun (f : Nat → ImageField) (e : Nat) : (fuel p : Nat) → State → State × Nat × Nat × Option EStop
  | 0, _, s => (s, 0, 0, none)
  | fuel + 1, p, s =>
    if e ≤ p then (s, 0, 0, none)
    else
      let x := f p
      match x.value.run' s with
      | (s, .error stop) => (s, 0, 0, some stop)
      | (s, .ok v) =>
        let q := min e (x.start + x.width)
        let r := imageRun f e fuel q s
        (r.1, v / 2 ^ (p - x.start) % 2 ^ (q - p) + 2 ^ (q - p) * r.2.1, q - p + r.2.2.1, r.2.2.2)

/-- Writes the image from byte n on, in ascending order and aligned word by aligned word; at a fault or a breach the bytes below it are
written (R266, R274, R279, R280). -/
def buildImage (core : Nat) (c : Command) (am size : Nat) : (fuel n : Nat) → EAct Unit
  | 0, _ => pure ()
  | fuel + 1, n =>
    if size ≤ n then pure ()
    else do
      let base := 2048 * wfield c.ga 7 0
      let e := min size (n / 8 * 8 + 8)
      let s ← get
      let r := imageRun (imageField core c am) (8 * e) 64 (8 * n) s
      set r.1
      let put (m : Nat) : EAct Unit := do
        eWeightWrite (core / 8) [] base size (base + n) (leBytes m r.2.1)
        noteDone core c.seq (n + m)
      match r.2.2.2 with
      | none =>
        put (e - n)
        buildImage core c am size fuel e
      | some .blocked => eBlocked
      | some stop =>
        if 8 ≤ r.2.2.1 then put (r.2.2.1 / 8)
        eStop stop

/-- MWBLD: the image is written from the first byte that has not been (R274, R280). -/
def runMwbld (core : Nat) (c : Command) (am : Nat) : EAct Unit :=
  let size := imageSize c.panel.t.format c.panel.k c.panel.sparse
  buildImage core c am size size c.done

/-- TZSET's comparison (R264). -/
def tzTest (c : BitVec 3) (x y : Word) : Bool :=
  match c.toNat with
  | 0 => x == y
  | 1 => x != y
  | 2 => decide (x.toNat < y.toNat)
  | 3 => decide (y.toNat ≤ x.toNat)
  | 4 => x &&& y != 0#64
  | 5 => x &&& y == 0#64
  | 6 => decide (x.toInt < y.toInt)
  | _ => decide (y.toInt ≤ x.toInt)

/-- The predicate that a command reads at the head of its queue (R263). -/
def Command.predicate (c : Command) : BitVec 3 :=
  match c.instr with
  | .mma _ _ _ _ p | .mmas _ _ _ _ p | .mspx _ _ _ _ p | .mldacc _ _ _ _ p | .mstacc _ _ _ _ p => p
  | .mzero _ p => p
  | .mwbld _ _ _ p => p
  | _ => 0#3

/-- The effect of a matrix command (R264, R270 to R274). -/
def runMatrix (core : Nat) (c : Command) : EAct Unit :=
  match c.instr with
  | .mma x m _ _ _ => runMma core c x m.toNat false
  | .mmas x m _ _ _ => runMma core c x m.toNat true
  | .mspx x m _ _ _ => runMspx core c x m.toNat
  | .mzero x _ => modify fun s => s.setCore core { s.core core with acc := set8 (s.core core).acc x 0 }
  | .mldacc x m _ _ _ => runWindow core c x m.toNat false
  | .mstacc x m _ _ _ => runWindow core c x m.toNat true
  | .mwbld m _ _ _ => runMwbld core c m.toNat
  | .tzset x _ _ k => modify fun s =>
    if x = 0#3 then s
    else s.setCore core { s.core core with
      tz := if tzTest k c.ga c.gb then (s.core core).tz ||| (1#8 <<< x.toNat) else (s.core core).tz &&& ~~~(1#8 <<< x.toNat) }
  | _ => pure ()

/-- Removes a command from a matrix queue; PEND falls. -/
def State.dropMatrix (s : State) (core : Nat) (c : Command) : State :=
  (s.setCore core { s.core core with mq := (s.core core).mq.filter fun y => y.seq != c.seq }).modThread c.slot fun t => t.pendDown 3#2

/-- Ends a matrix command by a fault: it and every command of its thread that stands behind it in the queue are discarded; MFPC, cause
and address are recorded, and FLT is set where hold is set (R279, R280). -/
def State.faultMatrix (s : State) (core : Nat) (c : Command) (f : HeldFault) (hold : Bool) : State :=
  let gone := ((s.core core).mq.dropWhile fun y => y.seq != c.seq).filter fun y => y.slot == c.slot
  let s := gone.foldl (fun s y => s.dropMatrix core y) s
  let mark (t : Thread) : Thread := { t with mfpc := faultPc c.pc }
  if hold then s.holdFault c.slot 3#2 f mark else s.recordDiscard c.slot 3#2 f mark

/-- Replaces the head command of a matrix queue. -/
def State.setMatrixHead (s : State) (core : Nat) (c : Command) : State :=
  s.setCore core { s.core core with mq := (s.core core).mq.map fun y => if y.seq = c.seq then c else y }

/-- Runs the head command of a matrix queue: its effect, a wait in its entry, a held fault, or a freeze (R279, R280). -/
def State.performMatrix (s : State) (core : Nat) (c : Command) : State × Bool :=
  match (runMatrix core c).run' s with
  | (s, .ok _) => (s, true)
  | (s, .error .blocked) => (s, false)
  | (s, .error (.fault k)) =>
    let f : HeldFault := { code := k.code, addr := k.tval, seq := c.seq }
    if k.violation then
      let now := ((s.core core).mq.find? fun y => y.seq == c.seq).getD c
      ((s.setMatrixHead core { now with frozen := some f }).reportCommand c.slot 3 0 f, false)
    else (s.faultMatrix core c f true, false)

/-- Whether the head command may begin: no join holds it, its thread's earlier stores have performed, and it is not
frozen (R280, R295, R304). -/
def State.matrixReady (s : State) (c : Command) : Bool :=
  c.frozen.isNone && !c.started && !s.joinHeld c.slot c.seq 1 && s.storesBefore c.slot c.seq

/-- MATRIX_QUEUE_HEAD: the head reads its predicate; false retires it; an array command asks for the array; any other
executes (R262, R263, R264, R281). -/
def execMatrixQueueHead (core : Nat) (s : State) : Host.Outcome State Fault Refusal :=
  .next (match (s.core core).mq with
    | c :: _ =>
      if !s.matrixReady c then s
      else if !(s.core core).pred c.predicate then (s.dropMatrix core c).sampleLatency core 4 none
      else if c.isArray then
        let s := s.setMatrixHead core { c with done := 1 }
        s.setTile (core / 8) ((s.tile (core / 8)).rampEvent s.time)
      else
        let r := s.performMatrix core c
        if r.2 then match (r.1.core core).mq with
          | c' :: _ => r.1.setMatrixHead core { c' with started := true }
          | [] => r.1
        else r.1
    | [] => s)

/-- MATRIX_COMMAND_COMPLETE: an executed command leaves its queue and PEND falls (R260, R285). -/
def execMatrixCommandComplete (core : Nat) (s : State) : Host.Outcome State Fault Refusal :=
  .next (match (s.core core).mq with
    | c :: _ =>
      if c.started then
        let s := if c.isArray then s.modTileAt (core / 8) fun t => { t with arrayLast := s.time } else s
        (s.dropMatrix core c).sampleLatency core 4 none
      else s
    | [] => s)

/-! Arbitration (R283, R284). -/

/-- The 64-bit words of a list of bytes. -/
def wordsOf (bs : List Byte) : List Nat := (chunks 8 bs.length bs).map leNat
/-- Bits that change between consecutive words (R284). -/
def toggles : List Nat → Nat
  | a :: b :: l => ones (BitVec.ofNat 64 (Nat.xor a b)) + toggles (b :: l)
  | _ => 0

/-- The bytes of fibres as they are fetched: their descriptors, and then each one's coordinates and values (R271, R284; log 46). -/
def fibreBytes (read : Nat → Nat → EAct (List Byte)) (fmt off n : Nat) : EAct (List Byte) := do
  let ds ← read off (16 * n)
  let ls ← mapE (fun d => do
    let d := leNat d
    let cs ← read (field d 31 0) (2 * field d 76 64)
    let vs ← read (field d 63 32) (fmtWidth fmt / 8 * field d 76 64)
    return cs ++ vs) (chunks 16 ds.length ds)
  return ds ++ ls.flatten

/-- The estimate of an array command: the words of its A rows, with their block exponents, or A fibres, and of its B image or B fibres,
all of which are staged (R284; log 46). -/
def estimate (core : Nat) (c : Command) : EAct Nat := do
  let a := Tensor.ofEntry (c.tensors.getD 0 0)
  let b := Tensor.ofEntry (c.tensors.getD 1 0)
  let w := c.issuer core
  let rows (am : Nat) : EAct (List Byte) := do
    let k := kOf (wfield c.ga 58 57)
    let k0 := wfield c.ga 51 32
    let rows ← mapE (fun i => do
      let row := wfield c.ga 31 12 + i
      let es ← mapE (fun q => if a.has row (k0 + q) then eElement w am a row (k0 + q) c.seq else pure 0) (List.range k)
      let xs ← (if a.skind = 3 then mapE (fun q => if a.has row (k0 + 32 * q) then eScale w am a row (k0 + 32 * q) c.seq else pure 0)
        (List.range (k / 32)) else pure [])
      return packBits a.w es ++ xs.map (BitVec.ofNat 8)) (List.range (rowsValid c.ga))
    return rows.flatten
  let slot := 2048 * wfield c.gb 7 0
  let image (sparse : Bool) : EAct (List Byte) := eWeights (core / 8) slot (imageSize b.format (kOf (wfield c.ga 58 57)) sparse)
  let (x, y) ← (match c.instr with
    | .mspx _ m _ _ _ => do
      let x ← fibreBytes (eLocalBytes w m.toNat c.seq) a.format (wfield c.ga 35 12) (rowsValid c.ga)
      let y ← fibreBytes (eWeights (core / 8)) b.format slot 32
      pure (x, y)
    | .mma _ m _ _ _ => do
      let x ← rows m.toNat
      let y ← image false
      pure (x, y)
    | .mmas _ m _ _ _ => do
      let x ← rows m.toNat
      let y ← image true
      pure (x, y)
    | _ => pure ([], []))
  return ceilDiv (toggles (wordsOf x) + toggles (wordsOf y)) 1024

/-- A core's place in MBUDGET: none, 0 or 1; EN1 is ignored where both name one core (R283). -/
def budgetOf (m : Word) (core : Nat) : Option Nat :=
  if m.getLsbD 3 ∧ wfield m 2 0 = core then some 0
  else if m.getLsbD 7 ∧ wfield m 6 4 = core ∧ !(m.getLsbD 3 ∧ wfield m 2 0 = wfield m 6 4) then some 1
  else none
/-- CHG of a budgeted queue (R283). -/
def chargeOf (m : Word) (i : Nat) : Nat := if i = 0 then wfield m 31 16 else wfield m 47 32
/-- Adds to a CHG field, saturating (R283, R284). -/
def addCharge (m : Word) (i n : Nat) : Word :=
  let v := min (chargeOf m i + n) 65535
  if i = 0 then setField m 31 16 v else setField m 47 32 v

/-- The least of a list by a measure; the first of equals. -/
def leastBy (f : α → Nat) : List α → Option α
  | [] => none
  | x :: xs => match leastBy f xs with
    | none => some x
    | some y => if f x ≤ f y then some x else some y

/-- The core whose head command the array starts next, with its estimate (R284). -/
def Tile.arbitrate (t : Tile) (ready : List (Nat × Nat)) : Option (Nat × Nat) :=
  let limit := wfield t.mbudget 63 48
  let pref := ready.filter fun r => match budgetOf t.mbudget r.1 with
    | some i => decide (chargeOf t.mbudget i < limit)
    | none => false
  let free := ready.filter fun r => (budgetOf t.mbudget r.1).isNone
  let spent := ready.filter fun r => match budgetOf t.mbudget r.1 with
    | some i => decide (limit ≤ chargeOf t.mbudget i)
    | none => false
  match leastBy (fun r => 8 * r.2 + r.1) pref with
  | some r => some r
  | none => match leastBy (fun r => (r.1 + 7 - t.served) % 8) free with
    | some r => some r
    | none => leastBy (fun r => match budgetOf t.mbudget r.1 with
      | some i => 8 * chargeOf t.mbudget i + r.1
      | none => 0) spent

/-- ARRAY_COMMAND_START: in state ON the array starts the array command that arbitration chooses among the heads with a
true predicate and staged operands; HOLD falls, its queue is charged, and its effect is formed (R281, R282, R284). -/
def execArrayCommandStart (tile : Nat) (s : State) : Host.Outcome State Fault Refusal :=
  let t := s.tile tile
  .next (if t.array != .on || t.delayed then s
    else
      let ready := (List.range 8).filterMap fun i => match (s.core (8 * tile + i)).mq with
        | c :: _ =>
          if c.isArray && c.done == 1 && !c.started && c.frozen.isNone then
            match (estimate (8 * tile + i) c).run' s with
            | (_, .ok n) => some (i, n)
            | (_, .error (.fault _)) => some (i, 0)
            | (_, .error .blocked) => none
          else none
        | [] => none
      match t.arbitrate ready with
      | none => s
      | some (i, n) =>
        let core := 8 * tile + i
        match (s.core core).mq with
        | c :: _ =>
          let r := s.performMatrix core c
          let t := r.1.tile tile
          let t := { t with hold := t.hold - 1, arrayLast := r.1.time, arrayStart := r.1.time }
          let t := match budgetOf t.mbudget i with
            | some b => { t with mbudget := addCharge t.mbudget b n }
            | none => { t with served := i }
          if r.2 then (r.1.setTile tile t).setMatrixHead core { c with started := true }
          else if (r.1.core core).mq.any (·.seq == c.seq) then r.1
          else r.1.setTile tile t
        | [] => s)

end Sys2Proof.Machine
end

