-- ==== Sys2Proof/Machine/Stack.lean ====
section
/-! DEFINITION. The stack engines: the STK instructions at issue (R104 to R110, R119), and the events of a core's stack
queue (R111 to R118, R121, R122). -/

namespace Sys2Proof.Machine

/-! Issue and acceptance (R107 to R109). -/

/-- The formats that SRED accepts (R107). -/
def sredFmt (c : Nat) : Bool := c == 2 || c == 3 || c == 6 || c == 7 || c == 10 || c == 11

/-- The count n of a stack command (R105). -/
def stackCount (gb : Word) : Nat := wfield gb 63 32

/-- The limits that SGATH, SSCAT and SRED share (R108). -/
def listLimits (t : Tensor) (ga gb : Word) : Bool :=
  let n := stackCount gb
  decide (n ≤ 4096) && wfield ga 63 12 % 4 == 0 && decide (wfield ga 63 12 + 4 * n ≤ 0x40000) &&
  wfield gb 31 0 % (t.w / 8) == 0 && decide (wfield gb 31 0 + n * (t.w / 8) ≤ 0x40000)

/-- Steps 2 to 6 of R107: the tensor entries that a command captures. -/
def stackChecks (i : Instr) (ga gb : Word) : Act (List (BitVec 512)) := do
  match i with
  | .sgath .. =>
    let e ← resolve 6 (wfield ga 11 0) ga
    let t := Tensor.ofEntry e
    require (decide (8 ≤ t.w)) 6 18 ga
    require (listLimits t ga gb) 6 5 ga
    return [e]
  | .sscat .. =>
    let e ← resolve 6 (wfield ga 11 0) ga
    let t := Tensor.ofEntry e
    require (decide (8 ≤ t.w)) 6 18 ga
    require (listLimits t ga gb) 6 5 ga
    if t.wprot then violation 6 16 ga
    return [e]
  | .sred .. =>
    let e ← resolve 6 (wfield ga 11 0) ga
    let t := Tensor.ofEntry e
    require (sredFmt t.format) 6 18 ga
    require (listLimits t ga gb) 6 5 ga
    if t.wprot then violation 6 16 ga
    return [e]
  | .sconv .. =>
    let es ← resolve 6 (wfield ga 11 0) ga
    let ed ← resolve 6 (wfield ga 23 12) ga
    let src := Tensor.ofEntry es
    let dst := Tensor.ofEntry ed
    require (dst.format != 14) 6 18 ga
    let n := stackCount gb
    let rm := wfield ga 26 24
    let block (t : Tensor) : Bool := (sxbOf t.format).isNone || (!t.kcol && wfield gb 31 0 % 32 == 0 && n % 32 == 0)
    require (decide (n ≤ 4096) && (decide (rm ≤ 4) || rm == 7) && src.rows == dst.rows && src.cols == dst.cols &&
      block src && block dst && dst.skind == (if (sxbOf dst.format).isSome then 3 else 0) && wfield ga 63 28 == 0) 6 5 ga
    if dst.wprot then violation 6 16 ga
    if src.rows * src.cols < wfield gb 31 0 + n then violation 6 17 ga
    return [es, ed]
  | _ => return []

/-- The serving die of a command, plus one: the home of the frame of element 0 of its tensor, which its BASE names, found at acceptance
through the thread's translation; 0 where that frame is not in HBM (R102; log 61). Where BASE does not translate there is none, and
no fault is raised (log 104). -/
def findServing (e : BitVec 512) : Act Nat := do
  let s ← get
  let va := (Tensor.ofEntry e).base
  if (vaCheck s.issuer va).isSome then return 0
  else match s.takeFailure (.slot s.cur false) (va / 65536) with
    | some (s, _) =>
      set s
      return 0
    | none => match s.tlbLookup (coreOf s.cur) .load (wfield s.th.asid 13 0) va with
      | some e => return if inHbm (e.pa va) then hbmDie (e.pa va) + 1 else 0
      | none =>
        modify fun s => s.postWalk (dieOf s.cur) (.slot s.cur false) s.issuer (va / 65536) false
        waitFor .memoryReply

/-- The open transfer of an SGATH (R115). -/
def State.gatherTransfer (s : State) (seq dst len : Nat) : Transfer :=
  { seq := seq, slot := s.cur, core := coreOf s.cur, ssp := 9, src := 0, dsp := 1, dst := dst, len := len, written := 0, ep := 0
    push := false, qid := 0, follow := none, perm := none, feed := [], early := [], bytewise := false, clearing := none, stream := none, mode := s.th.mode
    asid := wfield s.th.asid 13 0, ptbase := s.th.ptbase, started := false, frozen := none, finishing := false, stopped := none, unacked := [] }

/-- A channel of a tile. -/
def Tile.chan (t : Tile) (ch : Nat) : Channel := t.chans.toList.getD ch Channel.reset
/-- Whether a channel accepts a transfer: it holds fewer than four open ones, and one that only waits to push its handle or
to place its follow-on is no longer open (R155, R162). -/
def Channel.room (c : Channel) : Bool := decide ((c.transfers.filter fun t => !t.finishing).length < 4)
/-- Replaces a channel of a tile. -/
def State.setChan (s : State) (tile ch : Nat) (c : Channel) : State :=
  s.setTile tile { s.tile tile with chans := (s.tile tile).chans.setIfInBounds ch c }

/-- Opens a transfer at the tail of a channel of the issuing tile; CSTAT.PEND rises (R155, R162, R170). -/
def State.openTransfer (s : State) (ch : Nat) (x : Transfer) : State :=
  let c := s.myTile.chan ch
  let s := s.setChan (tileOf s.cur) ch { c with transfers := c.transfers ++ [x] }
  { s with th := s.th.pendUp 1#2 }

/-- Step 7 of R107 and R109: a command without room is refused; one with room is accepted into the stack queue, and an
SGATH opens its transfer; n = 0 completes at once. -/
def acceptStack (i : Instr) (x : BitVec 3) (ch : Option Nat) (srcs : List (BitVec 5)) (ga gb : Word) (es : List (BitVec 512)) :
    Act Unit := do
  let s ← get
  let room := decide (s.myCore.sq.length < 32) && (match ch with
    | some c => (s.myTile.chan c).room
    | none => true)
  if !room then
    if x = 0#3 then fault 6 31 ga
    else
      modify fun s => s.setQ x false
      finish 4 srcs []
  else if stackCount gb = 0 then
    modify fun s => s.setQ x true
    finish 4 srcs []
  else
      let die ← findServing (es.headD 0)
      let (n, s) := ((← get).setQ x true).freshen
      let c := { s.command i n ga gb es with extra := [BitVec.ofNat 2048 die, 0, 0, 0] }
      let s := { s with th := s.th.pendUp 0#2 }
      let s := s.modCore fun k => { k with sq := k.sq ++ [c] }
      set (match ch with
        | some q => s.openTransfer q (s.gatherTransfer n (wfield gb 31 0) (stackCount gb * ((Tensor.ofEntry (es.headD 0)).w / 8)))
        | none => s)
      finish 4 srcs []

/-- A stack command at issue: a speculative task escalates first (R107, R110). -/
def stackIssue (i : Instr) (x : BitVec 3) (ch : Option Nat) (a b : BitVec 5) : Act Unit := do
  useRegs [a, b] []
  escalate
  let s ← get
  let es ← stackChecks i (s.rd a) (s.rd b)
  acceptStack i x ch [a, b] (s.rd a) (s.rd b) es

/-- SGATH (R107, R115). -/
def execSgath (x : BitVec 3) (c : BitVec 4) (a b : BitVec 5) (s : State) : Host.Outcome State Fault Refusal :=
  done (stackIssue (.sgath x c a b) x (some c.toNat) a b) s
/-- SSCAT (R107, R116). -/
def execSscat (x : BitVec 3) (a b : BitVec 5) (s : State) : Host.Outcome State Fault Refusal :=
  done (stackIssue (.sscat x a b) x none a b) s
/-- SRED (R107, R116). -/
def execSred (x : BitVec 3) (a b : BitVec 5) (o : BitVec 3) (s : State) : Host.Outcome State Fault Refusal :=
  done (stackIssue (.sred x a b o) x none a b) s
/-- SCONV (R107, R117). -/
def execSconv (x : BitVec 3) (a b : BitVec 5) (s : State) : Host.Outcome State Fault Refusal :=
  done (stackIssue (.sconv x a b) x none a b) s

/-- SFENCE: waits until PEND is 0, then delivers a held fault (R110, R119). -/
def execSfence (s : State) : Host.Outcome State Fault Refusal :=
  done (do
    escalate
    waitUntil .sfence fun s => s.th.pend 0#2 == 0
    deliverHeld 0#2
    finish 4 [] []) s

/-- SSTAT: copies ESTAT and clears its RC fields (R110, R119). -/
def execSstat (a : BitVec 5) (s : State) : Host.Outcome State Fault Refusal :=
  done (do
    useRegs [] [a]
    escalate
    let s ← get
    modTh fun t => { t with estat := t.estat &&& ~~~0x1F#64 }
    finish 4 [] [(a, s.th.estat)]) s

/-! Accesses of the engines (R103, R112, R114, R121, R122). -/

/-- Where an engine's access lies, translated by the walk unit of a die: the frames it may touch are given by a test, and any other raises
ENGHOME (R88, R89, R93, R103). -/
def eStack (w : Issuer) (die : Nat) (ok : Nat → Bool) (va n : Nat) (k : AccessKind) (self : Nat) : EAct Nat := do
  let v := BitVec.ofNat 64 va
  let e ← (fun s => match s.leafFor (.engine self) w die va k with
    | (s, some (.ok e)) => .ok (e, s)
    | (s, some (.error c)) => .error (s, .fault c)
    | (s, none) => .error (s, .blocked) : EAct TlbEntry)
  let pa := e.pa va
  let s ← get
  match s.mapCheck pa w.mode k v with
  | some c => eStop (.fault c)
  | none =>
    if !ok pa then eFault 6 42 va
    else if !s.lmPermits w pa k then eStop (.fault { code := code 1 10, tval := v, violation := true })
    else if s.unlanded pa n self then eBlocked
    else
      eNonSpec (.number self) pa n k.writes
      let s ← get
      if (if k.writes then s.poisonNarrow pa n else s.poisoned pa n) then eFault 1 13 va else return pa

/-- The die whose walk unit and stacks serve a command; the issuing die where no die does. -/
def Command.serving (c : Command) (core : Nat) : Nat := if c.extra.headD 0 = 0 then core / 1024 else (c.extra.headD 0).toNat - 1
/-- The frames a command's elements may lie in: HBM of the serving die (R103). -/
def Command.home (c : Command) (pa : Nat) : Bool := inHbm pa && hbmDie pa + 1 == (c.extra.headD 0).toNat

/-- The bits of an element of a command's tensor. -/
def eStackRead (core : Nat) (c : Command) (t : Tensor) (i j : Nat) : EAct Nat := do
  let b := t.elemBit i j
  let w := c.issuer core
  if t.w % 8 = 0 then
    let pa ← eStack w (c.serving core) c.home (b / 8) (t.w / 8) .load c.seq
    let s ← get
    return leNat (s.bytes pa (t.w / 8))
  else
    let bs ← mapE (fun k => do
      let pa ← eStack w (c.serving core) c.home (b / 8 + k) 1 .load c.seq
      let s ← get
      return s.byte pa) (List.range ((b % 8 + t.w + 7) / 8))
    return leNat bs / 2 ^ (b % 8) % 2 ^ t.w

/-- Writes the bits of an element of a tensor whose frames satisfy a test; an element narrower than a byte changes its own
bits only, all of them at once (R117). -/
def eStackWrite (core : Nat) (c : Command) (ok : Nat → Bool) (t : Tensor) (i j x : Nat) : EAct Unit := do
  let b := t.elemBit i j
  let w := c.issuer core
  if t.w % 8 = 0 then
    let pa ← eStack w (c.serving core) ok (b / 8) (t.w / 8) .store c.seq
    modify fun s => s.perform pa (leBytes (t.w / 8) x)
  else
    let pas ← mapE (fun k => eStack w (c.serving core) ok (b / 8 + k) 1 .store c.seq) (List.range ((b % 8 + t.w + 7) / 8))
    modify fun s => pas.zipIdx.foldl (fun (s : State) p =>
      let m := (2 ^ t.w - 1) * 2 ^ (b % 8) / 2 ^ (8 * p.2) % 256
      let v := x % 2 ^ t.w * 2 ^ (b % 8) / 2 ^ (8 * p.2) % 256
      s.perform p.1 [(s.byte p.1 &&& ~~~(BitVec.ofNat 8 m)) ||| BitVec.ofNat 8 v]) s

/-- The bits of an element's scale, 0 where there is none (R72); a scale may lie in any frame. -/
def eStackScale (core : Nat) (c : Command) (t : Tensor) (i j : Nat) : EAct Nat :=
  if t.skind = 0 then pure 0
  else do
    let n := if t.skind = 3 then 1 else 4
    let pa ← eStack (c.issuer core) (c.serving core) (fun _ => true) (t.scaleAddr i j) n .load c.seq
    let s ← get
    return leNat (s.bytes pa n)

/-! The snapshot (R111 to R113). -/

/-- Replaces a command of a stack queue. -/
def State.setStack (s : State) (core : Nat) (c : Command) : State :=
  s.setCore core { s.core core with sq := (s.core core).sq.map fun y => if y.seq = c.seq then c else y }

/-- A packed run of n values of w bits in the issuing core's local memory. -/
def eRun (core : Nat) (c : Command) (off w n : Nat) : EAct (List Nat) :=
  mapE (fun k => do
    let bs ← eRead (c.issuer core) 1 (off + k * (w / 8)) (w / 8) c.seq
    return leNat bs) (List.range n)

/-- What a command's snapshot holds: an index and a value for each element, or for SCONV the stored bits and the scale
(R111). -/
def eSnapshot (core : Nat) (c : Command) : EAct (List (Nat × Word)) := do
  let t := Tensor.ofEntry (c.tensors.getD 0 0)
  let n := stackCount c.gb
  match c.instr with
  | .sconv .. => mapE (fun k => do
      let e := wfield c.gb 31 0 + k
      let x ← eStackRead core c t (e / t.cols) (e % t.cols)
      let y ← eStackScale core c t (e / t.cols) (e % t.cols)
      return (y, BitVec.ofNat 64 x)) (List.range n)
  | .sgath .. => do
      let idx ← eRun core c (wfield c.ga 63 12) 32 n
      return idx.map fun i => (i, 0#64)
  | _ => do
      let idx ← eRun core c (wfield c.ga 63 12) 32 n
      let vs ← eRun core c (wfield c.gb 31 0) t.w n
      return List.zipWith (fun i v => (i, BitVec.ofNat 64 v)) idx vs

/-- zero(format) of R115. -/
def zeroBits (fmt : Nat) : Nat := if fmt = 15 then 0x0200000000000001 else 0

/-- Appends bytes to what the open transfer of an SGATH has to land. -/
def State.feedGather (s : State) (core : Nat) (seq : Nat) (bs : List Byte) : State :=
  let t := s.tile (core / 8)
  s.setTile (core / 8) { t with chans := t.chans.map fun ch => { ch with
    transfers := ch.transfers.map fun x => if x.seq = seq then { x with feed := x.feed ++ bs } else x } }

/-- Ends a command at an element: an SGATH lands zeros in the rest, and nothing more is performed; the fault, if any, is
recorded for its completion (R121, R122). -/
def State.endStack (s : State) (core : Nat) (c : Command) (f : HeldFault) (hold : Bool) : State :=
  let n := stackCount c.gb
  let t := Tensor.ofEntry (c.tensors.getD 0 0)
  let s := match c.instr with
    | .sgath .. => s.feedGather core c.seq ((List.replicate (n - c.done) (leBytes (t.w / 8) (zeroBits t.format))).flatten)
    | _ => s
  let x := [c.extra.getD 0 0, c.extra.getD 1 0, BitVec.ofNat 2048 (f.code + 1), f.addr.zeroExtend 2048, if hold then 1 else 0]
  s.setStack core { c with done := n, part := 0, snap := some (List.replicate n (0, 0#64)), extra := x, frozen := none }

/-- What becomes of a stack command whose action has stopped: a wait in its entry, an end, or a freeze (R112, R121, R122). -/
def State.stackStop (s : State) (core seq : Nat) (e : EStop) : State :=
  match (s.core core).sq.find? fun y => y.seq == seq, e with
  | some c, .fault k =>
    let f : HeldFault := { code := k.code, addr := k.tval, seq := seq }
    if k.violation then (s.setStack core { c with frozen := some f }).reportCommand c.slot 2 0 f
    else s.endStack core c f true
  | _, _ => s

/-- STACK_SNAPSHOT: the head command reads its snapshot once no join holds it and its thread's earlier stores have
performed (R111 to R113, R304). -/
def execStackSnapshot (core : Nat) (s : State) : Host.Outcome State Fault Refusal :=
  .next (match (s.core core).sq with
    | c :: _ =>
      if c.frozen.isSome || c.snap.isSome || s.joinHeld c.slot c.seq 2 || !s.storesBefore c.slot c.seq then s
      else match (eSnapshot core c).run' s with
        | (s, .ok l) => (s.dropAnswers c.seq).setStack core { c with snap := some l, started := true }
        | (s, .error e) => s.stackStop core c.seq e
    | [] => s)

/-! The elements (R115 to R117). -/

/-- The flags of FSTAT and of RSTAT as ESTAT has them: INV, UNF, OVF and INX (R120). -/
def engineFlags (fs rs : Word) : BitVec 2048 :=
  let u := fs ||| rs
  (if u.getLsbD 0 then 2 else 0) ||| (if u.getLsbD 2 then 4 else 0) ||| (if u.getLsbD 1 then 8 else 0) |||
  (if fs.getLsbD 4 || rs.getLsbD 3 then 16 else 0)

/-- Combine of R116 on stored bits: the result, and its flags as FSTAT has them. -/
def sredValue (fmt op : Nat) (ovs : Bool) (old v : Nat) : Nat × Word :=
  match ffmtOf fmt with
  | some f => if op = 0 then accAdd f ovs (f.read old) (f.read v) else (minMaxF f (op == 2) old v, 0)
  | none =>
    let w := fmtWidth fmt
    if op = 0 then ((old + v) % 2 ^ w, 0)
    else
      let lt := match intFmtOf fmt with
        | some (true, _) => decide (toSigned w old < toSigned w v)
        | _ => decide (old < v)
      (if lt == (op == 1) then old else v, 0)

/-- Whether an element after scaling is a NaN although neither the element nor its scale is one: 0 times an infinite scale (R72,
R120). -/
def Tensor.makesNan (t : Tensor) (table : BitVec 128) (bits scale : Nat) : Bool :=
  (sxbOf t.format).isNone && t.skind != 0 && (t.value table bits scale).isNan && !(t.unscaled table bits).isNan && !(f32.read scale).isNan

/-- SCONV's result for a value outside block form: the stored bits, and the flags as FSTAT and RSTAT have them (R117, R215,
R216). INV tells of a NaN that was produced: by the scale, and never by a conversion to an integer format (R120). -/
def sconvValue (src dst : Tensor) (table : BitVec 128) (rm : Nat) (ovs : Bool) (bits scale : Nat) : Nat × Word × Word :=
  let v := src.value table bits scale
  match intFmtOf dst.format with
  | some (sg, w) =>
    let r := toInteger sg w (if src.format = 15 ∧ rm = 4 then 0 else rm) v
    (ofSigned w r.1, if r.2.2 && !r.2.1 then flagNX else 0, 0)
  | none =>
    if src.format = dst.format ∧ src.skind = 0 then (canonicalise dst.format bits, 0, 0)
    else
      let r := toFloat dst.format rm ovs v
      (r.1, r.2.1 ||| (if src.makesNan table bits scale then flagNV else 0), r.2.2)

/-- Notes an element performed: how many are done, and the flags it raised; the next one walks for itself. -/
def State.stackDone (s : State) (core : Nat) (c : Command) (n : Nat) (fl : BitVec 2048) : State :=
  (s.dropAnswers c.seq).setStack core { c with done := c.done + n, part := 0, extra := [c.extra.getD 0 0, c.extra.getD 1 0 ||| fl, c.extra.getD 2 0, c.extra.getD 3 0] }

/-- Writes the elements of an SXB block from the first one that is not written yet, each once and in ascending order; the command keeps
its place in the block (R117, R122). -/
def eBlockWrite (core : Nat) (c : Command) (u : Tensor) (k : Nat) : (left : List (Nat × Nat)) → EAct Unit
  | [] => pure ()
  | (x, i) :: rest => do
    if c.part ≤ i then
      eStackWrite core c inHbm u ((k + i) / u.cols) ((k + i) % u.cols) x
      modify fun s => s.setStack core { c with part := i + 1 }
    eBlockWrite core c u k rest

/-- One element of a command, or one block of 32 for an SXB destination, whose exponent byte is written after its elements and lies as
they may (R115 to R117; logs 100 and 105). -/
def eStackElement (core : Nat) (c : Command) (l : List (Nat × Word)) : EAct Unit := do
  let t := Tensor.ofEntry (c.tensors.getD 0 0)
  let u := Tensor.ofEntry (c.tensors.getD 1 0)
  let (e, v) := l.getD c.done (0, 0#64)
  let inside := decide (e < t.rows * t.cols)
  match c.instr with
  | .sgath .. =>
    if inside then
      let x ← eStackRead core c t (e / t.cols) (e % t.cols)
      modify fun s => (s.feedGather core c.seq (leBytes (t.w / 8) x)).stackDone core c 1 0
    else modify fun s => (s.feedGather core c.seq (leBytes (t.w / 8) (zeroBits t.format))).stackDone core c 1 1
  | .sscat .. =>
    if inside then
      eStackWrite core c c.home t (e / t.cols) (e % t.cols) v.toNat
      modify fun s => s.stackDone core c 1 0
    else modify fun s => s.stackDone core c 1 1
  | .sred _ _ _ o =>
    if inside then
      let old ← eStackRead core c t (e / t.cols) (e % t.cols)
      let r := sredValue t.format (wfield o 1 0) (o.getLsbD 2) old v.toNat
      eStackWrite core c c.home t (e / t.cols) (e % t.cols) r.1
      modify fun s => s.stackDone core c 1 (engineFlags r.2 0)
    else modify fun s => s.stackDone core c 1 1
  | _ =>
    let rm := if wfield c.ga 26 24 = 7 then wfield c.frm 2 0 else wfield c.ga 26 24
    let ovs := c.ga.getLsbD 27
    let k := wfield c.gb 31 0 + c.done
    match sxbOf u.format with
    | none =>
      let r := sconvValue t u c.codes rm ovs v.toNat e
      eStackWrite core c inHbm u (k / u.cols) (k % u.cols) r.1
      modify fun s => s.stackDone core c 1 (engineFlags r.2.1 r.2.2)
    | some m =>
      let xs := (List.range 32).map fun i =>
        let p := l.getD (c.done + i) (0, 0#64)
        t.value c.codes p.2.toNat p.1
      let r := sxbEncode xs m rm ovs
      eBlockWrite core c u k r.2.1.zipIdx
      let pa ← eStack (c.issuer core) (c.serving core) inHbm (u.scaleAddr (k / u.cols) (k % u.cols)) 1 .store c.seq
      let inv := (List.range 32).any fun i => t.makesNan c.codes (l.getD (c.done + i) (0, 0#64)).2.toNat (l.getD (c.done + i) (0, 0#64)).1
      modify fun s => (s.perform pa [BitVec.ofNat 8 r.1]).stackDone core c 32 (engineFlags (r.2.2 ||| (if inv then flagNV else 0)) 0)

/-- STACK_ELEMENT: the head command delivers, writes or combines its next element (R103, R114 to R117, R121, R122). -/
def execStackElement (core : Nat) (s : State) : Host.Outcome State Fault Refusal :=
  .next (match (s.core core).sq with
    | c :: _ =>
      match c.snap with
      | some l =>
        if c.frozen.isSome || decide (l.length ≤ c.done) then s
        else match (eStackElement core c l).run' s with
          | (s, .ok _) => s
          | (s, .error e) => s.stackStop core c.seq e
      | none => s
    | [] => s)

/-- STACK_COMMAND_COMPLETE: the head command, all its writes performed and an SGATH's last byte landed, leaves the queue:
PEND falls, its flags enter ESTAT, and its fault is held; that of a discarded command is recorded without FLT (R118, R121, R122). -/
def execStackCommandComplete (core : Nat) (s : State) : Host.Outcome State Fault Refusal :=
  .next (match (s.core core).sq with
    | c :: _ =>
      let all := match c.snap with
        | some l => decide (l.length ≤ c.done)
        | none => false
      if c.frozen.isSome || !all || s.transfers.any (·.seq == c.seq) then s
      else
        let s := s.setCore core { s.core core with sq := (s.core core).sq.filter fun y => y.seq != c.seq }
        let s := s.sampleLatency core 3 none
        let s := s.modThread c.slot fun t =>
          let t := t.pendDown 0#2
          { t with estat := t.estat ||| (c.extra.getD 1 0).truncate 64 }
        let f : HeldFault := { code := (c.extra.getD 2 0).toNat - 1, addr := (c.extra.getD 3 0).truncate 64, seq := c.seq }
        if c.extra.getD 2 0 = 0 then s
        else if c.extra.getD 4 0 = 0 then s.recordDiscard c.slot 0#2 f id
        else s.holdFault c.slot 0#2 f id
    | [] => s)

end Sys2Proof.Machine
end

