-- ==== Sys2Proof/Machine/Copy.lean ====
section
/-! DEFINITION. Copy channels and stream registers: the CPY instructions at issue (R155 to R163, R165, R166, R168, R169,
R172 to R174), and the events of a channel (R158 to R160, R164, R165, R171, R175, R176, R405). -/

namespace Sys2Proof.Machine

/-! Descriptors and limits (R157, R163). -/

/-- What a CPY, CPYA or CPYMX names (R157, R164). -/
structure CopyDesc where
  src : Nat
  dst : Nat
  len : Nat
  ssp : Nat
  dsp : Nat
  ep : Nat
  push : Bool
  qid : BitVec 11
  /-- A reserved bit is set. -/
  reserved : Bool
  deriving DecidableEq, Repr

/-- The 32-byte descriptor (R157). -/
def CopyDesc.ofBits (d : BitVec 256) : CopyDesc :=
  { src := wfield d 63 0, dst := wfield d 127 64, len := wfield d 151 128, ssp := wfield d 162 160, dsp := wfield d 165 163
    ep := wfield d 207 192, push := d.getLsbD 191, qid := d.extractLsb' 180 11
    reserved := wfield d 255 208 != 0 || wfield d 179 166 != 0 || wfield d 159 152 != 0 }

/-- CPY as the descriptor it stands for (R164). -/
def CopyDesc.ofCpy (ga gb : Word) : CopyDesc :=
  { src := ga.toNat, dst := wfield gb 31 0, len := wfield gb 63 32, ssp := 0, dsp := 1, ep := 0, push := false, qid := 0, reserved := false }

/-- Whether a range lies inside a space (R163). -/
def spaceFits (sp a len : Nat) : Bool :=
  match sp with
  | 0 => decide (a + len ≤ 2 ^ 56)
  | 1 => decide (a + len ≤ 0x40000)
  | 2 => decide (a + len ≤ 0x800000)
  | 3 => inLm a && (len == 0 || (inLm (a + len - 1) && (a - lmBase) / 0x40000 == (a + len - 1 - lmBase) / 0x40000))
  | 4 => decide (a + len ≤ 0x80000)
  | _ => true

/-- The limits of R163 and the endpoint check of R405. -/
def State.copyLimits (s : State) (d : CopyDesc) : Bool :=
  let here := globalCore (coreOf s.cur)
  decide (d.len ≤ 8388608) && (decide (d.ssp ≤ 3) || d.ssp == 5) && decide (d.dsp ≤ 5) && !d.reserved &&
  spaceFits d.ssp d.src d.len && spaceFits d.dsp d.dst d.len &&
  (!d.push || (match s.queue d.qid with
    | some q => q.prod == here
    | none => false)) &&
  ((d.ssp != 5 && d.dsp != 5) || (match assocFind d.ep s.endpoints with
    | some e => e.asid == wfield s.th.asid 13 0
    | none => false))

/-- Step 5 of R162 for one range. Of the bytes a range names in one core's memory the first has the lowest offset, which
alone decides that core's LOCK; the first 256 bytes of a cluster range name every core that the range names. -/
def State.copyPermits (s : State) (sp a len : Nat) (k : AccessKind) : Bool :=
  match sp with
  | 2 => (List.range (min len 256)).all fun i => s.lmPermits s.issuer (clusterPa (coreOf s.cur) (a + i)) k
  | 3 => len == 0 || s.lmPermits s.issuer a k
  | _ => true

/-! Acceptance (R162). -/

/-- A transfer of the thread in focus that has not begun. -/
def State.newTransfer (s : State) (seq : Nat) (d : CopyDesc) : Transfer :=
  { s.gatherTransfer seq d.dst d.len with
    ssp := d.ssp, src := d.src, dsp := d.dsp, ep := d.ep, push := d.push, qid := d.qid }

/-- Step 7 of R162: room on the channel, or a refusal. The transfer is a function of the number it takes. -/
def acceptCopy (x : BitVec 3) (ch : Nat) (srcs : List (BitVec 5)) (tv : Word) (f : State → Nat → Transfer) : Act Unit := do
  let s ← get
  if (s.myTile.chan ch).room then
    let (n, s) := s.freshen
    set ((s.openTransfer ch (f s n)).setQ x true)
    finish 4 srcs []
  else if x = 0#3 then fault 4 24 tv
  else
    modify fun s => s.setQ x false
    finish 4 srcs []

/-- A non-speculative read of the thread's own local memory at issue: a descriptor or record (R159, R162). -/
def readOwn (off n : Nat) : Act (List Byte) := do
  let s ← get
  let pa := s.myWindow + off
  if s.unlanded pa n 0 then waitFor .watermark
  else
    specAccess pa n false
    let s ← get
    if s.loadPoisoned pa n then fault 1 13 (BitVec.ofNat 64 off) else return s.loadBytes pa n

/-- Step 3 of R162 and the queue's owner (R163, R177; log 88). -/
def checkCopy (d : CopyDesc) (tv : Word) : Act Unit := do
  let s ← get
  require (s.copyLimits d) 4 5 tv
  if d.push then match s.queue d.qid with
    | some q => if q.asid != wfield s.th.asid 13 0 then violation 4 25 tv
    | none => pure ()

/-- Step 5 of R162. -/
def checkCopyRanges (d : CopyDesc) (tv : Word) : Act Unit := do
  let s ← get
  if !(s.copyPermits d.ssp d.src d.len .load && s.copyPermits d.dsp d.dst d.len .store) then violation 1 10 tv

/-- A 32-byte descriptor of own local memory (step 2 of R162). -/
def readDescriptor (ga : Word) : Act (BitVec 256) := do
  require (ga.toNat % 32 == 0 && decide (ga.toNat + 32 ≤ 0x40000)) 4 5 ga
  let bs ← readOwn ga.toNat 32
  return BitVec.ofNat 256 (leNat bs)

/-- CPY (R162, R164). -/
def execCpy (x : BitVec 3) (c : BitVec 4) (a b : BitVec 5) (s : State) : Host.Outcome State Fault Refusal :=
  done (do
    useRegs [a, b] []
    escalate
    let s ← get
    let ga := s.rd a
    let d := CopyDesc.ofCpy ga (s.rd b)
    checkCopy d ga
    checkCopyRanges d ga
    acceptCopy x c.toNat [a, b] ga fun s n => s.newTransfer n d) s

/-- CPYA (R162, R164). -/
def execCpya (x : BitVec 3) (c : BitVec 4) (a : BitVec 5) (s : State) : Host.Outcome State Fault Refusal :=
  done (do
    useRegs [a] []
    escalate
    let s ← get
    let ga := s.rd a
    let bits ← readDescriptor ga
    let d := CopyDesc.ofBits bits
    checkCopy d ga
    checkCopyRanges d ga
    acceptCopy x c.toNat [a] ga fun s n => s.newTransfer n d) s

/-- The command of a follow-on record's word, if it is one that a record may hold (R275). -/
def followOn (w : BitVec 32) : Option Instr :=
  let f := eSplit w
  if w.extractLsb' 0 6 = 0x2D#6 ∧ f.a = 0#5 ∧ f.b = 0#5 then
    match checkModifiers (decodeMtx f) with
    | .ok (.mburst ..) | .ok .mfence | .ok (.tzset ..) => none
    | .ok i => some i
    | .error _ => none
  else none

/-- CPYMX (R162, R165, R275): its follow-on's captured values are taken, and MSTAT.PEND rises, at acceptance. -/
def execCpymx (x : BitVec 3) (c : BitVec 4) (a b : BitVec 5) (s : State) : Host.Outcome State Fault Refusal :=
  done (do
    useRegs [a, b] []
    escalate
    let s ← get
    let ga := s.rd a
    let gb := s.rd b
    let bits ← readDescriptor ga
    let d := CopyDesc.ofBits bits
    checkCopy d ga
    require (gb.toNat % 8 == 0 && decide (gb.toNat + 24 ≤ 0x40000)) 4 5 ga
    let r ← readOwn gb.toNat 24
    let word : BitVec 32 := BitVec.ofNat 32 (leNat (r.take 4))
    require (leNat ((r.drop 4).take 4) == 0) 4 5 ga
    match followOn word with
    | none => fault 3 5 (word.zeroExtend 64)
    | some i =>
      deliverHeld 3#2
      let fa := BitVec.ofNat 64 (leNat ((r.drop 8).take 8))
      let fb := BitVec.ofNat 64 (leNat ((r.drop 16).take 8))
      let es ← matrixChecks i fa fb ga
      checkCopyRanges d ga
      let s ← get
      if (s.myTile.chan c.toNat).room then
        let (n, s) := s.freshen
        let (m, s) := s.freshen
        set ((s.openTransfer c.toNat { s.newTransfer n d with follow := some (s.command i m fa fb es) }).setQ x true)
        modTh fun t => t.pendUp 3#2
        finish 4 [a, b] []
      else acceptCopy x c.toNat [a, b] ga fun s n => s.newTransfer n d) s

/-- CPERM (R162, R166). A window of no rows or columns has its bounds checked like any other (log 110). -/
def execCperm (x : BitVec 3) (c : BitVec 4) (a b : BitVec 5) (s : State) : Host.Outcome State Fault Refusal :=
  done (do
    useRegs [a, b] []
    escalate
    let s ← get
    let ga := s.rd a
    let gb := s.rd b
    let dst := wfield gb 31 0
    let nrow := wfield gb 47 32
    let ncol := wfield gb 63 48
    require (wfield ga 63 53 == 0 && decide (dst ≤ 0x40000)) 4 5 ga
    let e ← resolve 4 (wfield ga 11 0) ga
    let t := Tensor.ofEntry e
    require (decide (8 ≤ t.w) && (sxbOf t.format).isNone) 4 18 ga
    let len := nrow * ncol * (t.w / 8)
    require (decide (len ≤ 8388608) && decide (dst + len ≤ 0x40000)) 4 5 ga
    if t.rows < wfield ga 31 12 + nrow ∨ t.cols < wfield ga 51 32 + ncol then violation 4 17 ga
    acceptCopy x c.toNat [a, b] ga fun s n =>
      { s.gatherTransfer n dst len with ssp := 8, perm := some (s.command (.cperm x c a b) n ga gb [e]) }) s

/-- Changes a transfer of a channel. -/
def State.modTransfer (s : State) (tile ch seq : Nat) (f : Transfer → Transfer) : State :=
  let c := (s.tile tile).chan ch
  s.setChan tile ch { c with transfers := c.transfers.map fun t => if t.seq = seq then f t else t }

/-! The reorder store (R155, R164). -/

/-- Bytes of an element of a CPERM. -/
def Transfer.permBytes (c : Command) : Nat := (Tensor.ofEntry (c.tensors.getD 0 0)).w / 8
/-- The first byte of the request that asks for byte k: a 128-byte line of the source, or an element of a CPERM (R155, R166). -/
def Transfer.chunk (t : Transfer) (k : Nat) : Nat :=
  match t.perm with
  | none => k - min k ((t.src + k) % 128)
  | some c => k / Transfer.permBytes c * Transfer.permBytes c
/-- The byte after that request's last one. -/
def Transfer.chunkEnd (t : Transfer) (k : Nat) : Nat :=
  min t.len (match t.perm with
    | none => k + (128 - (t.src + k) % 128)
    | some c => (k / Transfer.permBytes c + 1) * Transfer.permBytes c)
/-- The next byte to be written, or for a remote destination to be sent. -/
def Transfer.front (t : Transfer) : Nat := t.written + t.unacked.foldl (· + ·) 0
/-- The bytes that the channel holds from byte k to the end of k's request. -/
def Transfer.heldFrom (t : Transfer) (k : Nat) : List Byte := (assocGet [] (t.chunk k) t.early).drop (k - t.chunk k)
/-- The bytes that the channel holds without a gap from byte k on, at most n. -/
def Transfer.ready (t : Transfer) : (fuel k n : Nat) → List Byte
  | 0, _, _ => []
  | fuel + 1, k, n =>
    match (t.heldFrom k).take n with
    | [] => []
    | h => h ++ Transfer.ready t fuel (k + h.length) (n - h.length)
/-- The first missing byte of each of the next requests, from byte k on, that have not returned all their bytes. -/
def Transfer.missing (t : Transfer) : (requests k : Nat) → List Nat
  | 0, _ => []
  | r + 1, k =>
    if t.len ≤ k then []
    else
      let m := k + (t.heldFrom k).length
      (if m < t.chunkEnd k then [m] else []) ++ Transfer.missing t r (t.chunkEnd k)

/-! CWM, CWAIT and CSTOP (R168, R169). -/

/-- The current transfer of a channel. -/
def Channel.current (c : Channel) : Option Transfer := c.transfers.find? fun t => !t.finishing

/-- CWM; of a stream, its ring's place and the bytes moved (R168; log 83). -/
def execCwm (c : BitVec 4) (a : BitVec 5) (s : State) : Host.Outcome State Fault Refusal :=
  done (do
    useRegs [] [a]
    escalate
    let s ← get
    let ch := s.myTile.chan c.toNat
    let v := match ch.current with
      | some t => BitVec.ofNat 64 (t.dst + if t.over then t.len else t.written)
      | none => ch.lastEnd
    finish 4 [] [(a, v)]) s

/-- CWAIT: waits for the bytes below g[a] of every transfer accepted on the channel before it issued, then delivers a held
fault (R168, R171). A stream has no destination range and is not waited for (log 23). -/
def execCwait (c : BitVec 4) (a : BitVec 5) (s : State) : Host.Outcome State Fault Refusal :=
  done (do
    useRegs [a] []
    escalate
    let s ← get
    let bound := s.th.posted.getD s.fresh
    let lim := (s.rd a).toNat
    let waits := (s.myTile.chan c.toNat).transfers.any fun t =>
      decide (t.seq < bound) && !t.over && t.stream.isNone && decide (t.dst + t.written < min lim (t.dst + t.len))
    if waits then
      modTh fun t => { t with posted := some bound }
      waitFor .cwait
    else
      deliverHeld 1#2
      finish 4 [a] []) s

/-- A transfer leaves its channel without its handle or follow-on: a stream's register leaves stream mode, PEND falls,
and a follow-on that is never placed leaves MSTAT.PEND (R169, R171, R176, R275). A transfer that is stopped or discarded does
not complete (log 83), and the register of its stream keeps its contents (log 113). -/
def State.removeTransfer (s : State) (tile ch : Nat) (t : Transfer) : State :=
  let c := (s.tile tile).chan ch
  let s := s.setChan tile ch { c with transfers := c.transfers.filter fun y => y.seq != t.seq }
  s.modThread t.slot fun th =>
    let th := if t.finishing then th else th.pendDown 1#2
    let th := if t.follow.isSome then th.pendDown 3#2 else th
    match t.stream with
    | some r => { th with streams := set8 th.streams (BitVec.ofNat 3 r) none }
    | none => th

/-- A transfer completes and leaves its channel: its end address is what CWM reads from the idle channel; a stream leaves none (R168,
R171; log 83). -/
def State.endTransfer (s : State) (tile ch : Nat) (t : Transfer) : State :=
  let c := (s.tile tile).chan ch
  (if t.stream.isSome then s else s.setChan tile ch { c with lastEnd := BitVec.ofNat 64 (t.dst + t.len) }).removeTransfer tile ch t

/-- Whether bytes of an RDMA READ that a transfer has sent have not returned (R405). -/
def Transfer.awaitsRead (t : Transfer) : Bool := t.ssp == 5 && t.started && !(t.missing t.len t.front).isEmpty
/-- Whether a transfer has a request outstanding: a packet not acknowledged, an RDMA READ, an access at a home or a walk (R93, R139,
R169, R405). -/
def State.requestsOut (s : State) (t : Transfer) : Bool :=
  !t.unacked.isEmpty || t.awaitsRead || s.homeReqs.any (·.who == .number t.seq) ||
  s.txns.any (fun x => match x.kind with
    | .home w _ => w == .number t.seq
    | _ => false) ||
  s.dies.any fun d => d.2.walks.any fun w => w.requesters.any (·.ofNumber t.seq)

/-- CSTOP: the transfers that are open still are stopped; one that has completed keeps its handle and follow-on. It retires once none of
them has a request outstanding (R155, R169). -/
def execCstop (c : BitVec 4) (a : BitVec 5) (s : State) : Host.Outcome State Fault Refusal :=
  done (do
    useRegs [a] []
    escalate
    let s ← get
    let ga := s.rd a
    require (ga >>> 1 == 0#64) 4 5 ga
    require (!ga.getLsbD 0 || s.th.privileged) 0 2 ga
    let mine := s.cur
    let ts := (s.myTile.chan c.toNat).transfers
    let begun := ts.filter fun t => t.stopped == some mine
    let gone := if begun.isEmpty then ts.filter fun t => !t.over && (ga.getLsbD 0 || t.slot == mine) else begun
    if gone.any s.requestsOut then
      modify fun s => gone.foldl (fun s t => s.modTransfer (tileOf mine) c.toNat t.seq fun y => { y with stopped := some mine, frozen := none }) s
      waitFor .memoryReply
    else
      modify fun s => gone.foldl (fun s t =>
        let s := s.removeTransfer (tileOf mine) c.toNat t
        if t.slot = mine then s else s.modThread t.slot fun th => { th with cstat := setField th.cstat 1 1 1 }) s
      finish 4 [a] []) s

/-! Streams at issue (R173, R174). -/

/-- Whether two ranges of own local memory meet. -/
def ringsMeet (a n : Nat) (x : Stream) : Bool := decide (a < x.ring + x.size) && decide (x.ring < a + n)

/-- The active streams of a core's threads. -/
def State.coreStreams (s : State) (core : Nat) : List Stream :=
  ((s.cur, s.th) :: s.threads).flatMap fun t => if coreOf t.1 = core then t.2.streams.toList.filterMap id else []

/-- CSTRM and CSTRMX (R173). A stream that finds no room has no condition register to clear and raises CHBUSY (log 24). -/
def streamIssue (output : Bool) (x : BitVec 3) (c : BitVec 4) (a b : BitVec 5) : Act Unit := do
  useRegs [a, b] []
  escalate
  let s ← get
  let ga := s.rd a
  let gb := s.rd b
  let pat ← readDescriptor ga
  let ring := wfield gb 31 0
  let size := wfield gb 63 32
  let s ← get
  require (wfield pat 111 67 == 0 && wfield pat 63 0 % 2 ^ wfield pat 65 64 == 0 &&
    ring % 64 == 0 && [256, 512, 1024, 2048, 4096, 8192, 16384, 32768, 65536].contains size && decide (ring + size ≤ 0x40000) &&
    (get8 s.th.streams x).isNone && !(s.coreStreams (coreOf s.cur)).any (ringsMeet ring size) &&
    (decide (x.toNat < 4) || decide (0 < s.th.grant))) 4 5 ga
  if (s.myTile.chan c.toNat).room then
    let (n, s) := s.popSources [a, b] |>.freshen
    set (s.openTransfer c.toNat { s.gatherTransfer n ring 0 with ssp := 10, stream := some x.toNat })
    modTh fun t => { t with streams := set8 t.streams x (some { output := output, ch := c.toNat, pat := pat, ring := ring, size := size, moved := 0, used := 0 }) }
    finish 4 [] []
  else fault 4 24 ga

/-- CSTRM (R173). -/
def execCstrm (x : BitVec 3) (c : BitVec 4) (a b : BitVec 5) (s : State) : Host.Outcome State Fault Refusal :=
  done (streamIssue false x c a b) s
/-- CSTRMX (R173). -/
def execCstrmx (x : BitVec 3) (c : BitVec 4) (a b : BitVec 5) (s : State) : Host.Outcome State Fault Refusal :=
  done (streamIssue true x c a b) s

/-! The accesses of a channel (R158, R159, R164). -/

/-- Where a byte of a space lies, checked as a channel's access: translation, PERMR or PERMW of a space-0 byte, the
watermarks of every other channel, and the aborts and recalls it forces (R159, R164, R18). -/
def xPlace (t : Transfer) (mine : List Nat) (sp a : Nat) (k : AccessKind) : EAct Nat := do
  let w := t.issuer
  let v := BitVec.ofNat 64 a
  let pa ← (match sp with
    | 1 => pure (window (globalCore t.core) + a)
    | 2 => pure (clusterPa t.core a)
    | 3 => pure a
    | _ => do
      let pa ← (fun s => match s.locateFor (.agent t.seq t.core) w a k with
        | (s, some (.ok (pa, _))) => .ok (pa, s)
        | (s, some (.error c)) => .error (s, .fault c)
        | (s, none) => .error (s, .blocked) : EAct Nat)
      let s ← get
      if s.lmPermits w pa k then pure pa else eStop (.fault { code := code 1 10, tval := v, violation := true }))
  let s ← get
  if s.unlandedBy pa 1 (fun y => !mine.contains y.seq) then eBlocked
  else
    eNonSpec (.number t.seq) pa 1 k.writes
    return pa

/-- A source byte; a remote endpoint's bytes are not the device's (R147, R405; log 4). -/
def xRead (t : Transfer) (mine : List Nat) (sp a : Nat) : EAct Byte :=
  if sp = 5 then do
    let s ← get
    let (v, s) := s.choose 256
    set s
    return BitVec.ofNat 8 v
  else do
    let pa ← xPlace t mine sp a .load
    let s ← get
    if s.poisoned pa 1 then eFault 1 13 a else return s.byte pa

/-- The part of a write, at addresses lo to lo + n - 1 of a space, that a byte belongs to. -/
structure Span where
  lo : Nat
  n : Nat

/-- The address of a space that names physical address q, where address a names pa in the same memory. -/
def spaceAt (sp a pa q : Nat) : Int :=
  if sp = 2 then a + ((q / 8 : Nat) - (pa / 8 : Nat) : Int) * 256 + ((q % 8 : Nat) - (pa % 8 : Nat) : Int) else a + (q - pa : Int)
/-- Whether the bytes of a poisoned unit, of which address a of a space is the byte at pa, all lie in a span (R147). -/
def Span.covers (x : Span) (sp : Nat) (a pa : Nat) (u : Nat × Nat) : Bool :=
  decide ((x.lo : Int) ≤ spaceAt sp a pa u.1) && decide (spaceAt sp a pa (u.1 + u.2 - 1) < (x.lo + x.n : Nat))

/-- Writes a destination byte of a span. A byte of a poisoned unit is written where the span covers the unit from its first byte on; the
unit is clean again once its last byte is written, and any other write into it is a narrower one (R147). -/
def xWrite (tile ch : Nat) (t : Transfer) (mine : List Nat) (x : Span) (sp a : Nat) (b : Byte) : EAct Unit := do
  let pa ← xPlace t mine sp a .store
  let s ← get
  match s.poison.find? fun u => decide (u.1 ≤ pa) && decide (pa < u.1 + u.2) with
  | none => set (s.setByte pa b)
  | some u =>
    let t' := (((s.tile tile).chan ch).transfers.find? fun y => y.seq == t.seq).getD t
    if x.covers sp a pa u && (pa == u.1 || t'.clearing == some u) then
      let s := s.setByte pa b
      let last := pa + 1 == u.1 + u.2
      let s := s.modTransfer tile ch t.seq fun y => { y with clearing := if last then none else some u }
      set (if last then s.clearPoison u.1 u.2 else s)
    else eFault 1 13 a

/-- The source of byte k of a transfer: for a CPERM the byte of the tensor element at that place (R164, R166). -/
def Transfer.source (t : Transfer) (k : Nat) : Nat × Nat :=
  match t.perm with
  | none => (t.ssp, t.src + k)
  | some c =>
    let x := Tensor.ofEntry (c.tensors.getD 0 0)
    let n := x.w / 8
    let e := k / n
    let nrow := wfield c.gb 47 32
    let ncol := wfield c.gb 63 48
    let (i, j) := if c.ga.getLsbD 52 then (e % nrow, e / nrow) else (e / ncol, e % ncol)
    (0, x.elemBit (wfield c.ga 31 12 + i) (wfield c.ga 51 32 + j) / 8 + k % n)

/-! What lands (R155, R158, R400). -/

/-- The path MTU of an endpoint: the negotiated one, at most 4,096 (R400). -/
def State.pathMtu (s : State) (ep : Nat) : Nat :=
  match assocFind ep s.endpoints with
  | some e => e.mtu
  | none => 4096
/-- The most bytes that one return can write, or one packet carry (R158, R400). -/
def State.landLimit (s : State) (t : Transfer) : Nat := min (if t.dsp = 5 then s.pathMtu t.ep else 64) (t.len - t.front)
/-- How many of n held bytes from the front can go on: whole packets to a remote endpoint, whole aligned words to the weight buffer
unless the transfer ends (R158, R293, R400). -/
def State.landable (s : State) (t : Transfer) (n : Nat) : Nat :=
  if t.dsp = 5 then (if n = s.landLimit t then n else 0)
  else if t.dsp = 4 ∧ t.front + n < t.len then n - min n ((t.dst + t.front + n) % 8)
  else n

/-- The offset, in the memory of core i of a cluster, of the first byte there at or after a cluster-interleaved address (R149). -/
def clusterOffset (i a : Nat) : Nat := a / 256 * 8 + min 8 (a % 256 - 8 * i)
/-- The places of a range of a space as physical ranges; a page that does not translate now has none. -/
def State.rangePlaces (s : State) (t : Transfer) (sp a len : Nat) : List (Nat × Nat) :=
  match sp with
  | 1 => [(window (globalCore t.core) + a, len)]
  | 2 => (List.range 32).map fun i =>
    (window (globalCore t.core / 32 * 32 + i) + clusterOffset i a, clusterOffset i (a + len) - clusterOffset i a)
  | 3 => [(a, len)]
  | 0 => (List.range ((a + len + 65535) / 65536 - a / 65536)).filterMap fun i =>
    let lo := max a ((a / 65536 + i) * 65536)
    (s.peekVa t.issuer lo .load).map fun pa => (pa, min (a + len) ((a / 65536 + i + 1) * 65536) - lo)
  | _ => []
/-- The places of a transfer's source. -/
def State.sourcePlaces (s : State) (t : Transfer) : List (Nat × Nat) :=
  match t.perm with
  | none => s.rangePlaces t t.ssp t.src t.len
  | some c =>
    let n := Transfer.permBytes c
    (List.range (t.len / n)).flatMap fun e => s.rangePlaces t 0 (t.source (n * e)).2 n
/-- Whether a transfer's source and destination share bytes of memory (R164). -/
def State.selfOverlaps (s : State) (t : Transfer) : Bool :=
  let ds := (s.rangePlaces t t.dsp t.dst t.len).filter fun p => p.2 != 0
  (s.sourcePlaces t).any fun p => p.2 != 0 && ds.any fun q => overlap p.1 p.2 q.1 q.2

/-- Writes byte k of a transfer and advances the watermark (R158, R164). -/
def landByte (tile ch : Nat) (t : Transfer) (mine : List Nat) (k : Nat) (b : Byte) : EAct Unit := do
  xWrite tile ch t mine { lo := t.dst, n := t.len } t.dsp (t.dst + k) b
  modify fun s => s.modTransfer tile ch t.seq fun y => { y with written := k + 1 }
/-- Writes bytes of the weight buffer from byte k on, aligned word by aligned word (R158, R266). -/
def landWords (tile ch : Nat) (t : Transfer) (mine : List Nat) : (fuel k : Nat) → List Byte → EAct Unit
  | 0, _, _ => pure ()
  | _, _, [] => pure ()
  | fuel + 1, k, bs => do
    let n := min bs.length (8 - (t.dst + k) % 8)
    eWeightWrite (t.core / 8) mine t.dst t.len (t.dst + k) (bs.take n)
    modify fun s => s.modTransfer tile ch t.seq fun y => { y with written := k + n }
    landWords tile ch t mine fuel (k + n) (bs.drop n)
/-- Sends a packet of at most the path MTU to a remote destination (R400, R405). -/
def sendPacket (tile ch : Nat) (t : Transfer) (bs : List Byte) : EAct Unit :=
  modify fun s => { s.modTransfer tile ch t.seq fun y => { y with unacked := y.unacked ++ [bs.length] } with
    sent := s.sent ++ [.write t.ep (t.dst + t.front) bs] }
/-- Held bytes go on from the front, in ascending order: written, or sent as a packet. -/
def landHeld (tile ch : Nat) (t : Transfer) (mine : List Nat) (bs : List Byte) : EAct Unit :=
  if t.dsp = 5 then sendPacket tile ch t bs
  else if t.dsp = 4 then landWords tile ch t mine bs.length t.front bs
  else seqE (bs.mapIdx fun i b => landByte tile ch t mine (t.front + i) b)
/-- Where source and destination overlap, each of the next n bytes is read and then written (R164). -/
def landBytewise (tile ch : Nat) (t : Transfer) (mine : List Nat) (n : Nat) : EAct Unit :=
  seqE ((List.range n).map fun i => do
    let k := t.front + i
    let b ← xRead t mine (t.source k).1 (t.source k).2
    landByte tile ch t mine k b)

/-- Reads source bytes up to the first that cannot be read. -/
def readRun (t : Transfer) (mine : List Nat) : List Nat → State → State × List Byte × Option EStop
  | [], s => (s, [], none)
  | k :: ks, s => match (xRead t mine (t.source k).1 (t.source k).2).run' s with
    | (s, .ok b) =>
      let r := readRun t mine ks s
      (r.1, b :: r.2.1, r.2.2)
    | (s, .error e) => (s, [], some e)
/-- The bytes from byte k to the end of its request return and are held; and why the next one did not, if so (R155). -/
def State.fillStore (s : State) (tile ch : Nat) (t : Transfer) (mine : List Nat) (k : Nat) : State × Option EStop :=
  let r := readRun t mine ((List.range (t.chunkEnd k - k)).map (k + ·)) s
  let held := assocGet [] (t.chunk k) t.early
  (r.1.modTransfer tile ch t.seq fun y => { y with early := assocSet (t.chunk k) (held ++ r.2.1) y.early }, r.2.2)
/-- Requests whose bytes have all gone on leave the reorder store. -/
def Transfer.trim (t : Transfer) : Transfer := { t with early := t.early.filter fun e => decide (t.front < t.chunkEnd e.1) }
/-- Ends a transfer at a fault: it completes, FLT is set, and FCH and the cause are recorded (R171). -/
def State.failTransfer (s : State) (tile ch : Nat) (t : Transfer) (c : Cause) : State :=
  (s.endTransfer tile ch t).holdFault t.slot 1#2 { code := c.code, addr := c.tval, seq := t.seq } fun th =>
    { th with cstat := setField th.cstat 9 6 ch }

/-- What becomes of a channel's action: a wait, an end, or a freeze with a report (R159, R171, R389). -/
def State.afterTransfer (tile ch : Nat) (t : Transfer) : State × Except EStop Unit → State
  | (s, .ok _) => s
  | (s, .error .blocked) => s
  | (s, .error (.fault c)) =>
    if c.violation then
      let f : HeldFault := { code := c.code, addr := c.tval, seq := t.seq }
      (s.modTransfer tile ch t.seq fun y => { y with frozen := some f }).reportCommand t.slot 1 ch f
    else s.failTransfer tile ch t c

/-- The transfer a channel is performing, once it has started and while it is not frozen, complete or stopped. -/
def State.performing (s : State) (tile ch : Nat) : Option Transfer :=
  match ((s.tile tile).chan ch).transfers with
  | t :: _ => if t.started && t.frozen.isNone && !t.over then some t else none
  | [] => none
/-- The transfer that has requests on a channel's links: the one that has begun, frozen or stopped though it may be (R169, R405). -/
def State.onLinks (s : State) (tile ch : Nat) : Option Transfer :=
  match ((s.tile tile).chan ch).transfers with
  | t :: _ => if t.started && !t.finishing then some t else none
  | [] => none
/-- The numbers of a channel's transfers. -/
def State.chanSeqs (s : State) (tile ch : Nat) : List Nat := ((s.tile tile).chan ch).transfers.map (·.seq)

/-- TRANSFER_START: the transfer at the head of its channel begins, once no join holds it and its thread's earlier stores
have performed (R164, R304). -/
def execTransferStart (tile ch : Nat) (s : State) : Host.Outcome State Fault Refusal :=
  .next (match ((s.tile tile).chan ch).transfers with
    | t :: _ =>
      if t.started || s.joinHeld t.slot t.seq (16 + ch) || !s.storesBefore t.slot t.seq then s
      else
        let s := s.modTransfer tile ch t.seq fun y => { y with started := true, bytewise := t.stream.isNone && s.selfOverlaps t }
        if t.ssp = 5 then { s with sent := s.sent ++ [.read t.ep t.src t.len] } else s
    | [] => s)

/-- The bytes that a transfer has at its front: delivered by an SGATH, or held in the reorder store. -/
def State.atFront (s : State) (t : Transfer) : List Byte :=
  let n := s.landLimit t
  if t.ssp = 9 then (t.feed.drop t.front).take n else t.ready n t.front n

/-- Held bytes of the current transfer go on from its front; with none that can, a fault met at the front byte acts (R158, R164,
R171). -/
def State.landFront (s : State) (tile ch : Nat) (mine : List Nat) (stop : Option (Nat × EStop)) : State :=
  match s.performing tile ch with
  | none => s
  | some t =>
    let bs := s.atFront t
    let n := s.landable t bs.length
    if 0 < n then
      (State.afterTransfer tile ch t ((landHeld tile ch t mine (bs.take n)).run' s)).modTransfer tile ch t.seq Transfer.trim
    else match stop with
      | some (k, e) => if k = t.front + bs.length then State.afterTransfer tile ch t (s, .error e) else s
      | none => s

/-- LINE_RETURN: the data of one of the channel's outstanding requests return, in any order, and are held in the reorder store; the
bytes held at the front go on, at most 64 of them, or one packet (R155, R158, R164, R405; log 54). Where source and destination
overlap, bytes are read and written one by one (R164). To a stopped transfer only the RDMA READ that it has sent still returns, and nothing goes
on (R169). -/
def execLineReturn (tile ch : Nat) (s : State) : Host.Outcome State Fault Refusal :=
  .next (match s.onLinks tile ch with
    | none => s
    | some t =>
      if t.stream.isSome || t.frozen.isSome then s
      else if t.stopped.isSome then
        match if t.awaitsRead then t.missing t.len t.front else [] with
        | k :: _ => (s.fillStore tile ch t (s.chanSeqs tile ch) k).1
        | [] => s
      else
        let mine := s.chanSeqs tile ch
        if t.bytewise then State.afterTransfer tile ch t ((landBytewise tile ch t mine (s.landLimit t)).run' s)
        else
          let lands := decide (0 < s.landable t (s.atFront t).length)
          let asks := if t.ssp = 9 then [] else t.missing 256 t.front
          match (if lands then [none] else []) ++ asks.map some with
          | [] => s
          | first :: others =>
            let c : Nat × State := if others.isEmpty then (0, s) else s.choose (others.length + 1)
            match (first :: others).getD c.1 none with
            | none => c.2.landFront tile ch mine none
            | some k =>
              let r := c.2.fillStore tile ch t mine k
              r.1.landFront tile ch mine (r.2.map fun e => (((r.1.performing tile ch).map fun y => k + (y.heldFrom k).length).getD k, e)))

/-- Ends the remote transfer that a channel performs, as a fault of cause 1.7 at the remote address; a stopped one has no request
outstanding any more (R169, R405). -/
def State.failRemote (s : State) (tile ch : Nat) : State :=
  match s.onLinks tile ch with
  | some t =>
    if t.stopped.isSome then s.modTransfer tile ch t.seq fun y => { y with unacked := [], started := false }
    else if t.dsp = 5 ∨ t.ssp = 5 then
      s.failTransfer tile ch t (fault1 7 (BitVec.ofNat 64 ((if t.dsp = 5 then t.dst else t.src) + t.written)))
    else s
  | none => s

/-- REMOTE_WRITE_ACK: the oldest packet's bytes land; a NAK ends the transfer (R405). -/
def execRemoteWriteAck (tile ch : Nat) (nak : Bool) (s : State) : Host.Outcome State Fault Refusal :=
  .next (match s.onLinks tile ch with
    | some t =>
      (match t.unacked with
        | n :: rest =>
          if nak then s.failRemote tile ch
          else s.modTransfer tile ch t.seq fun y => { y with written := y.written + n, unacked := rest }
        | [] => if nak && t.ssp == 5 then s.failRemote tile ch else s)
    | none => s)

/-- RDMA_RETRIES_EXHAUSTED (R405). -/
def execRdmaRetriesExhausted (tile ch : Nat) (s : State) : Host.Outcome State Fault Refusal := .next (s.failRemote tile ch)

/-- TRANSFER_COMPLETE: every byte has landed; PEND falls, and a handle or follow-on is still to be placed (R164, R167,
R168). -/
def execTransferComplete (tile ch : Nat) (s : State) : Host.Outcome State Fault Refusal :=
  .next (match s.performing tile ch with
    | some t =>
      if t.stream.isSome || t.written != t.len then s
      else
        let s := s.sampleLatency t.core 2 none
        if t.push || t.follow.isSome then
          let s := s.modTransfer tile ch t.seq fun y => { y with finishing := true }
          let s := s.setChan tile ch { (s.tile tile).chan ch with lastEnd := BitVec.ofNat 64 (t.dst + t.len) }
          s.modThread t.slot fun th => th.pendDown 1#2
        else s.endTransfer tile ch t
    | none => s)

/-- Drops the head of a channel, which has nothing left to do. -/
def State.dropHead (s : State) (tile ch : Nat) : State :=
  let c := (s.tile tile).chan ch
  s.setChan tile ch { c with transfers := c.transfers.tail }

/-- The handle word of a transfer (R157). -/
def Transfer.handle (t : Transfer) : Word := BitVec.ofNat 64 (t.len % 2 ^ 24 * 2 ^ 40 + t.dst % 2 ^ 40)

/-- HANDLE_PUSH; with the queue freed there is nothing to push to, and the transfer stays (R157, R164, R182; log 99). -/
def execHandlePush (tile ch : Nat) (s : State) : Host.Outcome State Fault Refusal :=
  .next (match ((s.tile tile).chan ch).transfers with
    | t :: _ =>
      if t.finishing && t.push then
        match s.queue t.qid with
        | some q =>
          if q.canPush then
            let s := { s with queues := assocSet t.qid.toNat (q.push t.handle) s.queues }
            if t.follow.isSome then s.modTransfer tile ch t.seq fun y => { y with push := false } else s.dropHead tile ch
          else s
        | none => s
      else s
    | [] => s)

/-- FOLLOW_ON_PLACEMENT: the command enters the issuing core's matrix queue once it has room (R165, R275). -/
def execFollowOnPlacement (tile ch : Nat) (s : State) : Host.Outcome State Fault Refusal :=
  .next (match ((s.tile tile).chan ch).transfers with
    | t :: _ =>
      if t.finishing && !t.push then
        match t.follow with
        | some c =>
          if (s.core t.core).mq.length < 16 then
            (s.setCore t.core { s.core t.core with mq := (s.core t.core).mq ++ [{ c with slot := t.slot }] }).dropHead tile ch
          else s
        | none => s
      else s
    | [] => s)

/-! Streams (R175, R176). -/

/-- The address of a pattern's element (R174). -/
def Stream.address (x : Stream) (n : Nat) : Nat :=
  let c0 := wfield x.pat 127 112 + 1
  let c1 := wfield x.pat 143 128 + 1
  let i0 := n % c0
  let i1 := n / c0 % c1
  let i2 := n / c0 / c1
  (((wfield x.pat 63 0 : Nat) + i2 * sfield x.pat 255 224 + i1 * sfield x.pat 223 192 + i0 * sfield x.pat 191 160 : Int) % 2 ^ 64).toNat

/-- The stream a channel performs, with its transfer. While the thread is saved, the channel keeps an input's ring filled and drains
what has been pushed (R172, R176). -/
def State.streaming (s : State) (tile ch : Nat) : Option (Transfer × Stream × BitVec 3) :=
  match s.performing tile ch with
  | some t => t.stream.bind fun r =>
      (get8 (s.thread t.slot).streams (BitVec.ofNat 3 r)).map fun x => (t, x, BitVec.ofNat 3 r)
  | none => none

/-- The own offset of the ring place of element n. -/
def Stream.ringAt (x : Stream) (n : Nat) : Nat := x.ring + n * x.esize % x.size
/-- Notes that a stream's channel has moved one more element. -/
def State.streamMoved (s : State) (tile ch : Nat) (t : Transfer) (r : BitVec 3) (x : Stream) : State :=
  (s.modThread t.slot fun th => { th with streams := set8 th.streams r (some { x with moved := x.moved + 1 }) }).modTransfer tile ch t.seq
    fun y => { y with written := y.written + x.esize }

/-- STREAM_REFILL: the next element of an input stream enters the ring, if it has room (R175). -/
def execStreamRefill (tile ch : Nat) (s : State) : Host.Outcome State Fault Refusal :=
  .next (match s.streaming tile ch with
    | some (t, x, r) =>
      if x.output || decide (x.total ≤ x.moved) || decide (x.capacity ≤ x.moved - x.used) then s
      else
        let mine := s.chanSeqs tile ch
        State.afterTransfer tile ch t ((do
          seqE ((List.range x.esize).map fun i => do
            let b ← xRead t mine 0 (x.address x.moved + i)
            xWrite tile ch t mine { lo := x.ringAt x.moved, n := x.esize } 1 (x.ringAt x.moved + i) b)
          modify fun s => s.streamMoved tile ch t r x : EAct Unit).run' s)
    | none => s)

/-- The value a register holds after its output stream has ended, which the manual does not give: a free value (R176;
log 25). -/
def State.freeStreamRegister (s : State) (slot : Nat) (r : BitVec 3) : State :=
  let n := s.free
  { s with free := n + 1 }.modThread slot fun th =>
    if r.toNat < 4 then { th with g := regSet th.g (BitVec.ofNat 5 (24 + r.toNat)) (Config.freeBits 64 n) }
    else { th with v := regSet th.v (BitVec.ofNat 5 (24 + r.toNat)) (Config.freeBits 2048 n) }

/-- STREAM_DRAIN: the next pushed element of an output stream goes to its address; after the last one the stream ends
(R175, R176). -/
def execStreamDrain (tile ch : Nat) (s : State) : Host.Outcome State Fault Refusal :=
  .next (match s.streaming tile ch with
    | some (t, x, r) =>
      if !x.output || decide (x.used ≤ x.moved) then s
      else
        let mine := s.chanSeqs tile ch
        State.afterTransfer tile ch t ((do
          seqE ((List.range x.esize).map fun i => do
            let b ← xRead t mine 1 (x.ringAt x.moved + i)
            xWrite tile ch t mine { lo := x.address x.moved, n := x.esize } 0 (x.address x.moved + i) b)
          modify fun s =>
            if x.moved + 1 = x.total then (s.removeTransfer tile ch t).freeStreamRegister t.slot r
            else s.streamMoved tile ch t r x : EAct Unit).run' s)
    | none => s)

end Sys2Proof.Machine
end

