-- ==== Sys2Proof/Machine/Queue.lean ====
section
/-! DEFINITION. Hardware queues: QNEW, QBIND, QUNBIND, QCNT, QTRY and the arrivals between dies (R177 to R183). -/

namespace Sys2Proof.Machine

/-- The queue an instruction names: OPERAND for other bits of g[a], QSTATE for no queue, QPERM for another ASID (R177,
R178, R179). -/
def namedQueue (x : Word) : Act HwQueue := do
  require (decide (x.toNat < 2048)) 4 5 x
  let s ← get
  match assocFind x.toNat s.queues with
  | none => fault 4 26 x
  | some q => if q.asid = wfield s.th.asid 13 0 then return q else violation 4 25 x

/-- The identifiers of a die's free descriptors for a queue, inter-die or not (R177). -/
def State.freeQueues (s : State) (die : Nat) (inter : Bool) : List Nat :=
  let used := s.queues.filter fun q => q.1 / 512 == die
  if inter && decide (64 ≤ (used.filter fun q => !q.2.local_).length) then []
  else (List.range 512).filterMap fun i => if used.any fun q => q.1 % 512 == i then none else some (512 * die + i)

/-- QNEW: an empty queue on the consumer's die, in one of its free descriptors; which one is not defined (R179; log 4). -/
def execQnew (d a b : BitVec 5) (c : BitVec 3) (s : State) : Host.Outcome State Fault Refusal :=
  done (do
    useRegs [a, b] [d]
    let s ← get
    let x := s.rd a
    let y := s.rd b
    require (decide (x.toNat < 2304) && decide (y.toNat < 2304)) 4 5 x
    escalate
    let s ← get
    let inter := x.toNat / 576 != y.toNat / 576
    match s.freeQueues (x.toNat / 576) inter with
    | [] =>
      if c = 0#3 then fault 4 27 x
      else
        set (s.setQ c false)
        finish 4 [a, b] []
    | ids =>
      let (i, s) := s.choose ids.length
      let id := ids.getD i 0
      let q : HwQueue := { asid := wfield s.th.asid 13 0, cons := x.toNat, prod := y.toNat, words := [], transit := []
                           credits := 256, returning := 0, consBound := none, prodBound := none }
      set (({ s with queues := assocSet id q s.queues } : State).setQ c true)
      finish 4 [a, b] [(d, BitVec.ofNat 64 id)]) s

/-- QBIND; a source register that is bound is read before the new binding (R179, R180). -/
def execQbind (a b : BitVec 5) (s : State) : Host.Outcome State Fault Refusal :=
  done (do
    useRegs [a, b] []
    let s ← get
    let x := s.rd a
    let y := s.rd b
    require (decide (y.toNat < 8)) 4 5 x
    let q ← namedQueue x
    escalate
    let s ← get
    let prod := y.getLsbD 2
    let n : BitVec 2 := y.truncate 2
    let here := globalCore (coreOf s.cur)
    require (here == (if prod then q.prod else q.cons) && (if prod then q.prodBound else q.consBound).isNone
      && (get4 s.th.bind n).isNone) 4 26 x
    modify fun s => s.popSources [a, b]
    modify fun s =>
      let q := (assocFind x.toNat s.queues).getD q
      { s with queues := assocSet x.toNat (if prod then { q with prodBound := some s.cur } else { q with consBound := some s.cur }) s.queues }
    modTh fun t => { t with bind := set4 t.bind n (some { queue := x.truncate 11, producer := prod }) }
    finish 4 [] []) s

/-- Unbinds one end of a queue. -/
def HwQueue.unbind (q : HwQueue) (prod : Bool) : HwQueue :=
  if prod then { q with prodBound := none } else { q with consBound := none }

/-- QUNBIND: the register leaves the queue and becomes 0; with FREE the queue's words are discarded and its descriptor is
free (R179). -/
def execQunbind (a b : BitVec 5) (s : State) : Host.Outcome State Fault Refusal :=
  done (do
    useRegs [a, b] []
    let s ← get
    let x := s.rd a
    let y := s.rd b
    require (decide (y.toNat < 16)) 4 5 x
    let q ← namedQueue x
    escalate
    let s ← get
    let prod := y.getLsbD 2
    let n : BitVec 2 := y.truncate 2
    require (get4 s.th.bind n == some { queue := x.truncate 11, producer := prod }) 4 26 x
    require (!(y.getLsbD 3 && (if prod then q.consBound else q.prodBound).isSome)) 4 26 x
    let srcs := [a, b]
    modify fun s => s.popSources srcs
    modify fun s =>
      let q := ((assocFind x.toNat s.queues).getD q).unbind prod
      { s with queues := if y.getLsbD 3 then assocErase x.toNat s.queues else assocSet x.toNat q s.queues
               th := { s.th with bind := set4 s.th.bind n none, g := regSet s.th.g (7#3 ++ n) 0#64 } }
    finish 4 [] []) s

/-- Unbinds every queue end a thread holds; the queues' words stay (R183). -/
def State.unbindAll (s : State) (h : Nat) : State :=
  let s : State := { s with queues := s.queues.map fun q =>
    (q.1, { q.2 with consBound := if q.2.consBound = some h then none else q.2.consBound
                     prodBound := if q.2.prodBound = some h then none else q.2.prodBound }) }
  s.modThread h fun t => { t with bind := Vector.replicate 4 none }

/-- QCNT (R181). -/
def execQcnt (d a : BitVec 5) (s : State) : Host.Outcome State Fault Refusal :=
  done (do
    useRegs [a] [d]
    let s ← get
    let q ← namedQueue (s.rd a)
    escalate
    finish 4 [a] [(d, BitVec.ofNat 64 q.words.length)]) s

/-- QTRY: pops a word without waiting (R181). -/
def execQtry (d a : BitVec 5) (c : BitVec 3) (s : State) : Host.Outcome State Fault Refusal :=
  done (do
    useRegs [a] []
    let s ← get
    let x := s.rd a
    let q ← namedQueue x
    escalate
    let s ← get
    require (globalCore (coreOf s.cur) == q.cons && (q.consBound.isNone || q.consBound == some s.cur)) 4 26 x
    match ((assocFind x.toNat (s.popSources [a]).queues).getD q).words with
    | [] =>
      if c = 0#3 then fault 4 29 x
      else
        set (s.setQ c false)
        finish 4 [a] []
    | w :: _ =>
      useRegs [] [d]
      modify fun s => ({ s with queues := assocSet x.toNat q.pop s.queues } : State).setQ c true
      finish 4 [a] [(d, w)]) s

/-- QUEUE_PUSH_ARRIVAL: the oldest word on its way between dies enters the queue (R182). -/
def execQueuePushArrival (queue : Nat) (s : State) : Host.Outcome State Fault Refusal :=
  .next (match assocFind queue s.queues with
    | some q => (match q.transit with
      | w :: ws => { s with queues := assocSet queue { q with words := q.words ++ [w], transit := ws } s.queues }
      | [] => s)
    | none => s)

/-- QUEUE_CREDIT_RETURN: a credit that a pop gave back reaches the producer (R182). -/
def execQueueCreditReturn (queue : Nat) (s : State) : Host.Outcome State Fault Refusal :=
  .next (match assocFind queue s.queues with
    | some q =>
      if 0 < q.returning then { s with queues := assocSet queue { q with returning := q.returning - 1, credits := q.credits + 1 } s.queues }
      else s
    | none => s)

end Sys2Proof.Machine
end

