-- ==== Sys2Proof/Machine/Sched.lean ====
section
/-! DEFINITION. Launch queues, tile sets, shares and the owners of slots (R355, R359, R368 to R371), the error logs (R383),
and what the end of work leaves (R363, R364). -/

namespace Sys2Proof.Machine

/-! Free words and error records. -/

/-- A free word, for a value the manual leaves open (log 5). -/
def State.freeWord (s : State) : Word × State := (Config.freeBits 64 s.free, { s with free := s.free + 1 })

/-- Makes an error record on a die: it targets the thread that ERRTGT names now, and is dropped and counted at 64 (R383). -/
def State.logError (s : State) (die codeNo : Nat) (tval : Word) : State :=
  s.modDie die fun d =>
    if 64 ≤ d.errlog.length then { d with errdrop := min (d.errdrop + 1) 65535 }
    else
      let h := s.forwarded (wfield d.errtgt 14 0)
      let target := if d.errtgt.getLsbD 15 && (s.thread h).kind != .empty then some h else none
      { d with errlog := d.errlog ++ [{ code := codeNo, tval := tval, target := target }] }

/-! Launch queues and tile sets (R329, R355, R359). -/

/-- A launch queue. -/
def State.lqueue (s : State) (q : Nat) : Option LQueue := assocFind q s.lqueues
/-- Changes a launch queue. -/
def State.modLqueue (s : State) (q : Nat) (f : LQueue → LQueue) : State :=
  match s.lqueue q with
  | some x => { s with lqueues := assocSet q (f x) s.lqueues }
  | none => s
/-- The keys of a queue's tile set, in ascending order (R355). -/
def State.tileSet (s : State) (q : Nat) : List Nat :=
  match s.lqueue q with
  | some x => (List.range x.nt).map fun i => tileKey (x.first + i)
  | none => []

/-- The tile of a set that a hint hashes to (R329). -/
def hashTile (set : List Nat) (hint : Nat) : Nat := set.getD (hint * 0x9E3779B1 % 2 ^ 32 * set.length / 2 ^ 32) 0

/-- The tile of a set that held the fewest untaken tasks at the last sample: among equals the issuing tile if it is one of
them, and otherwise the lowest number (R329, R359). -/
def State.leastLoaded (s : State) (set : List Nat) (mine : Option Nat) : Nat :=
  let best := set.foldl (fun n t => min n (s.tile t).untakenSample) ((s.tile (set.headD 0)).untakenSample)
  let l := set.filter fun t => (s.tile t).untakenSample == best
  match mine with
  | some t => if l.contains t then t else l.headD 0
  | none => l.headD 0

/-! Demand and shares (R369). -/

/-- The launch queue whose work a task is: its domain's owner queue for an ordered task (R332, R368). -/
def State.taskQueue (s : State) (t : Task) : Nat := if t.ordered then (s.domain t.dom).queue else t.queue

/-- Whether a queue has demand on a tile (R369). -/
def State.hasDemand (s : State) (tile q : Nat) : Bool :=
  s.launches.any (fun l => l.2.queue == q && (l.2.held.any (·.tile == tile) || l.2.starting.any fun h => tileOf h == tile)) ||
  ((s.tile tile).tasks ++ (s.tile tile).requeued).any (fun t => s.taskQueue t == q) || (s.tile tile).spilled.any (fun t => s.taskQueue t.2.2 == q) ||
  ((s.cur, s.th) :: s.threads).any (fun t =>
    t.2.kind != .empty && t.2.lqV && t.2.lqQueue.toNat == q && tileOf t.1 == tile && t.2.park.all fun p => p.sched && p.image.isSome) ||
  s.migrating.any fun m => m.2.1 == tile && (s.thread m.2.2).lqQueue.toNat == q

/-- The queues with demand on a tile, in ascending order. -/
def State.demandOn (s : State) (tile : Nat) : List Nat := (s.lqueues.map (·.1)).filter (s.hasDemand tile)

/-- Inserts into a list by a test of what comes before. -/
def insertBy (before : α → α → Bool) (x : α) : List α → List α
  | [] => [x]
  | y :: l => if before x y then x :: y :: l else y :: insertBy before x l
/-- Sorts a list by a test of what comes before; equal elements keep their order. -/
def sortBy (before : α → α → Bool) (l : List α) : List α := l.foldl (fun r x => insertBy before x r) []

/-- The shares of a list of queues: the floor of 64 × weight / W each, and one more for the largest remainders; equal
remainders go by queue number counted from the boundary's number (R369). -/
def State.sharesOf (s : State) (qs : List Nat) (boundary : Nat) : List (Nat × Nat) :=
  let weight (q : Nat) : Nat := match s.lqueue q with
    | some x => x.weight
    | none => 0
  let total := qs.foldl (fun n q => n + weight q) 0
  if total = 0 then []
  else
    let rest := 64 - qs.foldl (fun n q => n + 64 * weight q / total) 0
    let rem (q : Nat) := 64 * weight q % total
    let order (q : Nat) := (q + 4096 - boundary % 4096) % 4096
    let lucky := (sortBy (fun x y => decide (rem y < rem x) || (rem x == rem y && decide (order x < order y))) qs).take rest
    qs.map fun q => (q, 64 * weight q / total + (if lucky.contains q then 1 else 0))

/-- The slots of a tile that a queue owns. -/
def State.ownedCount (s : State) (tile q : Nat) : Nat := ((tileSlots tile).filter fun h => (s.thread h).ownedBy q).length
/-- A queue's share of a tile's slots. -/
def Tile.share (t : Tile) (q : Nat) : Nat := assocGet 0 q t.shares
/-- The first queue that is below its share of a tile. -/
def State.needy (s : State) (tile : Nat) : Option Nat :=
  ((s.tile tile).shares.find? fun x => decide (s.ownedCount tile x.1 < x.2)).map (·.1)
/-- Whether a slot's owner has more slots of its tile than its share. -/
def State.overShare (s : State) (tile h : Nat) : Bool :=
  let t := s.thread h
  t.lqV && decide ((s.tile tile).share t.lqQueue.toNat < s.ownedCount tile t.lqQueue.toNat)

/-- A free slot passes at once to a queue below its share, from no owner or from one above its share; one that a pre-emption has
freed stays with the queue of the higher-priority work (R370, R371; log 30). -/
def State.passFree (s : State) (tile h : Nat) : State :=
  if s.slotFree h && (s.thread h).halt.isNone && (!(s.thread h).lqV || s.overShare tile h) then
    match s.needy tile with
    | some q => s.modThread h fun t => t.passTo q
    | none => s
  else s

/-- Marks MOVE on a busy slot whose owner is above its share, and clears it on any other (R370). -/
def State.markMove (s : State) (tile h : Nat) : State :=
  let t := s.thread h
  let m := t.kind != .empty && s.overShare tile h
  if t.lqMove == m then s else s.modThread h fun t => { t with lqMove := m }

/-- Assigns the slots of a tile: the shares are computed anew at a boundary and when a queue gains demand (R369, R370). -/
def State.rebalance (s : State) (tile : Nat) (boundary : Bool) : State :=
  let d := s.demandOn tile
  let anew := boundary || d.any fun q => !(s.tile tile).demand.contains q
  let s := if anew then s.modTileAt tile fun t => { t with shares := s.sharesOf d (s.time / 4096), demand := d }
    else if d = (s.tile tile).demand then s else s.modTileAt tile fun t => { t with demand := d }
  let s := (tileSlots tile).foldl (fun s h => s.passFree tile h) s
  (tileSlots tile).foldl (fun s h => s.markMove tile h) s

/-- The tiles that hold anything a share is computed from. -/
def State.liveTiles (s : State) : List Nat :=
  (s.tiles.map (·.1) ++ ((s.cur :: s.threads.map (·.1)).map tileOf) ++ (s.launches.filterMap fun l => l.2.held.map (·.tile)) ++
    s.migrating.map (·.2.1)).eraseDups

/-- The tiles with a slot that is free now and was not in an earlier state, or had an owner then and has none now, assign their slots at
once: a slot freed by the end of work, a parking, a dropped forwarding entry, an abort, a failed image copy or a deleted queue passes on
(R370). -/
def State.assignFreed (s before : State) : State :=
  let freed := before.slots.filter fun h =>
    decide (h < 32768) && s.slotFree h && (!before.slotFree h || ((before.thread h).lqV && !(s.thread h).lqV))
  (freed.map tileOf).eraseDups.foldl (fun s t => s.rebalance t false) s

/-- The demand of every tile is looked at in every clk: a queue that gains demand has the shares computed anew at once, and one that has
lost it is no longer listed (R369). -/
def State.watchDemand (s : State) : State :=
  s.liveTiles.foldl (fun s t =>
    let d := s.demandOn t
    if d = (s.tile t).demand then s
    else if d.any fun q => !(s.tile t).demand.contains q then s.rebalance t false
    else s.modTileAt t fun x => { x with demand := d }) s

/-- MIGRATION_ARRIVAL: the context that left a handle resumes on a slot of the home tile that its queue owns, and the
forwarding table of the die it left names its new handle; until there is such a slot it is demand of its queue on that tile, whose
slots are assigned at once (R369, R375, R376). -/
def execMigrationArrival (slot : Nat) (s : State) : Host.Outcome State Fault Refusal :=
  event (match assocFind slot s.migrating with
    | some (tile, key) =>
      let s := s.rebalance tile false
      if (s.thread key).resumable then
        match (s.admitting (tileSlots tile) (s.thread key).lqQueue.toNat).head? with
        | some h => { s.resume key h with migrating := assocErase slot s.migrating }
        | none => s
      else s
    | none => s)

/-- A slot that a pre-emption has freed for higher-priority work, marked in its halt field, is assigned like any other free slot from
the next boundary on (R371; log 30). -/
def Thread.unmark (t : Thread) : Thread := if t.kind = .empty then { t with halt := none } else t

/-- MBUDGET at a rotation boundary: CHG0 and CHG1 clear (R284). -/
def Tile.newWindow (t : Tile) : Tile := { t with mbudget := t.mbudget &&& ~~~(bitsMask 47 16) }

/-- ROTATION_BOUNDARY: QSET's changes take effect, the matrix budgets begin a new window, and every tile computes its shares and assigns its slots (R284, R369,
R370, R404). -/
def execRotationBoundary (s : State) : Host.Outcome State Fault Refusal :=
  let s := { s with lqueues := s.lqueues.map fun (q : Nat × LQueue) => match q.2.pending with
    | some (w, p) => (q.1, { q.2 with weight := w, maxPrio := p, pending := none })
    | none => q }
  let s := { s with tiles := s.tiles.map fun (t : Nat × Tile) => (t.1, t.2.newWindow)
                    th := s.th.unmark, threads := s.threads.map fun (t : Nat × Thread) => (t.1, t.2.unmark) }
  event (s.liveTiles.foldl (fun s t => s.rebalance t true) s)

/-- Whether a slot stands at a yield point of its work that has not passed: MWAIT or GBAR with MOVE set (R370). -/
def Thread.yields (t : Thread) : Bool := t.lqMove && t.park.isNone && (t.wait == some .mwait || t.wait == some .gbar) && t.posted.isNone

/-- SLOT_HALT: a slot with a halt requested, or one that yields at MWAIT or GBAR with MOVE set, is captured into a free
frame and passes on (R370, R394). Without a frame nothing is captured: a request is dropped, and a yield waits for the thread's next
yield point. A slot that a pre-emption has freed is marked for the higher-priority work (R371). -/
def execSlotHalt (slot : Nat) (s : State) : Host.Outcome State Fault Refusal :=
  let t := s.thread slot
  event (match t.halt.or (if t.yields then s.needy (tileOf slot) else none) with
    | none => s
    | some q =>
      if t.kind == .empty || t.park.isSome then s
      else match s.freeFrames (tileOf slot) with
        | [] => s.modThread slot fun t => if t.halt.isSome then { t with halt := none } else { t with posted := some 0 }
        | fs =>
          let (i, s) := s.choose fs.length
          ((s.saveContext slot (fs.getD i 0) none true t.halt.isNone).modThread slot fun u => { u.passTo q with halt := t.halt }).rebalance
            (tileOf slot) false)

/-! Priority (R371). -/

/-- The work held for a tile: the priority, the queue and the slots it can take of each held piece whose slot is not chosen yet, untaken task, context that the
scheduler saved, which resumes on its own core, and migrated context (R371, R375). -/
def State.heldWork (s : State) (tile : Nat) : List (Nat × Nat × List Nat) :=
  let all := tileSlots tile
  s.launches.filterMap (fun l => match l.2.held with
    | some p => if p.tile = tile ∧ l.2.starting.isNone then some (l.2.prio, l.2.queue, all) else none
    | none => none) ++
  ((s.tile tile).tasks ++ (s.tile tile).requeued).map (fun t => (t.prio, s.taskQueue t, all)) ++
  (s.threads.filter fun t => tileOf t.1 == tile && t.2.park.any fun p => p.sched && p.image.isSome).map
    (fun t => (t.2.prio, t.2.lqQueue.toNat, coreSlots (coreOf t.1))) ++
  (s.migrating.filter fun m => m.2.1 == tile).map fun m => ((s.thread m.2.2).prio, (s.thread m.2.2).lqQueue.toNat, all)

/-- The queue of held work of a priority that no free slot it can take admits, with those slots. -/
def State.starved (s : State) (tile prio : Nat) : Option (Nat × List Nat) :=
  ((s.heldWork tile).find? fun w => w.1 == prio && (s.admitting w.2.2 w.2.1).isEmpty).map (·.2)

/-- Whether a slot's task is speculative. -/
def State.specSlot (s : State) (h : Nat) : Bool := (s.focus h).speculative

/-- The slot of a list that a pre-emption takes: of the work of the lowest priority below the held work's, the one started most
recently; without a free frame only speculative tasks can be taken (R371, R394). -/
def State.preemptVictim (s : State) (tile prio : Nat) (slots : List Nat) : Option Nat :=
  let frame := !(s.freeFrames tile).isEmpty
  let l := slots.filter fun h =>
    let t := s.thread h
    t.kind != .empty && decide (t.prio < prio) && t.halt.isNone && (frame || s.specSlot h)
  l.foldl (fun r h => match r with
    | none => some h
    | some v =>
      let a := s.thread h
      let b := s.thread v
      if a.prio < b.prio ∨ (a.prio = b.prio ∧ b.started < a.started) then some h else r) none

/-- PREEMPTION_REQUEST: held work of a priority without a free slot takes a slot: a speculative task is aborted, and any other
work is to be halted (R371, R394). -/
def execPreemptionRequest (tile prio : Nat) (s : State) : Host.Outcome State Fault Refusal :=
  event (if (tileSlots tile).any fun h => (s.thread h).kind != .empty && (s.thread h).halt.isSome then s
    else match s.starved tile prio with
      | none => s
      | some (q, slots) => match s.preemptVictim tile prio slots with
        | none => s
        | some h => match (s.thread h).entry with
          | some e =>
            if s.specSlot h then (s.abort [e]).modThread h fun t => { t.passTo q with halt := some q }
            else s.modThread h fun t => { t with halt := some q }
          | none => s.modThread h fun t => { t with halt := some q })

/-! The end of work (R363, R364). -/

/-- Changes a launch. -/
def State.modLaunch (s : State) (n : Nat) (f : Launch → Launch) : State :=
  match assocFind n s.launches with
  | some l => { s with launches := assocSet n (f l) s.launches }
  | none => s
/-- Records a cause and an address on a queue that holds no record (R363). -/
def State.recordQueue (s : State) (q codeNo : Nat) (addr : Word) : State :=
  s.modLqueue q fun x => match x.record with
    | none => { x with record := some (codeNo, addr) }
    | some _ => x
/-- The first instruction of a launch's first piece issues: event 10 takes a sample on its die (R415). -/
def State.firstIssue (s : State) (slot : Nat) (launch : Option Nat) : State :=
  match launch.bind fun n => (assocFind n s.launches).map fun l => (n, l) with
  | some (n, l) =>
    if l.begun then s
    else
      let (v, s) := (s.modLaunch n fun y => { y with begun := true }).choose (2 ^ 32)
      s.sampleDie (dieOf slot) 10 fun _ _ => some v
  | none => s
/-- A piece of a launch has ended. -/
def State.pieceEnded (s : State) (l : Option Nat) : State :=
  match l with
  | some n => s.modLaunch n fun l => { l with ended := l.ended + 1 }
  | none => s
/-- A piece of a launch is discarded or lost: it counts as ended with the error, and the queue records why (R363, R390,
R396). -/
def State.pieceLost (s : State) (l : Option Nat) (codeNo : Nat) (addr : Word) : State :=
  match l with
  | some n => (match assocFind n s.launches with
    | some x => ((s.pieceEnded l).modLaunch n fun y => { y with failed := true }).recordQueue x.queue codeNo addr
    | none => s)
  | none => s

/-- What every thread leaves behind when it ends: its queue ends, groups and forwarding entries (R183, R354, R364, R376). -/
def State.release (s : State) (h : Nat) : State := ((s.unbindAll h).leaveGroups h).dropForward h

end Sys2Proof.Machine
end

