-- ==== Sys2Proof/Machine/Task.lean ====
section
/-! DEFINITION. Tasks: spawns (R328, R329), the task queue with its spill area (R330), dispatch and displacement (R332,
R333), TDONE (R345, R364), the restores of an abort (R341), virtual time and commit (R325, R343, R344). -/

namespace Sys2Proof.Machine

/-! Domains (R362). -/

/-- Starts a domain with its owner queue and commit-queue limit: until the first publication it holds (t, 0) as its GVT
(R343, R362). -/
def State.startDomain (s : State) (d queue cqlim : Nat) (t : Word) : State :=
  s.setDomain d { Domain.reset with active := true, queue := queue, cqlim := cqlim, start := s.time, gvt := (t, 0#64), busy := true }

/-! Spawns (R327 to R329). -/

/-- What a spawn asks for: ordered or not, its timestamp, its hint, whether the hint picks the tile, and the tile of a
CALLAT. -/
structure SpawnForm where
  ordered : Bool
  ts : Word
  hint : Option (BitVec 32)
  g8 : Word
  at_ : Option Nat

/-- Steps 2 and 3 of R328. -/
def spawnForm (s : State) (ordered fits : Bool) (func : Word) : Act Unit := do
  require (s.th.lqV && (!ordered || s.th.tdomain.getLsbD 4)) 5 32 func
  require (!func.getLsbD 0 && wfield func 63 56 == 0 && fits) 5 5 func

/-- Steps 5 to 8 of R328, the release, and the spawn on its way to its target tile (R297, R328, R329). -/
def spawn (f : SpawnForm) (q : BitVec 3) (srcs : List (BitVec 5)) (func : Word) : Act Unit := do
  let s ← get
  let dom := wfield s.th.tdomain 3 0
  let d := s.domain dom
  if f.ordered then
    match s.myEntry with
    | some (_, _, x) =>
      require (decide (x.task.ts.toNat ≤ f.ts.toNat)) 5 33 func
      if 8 ≤ x.children.length then escalate
    | none =>
      if d.active then
        require ((s.lqueue d.queue).any fun l => l.asid == wfield s.th.asid 13 0) 5 40 func
        require (decide (d.gvt.1.toNat ≤ f.ts.toNat)) 5 34 func
  else escalate
  waitUntil .memoryReply fun s => s.th.sb.isEmpty
  if f.ordered && !d.active then modify fun s => s.startDomain dom s.th.lqQueue.toNat 128 f.ts
  let s ← get
  let queue := if f.ordered then (s.domain dom).queue else s.th.lqQueue.toNat
  let set_ := s.tileSet queue
  let tile := f.at_.getD (match f.hint with
    | some h => hashTile set_ h.toNat
    | none => s.leastLoaded set_ (some (tileOf s.cur)))
  let (n, s) := s.freshen
  let arg (i : Nat) := regGet s.th.g (BitVec.ofNat 5 (4 + i))
  let t : Task :=
    { uid := n, ordered := f.ordered, func := func, ts := f.ts, tiebreak := none, hint := f.hint, g8 := f.g8
      args := #v[arg 0, arg 1, arg 2, arg 3], dom := dom, domEn := s.th.tdomain.getLsbD 4, queue := queue, prio := s.th.prio
      launch := none, parent := s.th.task.map (·.uid), arrival := 0 }
  set (match s.myEntry with
    | some (tl, e, x) => if f.ordered then s.setEntry tl e { x with children := x.children ++ [n] } else s
    | none => s)
  sendRequest (.spawn tile t none) srcs func q

/-- All ones: no hint, or no timestamp. -/
def allOnes : Word := 0xFFFFFFFFFFFFFFFF#64

/-- TSPAWN (R327, R328). -/
def execTspawn (q : BitVec 3) (a b c : BitVec 5) (s : State) : Host.Outcome State Fault Refusal :=
  done (do
    useRegs [a, b, c] []
    let s ← get
    spawnForm s true (wfield (s.rd c) 63 32 == 0 && s.rd b != allOnes) (s.rd a)
    let hint : BitVec 32 := (s.rd c).truncate 32
    spawn { ordered := true, ts := s.rd b, hint := some hint, g8 := hint.zeroExtend 64, at_ := none } q [a, b, c] (s.rd a)) s

/-- TSPAWNN (R327, R328). -/
def execTspawnn (q : BitVec 3) (a b : BitVec 5) (s : State) : Host.Outcome State Fault Refusal :=
  done (do
    useRegs [a, b] []
    let s ← get
    spawnForm s true (s.rd b != allOnes) (s.rd a)
    spawn { ordered := true, ts := s.rd b, hint := none, g8 := allOnes, at_ := none } q [a, b] (s.rd a)) s

/-- TSPAWNU (R327, R328). -/
def execTspawnu (q : BitVec 3) (a b : BitVec 5) (s : State) : Host.Outcome State Fault Refusal :=
  done (do
    useRegs [a, b] []
    let s ← get
    let x := s.rd b
    spawnForm s false (wfield x 63 32 == 0 || x == allOnes) (s.rd a)
    spawn { ordered := false, ts := allOnes, hint := if x = allOnes then none else some (x.truncate 32), g8 := x, at_ := none }
      q [a, b] (s.rd a)) s

/-- CALLAT: the address must translate, with read permission, to an HBM frame, on whose home tile the task is queued (R328,
R329). -/
def execCallat (q : BitVec 3) (a b : BitVec 5) (s : State) : Host.Outcome State Fault Refusal :=
  done (do
    useRegs [a, b] []
    let s ← get
    let x := s.rd b
    spawnForm s false true (s.rd a)
    let l ← locateMode x 0#2 1 .load
    let s ← get
    match s.mapCheck l.pa s.th.mode .load x with
    | some c => raise c
    | none => pure ()
    require (inHbm l.pa) 5 5 (s.rd a)
    spawn { ordered := false, ts := allOnes, hint := none, g8 := x, at_ := some (homeTile l.pa) } q [a, b] (s.rd a)) s

/-! The task queue (R330). -/

/-- Whether a task spills before another: the higher timestamp, and among equals the later arrival (R330). -/
def spillsBefore (x y : Task) : Bool := decide (y.ts.toNat < x.ts.toNat) || (x.ts == y.ts && decide (y.arrival < x.arrival))

/-- Records that the spill area in use can still take: those no spilled task lies in (R330, R331). -/
def Tile.spillRoom (t : Tile) : List Nat :=
  if t.spillctl.getLsbD 0 then
    let used := (t.spilled.filter fun x => x.1 == t.spillctl).map (·.2.1)
    (List.range (wfield t.spillctl 15 4 * 1024)).filter fun i => !used.contains i
  else []

/-- Physical address of a record of a spill area (R331). -/
def spillPa (area : Word) (i : Nat) : Nat := wfield area 51 16 * 65536 + 64 * i

/-- Held tasks enter the queue as it has room (R341; log 87). -/
def Tile.admitRequeued (t : Tile) : Tile :=
  let room := 1024 - t.tasks.length
  if t.requeued.isEmpty then t else { t with tasks := t.tasks ++ t.requeued.take room, requeued := t.requeued.drop room }

/-- The untaken tasks of a tile that are not spilled: those of the queue and those held until it has room (R330; log 87). -/
def Tile.waiting (t : Tile) : List Task := t.tasks ++ t.requeued

/-- A task that arrives at a tile: it is queued, and where the queue would exceed 1,024 the 32 ordered tasks of highest
timestamp spill; none where they find no room (R330). -/
def State.enqueue (s : State) (tile : Nat) (t : Task) : Option State :=
  let (n, s) := s.freshen
  let t := { t with arrival := n }
  let x := s.tile tile
  let all := x.tasks ++ [t]
  if all.length ≤ 1024 then some (s.setTile tile { x with tasks := all })
  else
    let out := (sortBy spillsBefore (all.filter (·.ordered))).take 32
    let room := x.spillRoom
    if room.length < 32 then none
    else
      let recs := room.zip out
      let s := s.setTile tile { x with
        tasks := all.filter fun y => !(out.any fun z => z.uid == y.uid)
        spilled := x.spilled ++ recs.map fun r => (x.spillctl, r.1, r.2) }
      some (recs.foldl (fun s r => s.setBytes (spillPa x.spillctl r.1) (leBytes 64 (Config.spillRecord r.2.uid).toNat)) s)

/-- Unordered tasks untaken on a tile. -/
def Tile.unorderedCount (t : Tile) : Nat := (t.tasks.filter fun x => !x.ordered).length

/-- SPAWN_ARRIVAL: a spawned task arrives at its target tile and is queued, refused at 256 unordered ones, or finds no room
to spill (R328, R330). -/
def execSpawnArrival (slot : Nat) (s : State) : Host.Outcome State Fault Refusal :=
  event (match (s.thread slot).outstanding with
    | some o => (match o.req with
      | .spawn tile t none =>
        if s.tileStopped tile then s
        else
        let r : State × SpawnResult :=
          if !t.ordered && decide (256 ≤ (s.tile tile).unorderedCount) then (s, .refused)
          else match s.enqueue tile t with
            | some s => (s.rebalance tile false, .taken)
            | none => (s, .spillFull)
        r.1.modThread slot fun th => { th with outstanding := some { o with req := .spawn tile t (some r.2) } }
      | _ => s)
    | none => s)

/-- The answer of a spawn: a task that found no room to spill is no child, and SPILLFULL is raised at the spawn (R330). -/
def spawnAnswer (o : Outstanding) (t : Task) (r : SpawnResult) : Act Unit :=
  match r with
  | .taken => answerCond o true 5 30
  | .refused => answerCond o false 5 30
  | .spillFull => do
    modTh fun th => { th with outstanding := none, wait := none }
    modify fun s => match s.myEntry with
      | some (tl, e, x) => s.setEntry tl e { x with children := x.children.filter (· != t.uid) }
      | none => s
    fault 5 35 o.ga

/-- SPAWN_ANSWER (R328, R453). -/
def execSpawnAnswer (slot : Nat) (s : State) : Host.Outcome State Fault Refusal :=
  event (match (s.thread slot).outstanding with
    | some o => (match o.req with
      | .spawn _ t (some r) => if (s.thread slot).park.isSome then s else s.asSlot slot (spawnAnswer o t r)
      | _ => s)
    | none => s)

/-- TASK_RELOAD: below 512 untaken tasks the 32 spilled ones of lowest timestamp return, the earlier arrival first; a record
whose bytes have changed fails its check code and is discarded with 5.36 (R330; log 29). -/
def execTaskReload (tile : Nat) (s : State) : Host.Outcome State Fault Refusal :=
  let x := s.tile tile
  event (if 512 ≤ x.tasks.length || x.spilled.isEmpty then s
    else
      let back := (sortBy (fun y z => spillsBefore z.2.2 y.2.2) x.spilled).take 32
      let s := s.setTile tile { x with spilled := x.spilled.filter fun y => !(back.any fun z => z.2.2.uid == y.2.2.uid) }
      let s := back.foldl (fun s y =>
        if s.bytes (spillPa y.1 y.2.1) 64 = leBytes 64 (Config.spillRecord y.2.2.uid).toNat then
          s.modTileAt tile fun t => { t with tasks := t.tasks ++ [y.2.2] }
        else
          let (v, s) := s.freeWord
          s.logError (tile / 128) (code 5 36) v) s
      s.rebalance tile false)

/-! Dispatch (R332, R333). -/

/-- Whether a task comes before another in the order of dispatch: the lower timestamp, and among equals the earlier arrival. -/
def goesBefore (x y : Task) : Bool := decide (x.ts.toNat < y.ts.toNat) || (x.ts == y.ts && decide (x.arrival < y.arrival))

/-- The first task of a list in an order. -/
def firstBy (before : Task → Task → Bool) (l : List Task) : Option Task :=
  l.foldl (fun r x => match r with
    | none => some x
    | some y => if before x y then some x else some y) none

/-- The entries of a domain on a tile. -/
def Tile.held (t : Tile) (dom : Nat) : List (Nat × CommitEntry) := t.commit.filter fun e => e.2.task.dom == dom

/-- The untaken ordered tasks of a queue's domains on a tile that no running task of an equal hint holds back (R332). -/
def State.orderedReady (s : State) (tile q : Nat) : List Task :=
  let x := s.tile tile
  x.waiting.filter fun t => t.ordered && (s.domain t.dom).queue == q && !(s.domain t.dom).stopped &&
    !(t.hint.isSome && x.commit.any fun e => e.2.stage == .running && e.2.task.dom == t.dom && e.2.task.hint == t.hint)

/-- Whether the commit queue and the domain's limit leave an ordered task an entry (R332). -/
def State.entryFor (s : State) (tile : Nat) (t : Task) : Bool :=
  let x := s.tile tile
  decide (x.commit.length < 128) && decide ((x.held t.dom).length < (s.domain t.dom).cqlim)

/-- The task that a slot of a queue takes next: the oldest unordered one, or the ordered one of lowest timestamp (R332). -/
def State.nextTask (s : State) (tile q : Nat) : Option Task :=
  match firstBy (fun x y => decide (x.arrival < y.arrival)) ((s.tile tile).waiting.filter fun t => !t.ordered && t.queue == q) with
  | some t => some t
  | none => firstBy goesBefore ((s.orderedReady tile q).filter fun t => s.entryFor tile t)

/-- The entry that an untaken task displaces: the latest of the scope that is full, if it is later than the task and not
irrevocable; none while an abort of that scope is under way (R333). -/
def State.displacedBy (s : State) (tile : Nat) (t : Task) : Option Nat :=
  if s.entryFor tile t then none
  else
    let x := s.tile tile
    let scope := if x.commit.length < 128 then x.held t.dom else x.commit
    if scope.any fun e => e.2.stage == .aborting then none
    else
      let last := (scope.filter fun e => !e.2.irrevocable).foldl (fun (r : Option (Nat × CommitEntry)) e => match r with
        | none => some e
        | some y => if keyLt y.2.task.key e.2.task.key then some e else r) none
      match last with
      | some e => if t.ts.toNat < e.2.task.ts.toNat then some e.1 else none
      | none => none

/-- The running task of an equal hint that an earlier untaken task of a queue's domains displaces: one that waits as for the
escalation, which could not end before the earlier task has run (R333; log 84). -/
def State.displacedByHint (s : State) (tile q : Nat) : Option Nat :=
  let x := s.tile tile
  (x.commit.find? fun e => e.2.stage == .running && !e.2.irrevocable && e.2.task.hint.isSome &&
    (s.thread e.2.slot).wait == some .escalation &&
    x.waiting.any fun t => t.ordered && (s.domain t.dom).queue == q && !(s.domain t.dom).stopped && t.dom == e.2.task.dom &&
      t.hint == e.2.task.hint && decide (t.ts.toNat < e.2.task.ts.toNat)).map (·.1)

/-- The entry that an untaken task of a queue's domains displaces: the task of lowest timestamp that displaces any (R333). -/
def State.displaced (s : State) (tile q : Nat) : Option Nat :=
  match firstBy goesBefore ((s.orderedReady tile q).filter fun t => (s.displacedBy tile t).isSome) with
  | some t => s.displacedBy tile t
  | none => s.displacedByHint tile q

/-- The thread that a task starts as: the slot's owner fields and inbox stay; every register not named here takes its
start value (R34, R323, R332, R348). -/
def Task.start (t : Task) (o : Thread) (q : Option LQueue) (now : Nat) : Thread :=
  let r : Thread := { Thread.reset with
    kind := if t.ordered then .ordered else .unordered
    lqV := o.lqV, lqMove := o.lqMove, lqQueue := o.lqQueue, inbox := o.inbox
    pc := t.func, fbuf := emptyFbuf t.func
    vtime := t.ts
    tdomain := BitVec.ofNat 64 ((if t.ordered || t.domEn then 16 else 0) + t.dom)
    task := some t, launch := none, prio := t.prio, started := now }
  let r := { r with g := (((regSet (regSet (regSet (regSet (regSet r.g 4#5 (t.args[0])) 5#5 (t.args[1])) 6#5 (t.args[2])) 7#5 (t.args[3])) 8#5 t.g8))) }
  match q with
  | some x => { r with asid := BitVec.ofNat 64 x.asid, ptbase := x.ptbase, ttbase := x.ttbase
                       thstat := 8#64 ||| (x.mode.zeroExtend 64 <<< 8) }
  | none => r

/-- Dispatches a task into a slot, which for a launch's first piece is its first issue (R415): a tiebreak at its first dispatch, a free commit-queue entry for an ordered task (which one
is free), and the slot's lanes where they are kept, with every vector and mask register zero (R226, R324, R332). -/
def State.dispatch (s : State) (slot : Nat) (t : Task) (lanes : Nat × Nat) : State :=
  let tile := tileOf slot
  let drop (l : List Task) : List Task := l.filter fun y => y.uid != t.uid
  let s := s.modTileAt tile fun x => { x with tasks := drop x.tasks, requeued := drop x.requeued : Tile }.admitRequeued
  let tb : Word := BitVec.ofNat 64 ((s.time - (s.domain t.dom).start) % 2 ^ 48 * 2 ^ 15 + slot % 32768)
  let t := if t.ordered then { t with tiebreak := some (t.tiebreak.getD tb) } else t
  let th := t.start (s.thread slot) (s.lqueue (s.taskQueue t)) s.time
  let th := { th with grant := lanes.1, laneReq := lanes.2 }
  let s := if t.ordered then
      let used := (s.tile tile).commit.map (·.1)
      let free := (List.range 128).filter fun i => !used.contains i
      let (i, s) := s.choose free.length
      let e := free.getD i 0
      let x : CommitEntry := { task := t, slot := slot, stage := .running, sigR := 0, sigW := 0, reads := [], crumbs := [], irrevocable := false
                               held := none, children := [], discard := false, requeueTile := none }
      (s.setThread slot { th with entry := some (tile, e) }).setEntry tile e x
    else s.setThread slot th
  (s.firstIssue slot t.launch).noteWork (s.thread slot)

/-- TASK_DISPATCH: a free slot takes the next task that its owner admits, at the grant that an aborted task has left it (R226; log 94);
where none can be taken, an earlier task displaces
the latest entry of the scope that is full (R332, R333). -/
def execTaskDispatch (slot : Nat) (s : State) : Host.Outcome State Fault Refusal :=
  let tile := tileOf slot
  let t := s.thread slot
  event (if !t.lqV || 32768 ≤ slot then s
    else match if s.slotFree slot then s.nextTask tile t.lqQueue.toNat else none with
      | some x => s.dispatch slot x (t.grant, t.laneReq)
      | none => match s.displaced tile t.lqQueue.toNat with
        | some e => s.abort [(tile, e)]
        | none => s)

/-! The end of a task or thread (R345, R364). -/

/-- What follows TDONE's waits: queue ends unbound, lanes renegotiated, the work ended, and the slot's next dispatch, which
keeps the claim of a task; a thread's end releases its claim (R225, R226, R345, R364). -/
def State.endWork (s : State) : State :=
  let h := s.cur
  let s := ((s.release h).renegotiate h).forget h
  let t := s.th
  let s := match t.kind, t.task with
    | .persistent, _ => s.pieceEnded t.launch
    | _, some x =>
      let s := s.sampleLatency (coreOf h) 5 (some x.dom)
      (match t.entry with
        | some (tl, e) => (match s.entry tl e with
          | some y => s.setEntry tl e { y with stage := .finished }
          | none => s)
        | none => s.pieceEnded x.launch)
    | _, none => s
  let s := s.modThread h fun t => { t.vacate with inbox := if t.kind = .persistent then [] else t.inbox }
  let s := s.rebalance (tileOf h) false
  let o := s.thread h
  if o.lqV && s.slotFree h then
    match s.nextTask (tileOf h) o.lqQueue.toNat with
    | some x => s.dispatch h x (if t.kind = .persistent then (0, 0) else (t.grant, t.laneReq))
    | none => s
  else s

/-- TDONE (R345). -/
def execTdone (s : State) : Host.Outcome State Fault Refusal :=
  done (do
    waitUntil .tdone fun s => [0#2, 1#2, 2#2, 3#2].all (fun u => s.th.pend u == 0) && s.th.sb.isEmpty
    modify State.endWork) s

/-! Aborts (R341). -/

/-- The end of an abort: the entry is freed, and the task is discarded or requeued with its key. Where its tile's queue is full and
finds no room to spill, the task is held until the queue has room, and can be dispatched meanwhile (R329, R341; log 87). -/
def State.finishAbort (s : State) (tile e : Nat) (x : CommitEntry) : State :=
  let s := s.modTileAt tile fun t => { t with commit := assocErase e t.commit }
  if x.discard then s
  else
    let dst := x.requeueTile.getD tile
    let s := match s.enqueue dst x.task with
      | some s => s
      | none =>
        let (n, s) := s.freshen
        s.modTileAt dst fun t => { t with requeued := t.requeued ++ [{ x.task with arrival := n }] }
    s.rebalance dst false

/-- CRUMB_RESTORE: once the children of an aborting task are gone, its latest crumb is restored by a write that carries its
key and first aborts the later tasks that it hits, at its own core and at those whose copies it invalidates; without crumbs the abort
ends (R335, R337, R341). The bytes and the address are those the crumb area holds, poison travelling with them (R147, R331). -/
def execCrumbRestore (tile entry : Nat) (s : State) : Host.Outcome State Fault Refusal :=
  event (match s.entry tile entry with
    | none => s
    | some x =>
      if x.stage != .aborting || x.children.any (fun u => (s.entryOf u).isSome) then s
      else match x.crumbs with
        | [] => s.finishAbort tile entry x
        | _ :: rest =>
          let a := s.crumbPa tile entry rest.length
          let pa := leNat (s.bytes (a + 64) 8)
          match s.writeHits (.spec x.task.dom x.task.key tile entry) (coreOf x.slot) pa 64 with
          | [] => (((s.homeAccess pa 64 true).perform pa (s.bytes a 64)).copyPoison a pa 64).setEntry tile entry { x with crumbs := rest }
          | l => s.abort l)

/-! Virtual time (R325, R343, R344). -/

/-- The lower of two keys. -/
def minKey (a b : Word × Word) : Word × Word := if keyLt b a then b else a

/-- An untaken task, or one on its way, counts with the sample's own time (R343). -/
def State.sampleKey (s : State) (t : Task) : Word × Word :=
  (t.ts, BitVec.ofNat 64 ((s.time - (s.domain t.dom).start) % 2 ^ 48 * 2 ^ 15))

/-- The lowest key of a domain: running and aborting tasks, spawns on their way, persistent threads and saved contexts that
report to it, and untaken tasks; all ones where there is none (R343). -/
def State.lowestKey (s : State) (dom : Nat) : Word × Word :=
  let ts := (s.cur, s.th) :: s.threads
  let entries := s.entries.filterMap fun e =>
    if e.2.2.task.dom = dom ∧ e.2.2.stage ≠ .finished then some e.2.2.task.key else none
  let spawns := ts.filterMap fun t => match t.2.outstanding with
    | some o => (match o.req with
      | .spawn _ x none => if x.ordered ∧ x.dom = dom then some (s.sampleKey x) else none
      | _ => none)
    | none => none
  let threads := ts.filterMap fun t =>
    if t.2.kind = .persistent ∧ t.2.tdomain.getLsbD 4 ∧ t.2.workDomain = some dom then some (t.2.vtime, 0#64) else none
  let untaken := s.tiles.flatMap fun t => (t.2.waiting ++ t.2.spilled.map (·.2.2)).filterMap fun x =>
    if x.ordered ∧ x.dom = dom then some (s.sampleKey x) else none
  (entries ++ spawns ++ threads ++ untaken).foldl minKey (allOnes, allOnes)

/-- Untaken tasks of a tile, queued or spilled, that a domain filter admits. -/
def Tile.untaken (t : Tile) (f : Nat) : Nat :=
  ((t.waiting ++ t.spilled.map (·.2.2)).filter fun x => domFilter f (some x.dom)).length

/-- Whether a slot is ready to issue: it holds a thread that waits for nothing (R19, R184). -/
def Thread.isReady (t : Thread) : Bool :=
  t.kind != .empty && t.park.isNone && t.wait.isNone && t.outstanding.isNone && t.frozen.isNone && t.entering.isNone

/-- The level samples of a tile: untaken tasks, commit-queue entries, ready slots and corrected errors (R415). -/
def State.sampleLevels (s : State) (tile : Nat) : State :=
  let t := s.tile tile
  let ready (c : Nat) : Nat := ((tileSlots tile).filter fun h => coreFilter c (h / 8 % 8) && (s.thread h).isReady).length
  let s := s.sampleTile tile 6 fun d _ => some (t.untaken d)
  let s := s.sampleTile tile 7 fun d _ => some (t.commit.filter fun e => domFilter d (some e.2.task.dom)).length
  let s := s.sampleTile tile 8 fun _ c => if c = 15 ∨ c < 8 then some (ready c) else none
  (s.sampleTile tile 9 fun _ _ => some t.corrected).modTileAt tile fun t => { t with untakenSample := t.untaken 15 }

/-- The level samples of a die: corrected errors, module power and flits on a link; the model has no power and no flits to
count, so those are free numbers (R415; log 22). -/
def State.sampleDieLevels (s : State) (die : Nat) : State :=
  let errs := (s.tiles.filter fun t => t.1 / 128 == die).foldl (fun n t => n + t.2.corrected) 0
  let s := s.sampleDie die 9 fun _ _ => some errs
  let (p, s) := s.choose (2 ^ 32)
  let (f, s) := s.choose (2 ^ 32)
  (s.sampleDie die 11 fun _ _ => some p).sampleDie die 12 fun d _ => if d < 4 then some f else none

/-- VIRTUAL_TIME_SAMPLE: every domain's lowest key, active or not, every tile's count of untaken tasks, and the monitors' level
samples (R343, R415). A domain that is not active, reports nothing and holds all ones would publish what it holds. -/
def execVirtualTimeSample (s : State) : Host.Outcome State Fault Refusal :=
  let s := (List.range 16).foldl (fun s d =>
    let k := s.lowestKey d
    let x := s.domain d
    if x.active || k != (allOnes, allOnes) || x.gvt != (allOnes, allOnes) then s.setDomain d { x with sampled := some k } else s) s
  let s := s.tiles.foldl (fun s t => s.sampleLevels t.1) s
  let s := s.dies.foldl (fun s d => if d.2.dmonctl.isEmpty then s else s.sampleDieLevels d.1) s
  event { s with tiles := s.tiles.map fun t => (t.1, { t.2 with corrected := 0 }) }

/-- Every finished task of a domain below its GVT commits: its entry is freed, and its piece has ended (R344, R363). -/
def State.commitBelow (s : State) (dom : Nat) (g : Word × Word) : State :=
  let l := s.entries.filter fun e => e.2.2.task.dom == dom && e.2.2.stage == .finished && keyLt e.2.2.task.key g
  l.foldl (fun s e =>
    (s.modTileAt e.1 fun t => { t with commit := assocErase e.2.1 t.commit }).pieceEnded e.2.2.task.launch) s

/-- A visitor set clears when the GVT of every domain exceeds the key recorded for it (R338). -/
def State.clearVisitors (s : State) : State :=
  { s with cores := s.cores.map fun c =>
      if c.2.visitKeys.all fun k => keyLt k.2 (s.domain k.1).gvt then (c.1, { c.2 with visitors := [], visitKeys := [] }) else c }

/-- GVT_PUBLISH: every domain's last sample is published; tasks below it commit, and a domain whose GVT is all ones is
finished: it is no longer active (R343, R344, R362). -/
def execGvtPublish (s : State) : Host.Outcome State Fault Refusal :=
  event ((List.range 16).foldl (fun s d =>
    let x := s.domain d
    match x.sampled with
    | some g =>
      (s.setDomain d { x with gvt := g, sampled := none, active := x.active && g != (allOnes, allOnes) }).commitBelow d g
    | none => s) s).clearVisitors

/-- DOMAIN_AGE_EXPIRY: 2^48 clk after its start an unfinished domain stops dispatching, with an error record of 5.37 (R325)
on the die of the first tile of its set (log 32). -/
def execDomainAgeExpiry (dom : Nat) (s : State) : Host.Outcome State Fault Refusal :=
  let d := s.domain dom
  event (if d.active && !d.stopped && decide (d.start + 2 ^ 48 ≤ s.time) then
      let (v, s) := s.freeWord
      (s.setDomain dom { d with stopped := true }).logError ((s.tileSet d.queue).headD 0 / 128) (code 5 37) v
    else s)

/-- TTS: VTIME, and in an ordered task its tiebreak (R344). -/
def execTts (d : BitVec 4) (s : State) : Host.Outcome State Fault Refusal :=
  done (do
    useRegs [] [pairLow d, pairHigh d]
    let s ← get
    let tb := match s.th.task with
      | some t => if t.ordered then t.tiebreak.getD 0#64 else 0#64
      | none => 0#64
    finish 4 [] [(pairLow d, s.th.vtime), (pairHigh d, tb)]) s

/-- TGVT: the GVT last published for a domain (R344). -/
def execTgvt (d : BitVec 4) (a : BitVec 5) (s : State) : Host.Outcome State Fault Refusal :=
  done (do
    useRegs [a] [pairLow d, pairHigh d]
    let s ← get
    require (decide ((s.rd a).toNat < 16)) 5 5 (s.rd a)
    let g := (s.domain (s.rd a).toNat).gvt
    finish 4 [a] [(pairLow d, g.1), (pairHigh d, g.2)]) s

end Sys2Proof.Machine
end

