-- ==== Sys2Proof/Machine/Launch.lean ====
section
/-! DEFINITION. Launches: the descriptor (R356, R357), acceptance and LNCH (R362, R365, R366), expansion into pieces (R358 to
R361), completion (R363), the answers of saved contexts (R395), and the idle tree (R373, R374). -/

namespace Sys2Proof.Machine

/-! The descriptor (R356, R357). -/

/-- Fields of a launch descriptor (R356). -/
structure LaunchDesc where
  lmsrc : Nat
  lmlen : Nat
  gen : Bool
  group : Nat
  nrec : Nat
  cqlim : Nat
  den : Bool
  dom : Nat
  prio : Nat
  hint : Nat
  kind : Nat
  mode : Nat
  compl : Nat
  basets : Nat
  count : Nat
  rbase : Nat
  args : Nat
  entry : Nat

/-- The fields of a descriptor's bits (R356). -/
def LaunchDesc.ofBits (d : BitVec 512) : LaunchDesc :=
  { lmsrc := wfield d 511 456, lmlen := wfield d 455 443, gen := d.getLsbD 394, group := wfield d 393 384, nrec := wfield d 375 344
    cqlim := wfield d 343 336, den := d.getLsbD 332, dom := wfield d 331 328, prio := wfield d 327 326, hint := wfield d 325 324
    kind := wfield d 323 322, mode := wfield d 321 320, compl := wfield d 311 256, basets := wfield d 255 192
    count := wfield d 159 128, rbase := wfield d 183 128, args := wfield d 119 64, entry := wfield d 55 0 }

/-- Pieces that the timestamp limit counts with (R357). -/
def LaunchDesc.pieces (l : LaunchDesc) : Nat := if l.mode = 0 then 1 else if l.mode = 1 then l.count else l.nrec * 2 ^ 27

/-- The limits of R357. -/
def launchLimits (d : BitVec 512) : Bool :=
  let l := LaunchDesc.ofBits d
  wfield d 442 395 == 0 && wfield d 383 376 == 0 && wfield d 335 333 == 0 && wfield d 319 312 == 0 && wfield d 191 184 == 0 &&
  wfield d 127 120 == 0 && wfield d 63 56 == 0 && (l.mode != 1 || wfield d 183 160 == 0) &&
  l.entry % 2 == 0 && l.mode != 3 && l.kind != 3 && decide (l.hint < 2) && decide (l.cqlim ≤ 128) && (!l.gen || l.kind == 0) &&
  (l.mode != 2 || l.rbase % 16 == 0) && (l.kind != 1 || decide (l.basets + l.pieces ≤ 2 ^ 64 - 1)) && l.compl % 8 == 0 &&
  decide (l.lmlen ≤ 4096) && (l.lmlen == 0 || (l.kind == 0 && l.lmsrc % 64 == 0))

/-- Whether a launch names its domain (R362). -/
def LaunchDesc.namesDomain (l : LaunchDesc) : Bool := l.kind == 1 || (l.kind == 0 && l.den)

/-- Steps 6 to 8 of R366 for a queue: none, or the failing code and whether it is a violation. -/
def State.launchCheck (s : State) (q : Nat) (x : LQueue) (d : BitVec 512) : Option (Nat × Bool) :=
  let l := LaunchDesc.ofBits d
  let dom := s.domain l.dom
  if !launchLimits d then some (code 5 5, false)
  else if l.gen && (s.group l.group).isNone then some (code 5 38, false)
  else if l.gen && (s.group l.group).any (·.asid != x.asid) then some (code 5 39, true)
  else if l.namesDomain && dom.active && dom.queue != q then some (code 5 40, false)
  else if l.kind == 1 && dom.active && decide (l.basets < dom.gvt.1.toNat) then some (code 5 34, false)
  else none

/-- Accepts a launch: it joins its queue's launches, and starts the domain it names if that is not active (R355, R362). -/
def State.acceptLaunch (s : State) (q : Nat) (x : LQueue) (d : BitVec 512) : State :=
  let l := LaunchDesc.ofBits d
  let (n, s) := s.freshen
  let new : Launch :=
    { queue := q, desc := d, made := 0, ended := 0, recs := 0, cur := none, expanded := false, failed := false
      prio := min l.prio x.maxPrio, held := none, starting := none, copied := 0 }
  let s : State := { s with launches := assocSet n new s.launches }
  let s := s.modLqueue q fun y => { y with launches := y.launches ++ [n] }
  if l.namesDomain && !(s.domain l.dom).active then
    s.startDomain l.dom q (if l.cqlim = 0 then 128 else l.cqlim) (BitVec.ofNat 64 l.basets)
  else s

/-- LNCH (R365, R366). -/
def execLnch (q : BitVec 3) (a b : BitVec 5) (s : State) : Host.Outcome State Fault Refusal :=
  done (do
    useRegs [a, b] []
    let s ← get
    let ga := s.rd a
    let y := s.rd b
    let n := if y.getLsbD 12 then s.th.lqQueue.toNat else wfield y 11 0
    require (wfield y 63 13 == 0 && (!y.getLsbD 12 || s.th.lqV)) 5 5 ga
    match s.lqueue n with
    | none => fault 5 5 ga
    | some x =>
      if x.asid ≠ wfield s.th.asid 13 0 then violation 5 41 ga
      escalate
      let bs ← readMem ga 0#2 64 false
      let d : BitVec 512 := BitVec.ofNat 512 (leNat bs)
      waitUntil .memoryReply fun s => s.th.sb.isEmpty
      let s ← get
      match s.launchCheck n x d with
      | some (c, v) => raise { code := c, tval := ga, violation := v }
      | none =>
        let ok := decide (x.launches.length < 16)
        if ok then set (s.acceptLaunch n x d)
        sendRequest (.lnch ok) [a, b] ga q) s

/-- LNCH_ANSWER (R366). -/
def execLnchAnswer (slot : Nat) (s : State) : Host.Outcome State Fault Refusal :=
  event (match (s.thread slot).outstanding with
    | some o => (match o.req with
      | .lnch ok => if (s.thread slot).park.isSome then s else s.asSlot slot (answerCond o ok 5 30)
      | _ => s)
    | none => s)

/-- ANSWER_WRITE: the answer of an instruction whose thread is saved enters the saved context (R395). -/
def execAnswerWrite (slot : Nat) (s : State) : Host.Outcome State Fault Refusal :=
  event (if (s.thread slot).park.isNone then s
    else match (s.thread slot).outstanding with
      | some o => (match o.req with
        | .spawn _ t (some r) => s.asSlot slot (spawnAnswer o t r)
        | .message _ _ (some ok) => s.asSlot slot (answerCond o ok 5 30)
        | .group op => s.asSlot slot (groupEffect o op)
        | .lnch ok => s.asSlot slot (answerCond o ok 5 30)
        | .atomic _ d _ _ _ _ (some (old, flags)) => s.asSlot slot (atomicAnswer o d old flags)
        | _ => s)
      | none => s)

/-! Expansion (R358 to R361). -/

/-- The launch that a queue expands: the oldest one (R355). -/
def State.expanding (s : State) (q : Nat) : Option (Nat × Launch) :=
  match s.lqueue q with
  | some x => x.launches.head?.bind fun n => (assocFind n s.launches).map fun l => (n, l)
  | none => none

/-- Ends the expansion of a launch; a fault is recorded on its queue (R363). -/
def State.endExpansion (s : State) (n : Nat) (l : Launch) (f : Option Cause) : State :=
  let s := s.modLaunch n fun y => { y with expanded := true, held := none, starting := none, failed := y.failed || f.isSome }
  let s := s.modLqueue l.queue fun x => { x with launches := x.launches.filter (· != n) }
  match f with
  | some c => s.recordQueue l.queue c.code c.tval
  | none => s

/-- The identity under which the device reads and writes for a launch: its queue's ASID and mode, from the first core of the
queue's tile set (R358, R363; log 33). -/
def State.launchIssuer (s : State) (q : Nat) : Issuer :=
  match s.lqueue q with
  | some x => { core := 8 * (s.tileSet q).headD 0, mode := x.mode, asid := x.asid, ptbase := x.ptbase }
  | none => { core := 0, mode := 0, asid := 0, ptbase := 0 }

/-- The tile of a set with the most free slots that a queue owns (R359). -/
def State.roomiest (s : State) (q : Nat) : Nat :=
  let free (t : Nat) := (s.admitting (tileSlots t) q).length
  ((s.tileSet q).foldl (fun (r : Option (Nat × Nat)) t => match r with
    | none => some (t, free t)
    | some (u, n) => if n < free t then some (t, free t) else some (u, n)) none).elim 0 (·.1)

/-- The next piece of a launch, with its index or key and its g5 to g7; none where there is none left to make now (R358). -/
def Launch.next (l : Launch) : Option (Nat × Nat × Nat × Nat) :=
  let d := LaunchDesc.ofBits l.desc
  match d.mode with
  | 0 => if l.made = 0 then some (0, 0, 0, 0) else none
  | 1 => if l.made < d.count then some (l.made, 0, 0, 0) else none
  | _ => l.cur.map fun c => (c.1, c.2.1, min 32 c.2.2.1, c.2.2.2)

/-- Whether a launch has made its last piece. -/
def Launch.complete (l : Launch) : Bool :=
  let d := LaunchDesc.ofBits l.desc
  match d.mode with
  | 0 => l.made == 1
  | 1 => l.made == d.count
  | _ => l.recs == d.nrec && l.cur.isNone

/-- A launch after its next piece: its record's rows go on (R358). -/
def Launch.advance (l : Launch) : Launch :=
  { l with made := l.made + 1
           cur := match l.cur with
             | some (k, r, n, f) => if n ≤ 32 then none else some (k, (r + 32) % 2 ^ 32, n - 32, f)
             | none => none }

/-- A piece with the tile it is placed on (R359, R360). -/
def State.makePiece (s : State) (n : Nat) (l : Launch) (p : Nat × Nat × Nat × Nat) (uid : Nat) : Piece :=
  let d := LaunchDesc.ofBits l.desc
  let hint : Option (BitVec 32) := if d.hint = 1 then some (BitVec.ofNat 32 p.1) else none
  let set_ := s.tileSet l.queue
  let w (x : Nat) : Word := BitVec.ofNat 64 x
  { tile := match hint with
      | some h => hashTile set_ h.toNat
      | none => if d.kind = 0 then s.roomiest l.queue else s.leastLoaded set_ none
    task :=
      { uid := uid, ordered := d.kind == 1, func := w d.entry
        ts := if d.kind = 1 then w (d.basets + l.made) else if d.kind = 0 ∧ d.den then w d.basets else allOnes
        tiebreak := none, hint := hint, g8 := match hint with
          | some h => h.zeroExtend 64
          | none => allOnes
        args := #v[w p.1, w p.2.1, w p.2.2.1, w p.2.2.2], dom := d.dom, domEn := d.kind == 2 || d.den, queue := l.queue
        prio := l.prio, launch := some n, parent := none, arrival := 0 } }

/-- Enters a held task piece into its tile's task queue, if it has room; the launch's last piece ends its expansion (R355, R359). -/
def State.enterPiece (s : State) (n : Nat) (l : Launch) : State :=
  match l.held with
  | some p =>
    if (LaunchDesc.ofBits l.desc).kind = 0 then s
    else if !p.task.ordered && decide (256 ≤ (s.tile p.tile).unorderedCount) then s
    else match s.enqueue p.tile p.task with
      | some s =>
        let s := s.modLaunch n fun y => { y with held := none }
        (if l.complete then s.endExpansion n l none else s).rebalance p.tile false
      | none => s
  | none => s

/-- LAUNCH_EXPANSION: the oldest launch of a queue creates its next piece and places it; a held piece holds back the later
ones (R355, R358, R359). -/
def execLaunchExpansion (queue : Nat) (s : State) : Host.Outcome State Fault Refusal :=
  event (match s.expanding queue with
    | none => s
    | some (n, l) =>
      if l.held.isSome then s.enterPiece n l
      else match l.next with
        | none => if l.complete then s.endExpansion n l none else s
        | some p =>
          let (u, s) := s.freshen
          let x := s.makePiece n l p u
          let l := { l.advance with held := some x }
          let s := ({ s with launches := assocSet n l s.launches } : State).rebalance x.tile false
          s.enterPiece n l)

/-- LAUNCH_RECORD_READ: a records launch reads its next record, as one access; a fault ends its expansion (R358, R363). -/
def execLaunchRecordRead (queue : Nat) (s : State) : Host.Outcome State Fault Refusal :=
  event (match s.expanding queue with
    | none => s
    | some (n, l) =>
      let d := LaunchDesc.ofBits l.desc
      if d.mode != 2 || l.held.isSome || l.cur.isSome || decide (d.nrec ≤ l.recs) then s
      else match (eRead (s.launchIssuer queue) 0 (d.rbase + 16 * l.recs) 16 n).run' s with
        | (s, .ok bs) =>
          let x := leNat bs
          let rows := field x 95 64
          s.modLaunch n fun y => { y with recs := y.recs + 1
                                          cur := if rows = 0 then none else some (field x 31 0, field x 63 32, rows, field x 127 96) }
        | (s, .error .blocked) => s
        | (s, .error (.fault c)) => s.endExpansion n l (some c))

/-- The thread that a persistent piece starts as (R360). -/
def Piece.start (p : Piece) (o : Thread) (n : Nat) (l : Launch) (q : Option LQueue) (now : Nat) : Thread :=
  let d := LaunchDesc.ofBits l.desc
  let t := { p.task with ordered := false }.start { o with inbox := [] } q now
  { t with kind := .persistent, task := none, launch := some n, g := regSet t.g 3#5 (BitVec.ofNat 64 d.args)
           tdomain := BitVec.ofNat 64 ((if d.den then 16 else 0) + d.dom) }

/-- Starts a persistent piece on a slot; with GEN = 1 it joins its group first, and q1 says whether it could; the launch's last piece
ends its expansion (R355, R356, R360). -/
def State.startPiece (s : State) (slot n : Nat) (l : Launch) (p : Piece) : State :=
  let d := LaunchDesc.ofBits l.desc
  let s := s.setThread slot (p.start (s.thread slot) n l (s.lqueue l.queue) s.time)
  let s := s.modLaunch n fun y => { y with held := none, starting := none }
  let s := if d.gen then
      match s.group d.group with
      | some g =>
        if g.members.length < 1024 then
          (s.setGroup d.group { g with members := if g.members.contains slot then g.members else g.members ++ [slot] }).modThread slot
            fun t => { t with q := t.q ||| 2#8 }
        else s
      | none => s
    else s
  let s := if l.complete then s.endExpansion n l none else s
  ((s.firstIssue slot (some n)).noteWork (s.thread slot)).rebalance (tileOf slot) false

/-- PIECE_START: a held persistent piece takes a free slot of its tile that its queue owns, and starts, or begins to copy its
local-memory image (R359 to R361). -/
def execPieceStart (slot : Nat) (s : State) : Host.Outcome State Fault Refusal :=
  let t := s.thread slot
  event (if !t.lqV || !s.slotFree slot then s
    else match s.expanding t.lqQueue.toNat with
      | none => s
      | some (n, l) => match l.held with
        | none => s
        | some p =>
          let d := LaunchDesc.ofBits l.desc
          if p.tile ≠ tileOf slot ∨ d.kind ≠ 0 ∨ l.starting.isSome then s
          else if d.lmlen = 0 then s.startPiece slot n l p
          else s.modLaunch n fun y => { y with starting := some slot, copied := 0 })

/-- One 64-byte unit of an image copy (R361). -/
def copyUnit (w : Issuer) (n slot i : Nat) (d : LaunchDesc) : EAct Unit := do
  let bs ← eRead w 0 (d.lmsrc + 64 * i) 64 n
  let pa := window (globalCore (coreOf slot)) + 64 * i
  eRequire fun s => !s.unlanded pa 64 0
  eNonSpec (.number n) pa 64 true
  modify fun s => (s.perform pa bs).modLaunch n fun y => { y with copied := 64 * (i + 1) }

/-- LM_IMAGE_COPY: the image of the piece being started on a slot is copied, in ascending order, and the piece starts; a
fault ends the launch's expansion and the piece does not start (R361, R363). -/
def execLmImageCopy (slot : Nat) (s : State) : Host.Outcome State Fault Refusal :=
  event (match s.launches.find? fun l => l.2.starting == some slot with
    | none => s
    | some (n, l) =>
      let d := LaunchDesc.ofBits l.desc
      let w : Issuer := { s.launchIssuer l.queue with core := coreOf slot }
      match (seqE ((List.range (d.lmlen - l.copied / 64)).map fun i => copyUnit w n slot (l.copied / 64 + i) d)).run' s with
      | (s, .ok _) => (match l.held with
        | some p => s.startPiece slot n l p
        | none => s)
      | (s, .error .blocked) => s
      | (s, .error (.fault c)) => (s.modLaunch n fun y => { y with made := y.made - 1 }).endExpansion n l (some c))

/-- The addition to a completion word (R363). -/
def completionUpdate (w : Issuer) (n a x : Nat) : EAct Unit := do
  let pa ← eLocate w n 0 a 8 .rmw n
  eNonSpec (.number n) pa 8 true
  let s ← get
  if s.poisoned pa 8 then eFault 1 13 a else set (s.perform pa (leBytes 8 (leNat (s.bytes pa 8) + x)))

/-- LAUNCH_COMPLETION_UPDATE: a launch all of whose pieces have ended adds to its completion word; a fault of the update is
recorded and the update is not retried (R363). -/
def execLaunchCompletionUpdate (launch : Nat) (s : State) : Host.Outcome State Fault Refusal :=
  event (match assocFind launch s.launches with
    | none => s
    | some l =>
      let d := LaunchDesc.ofBits l.desc
      let done_ (s : State) : State := { s with launches := assocErase launch s.launches }
      if !l.expanded || l.ended < l.made then s
      else if d.compl = 0 then done_ s
      else match (completionUpdate (s.launchIssuer l.queue) launch d.compl (if l.failed then 2 ^ 63 + 1 else 1)).run' s with
        | (s, .ok _) => done_ s
        | (s, .error .blocked) => s
        | (s, .error (.fault c)) => done_ (s.recordQueue l.queue c.code c.tval))

/-! The idle tree (R373, R374). -/

/-- Whether the queue end that a queue wait awaits is still without what would end the wait: a word to pop, or room and no store of
the thread's left to push (R180, R182). -/
def State.boundIdle (s : State) (t : Thread) : Bool :=
  match t.waitBind.bind fun n => get4 t.bind n with
  | some b => (match s.queue b.queue with
    | some q => if b.producer then !(q.canPush && t.sb.isEmpty) else q.words.isEmpty
    | none => false)
  | none => false

/-- Whether a barrier has released a thread (R354). -/
def State.releasedFrom (s : State) (h : Nat) : Bool := s.dies.any fun d => d.2.groups.any fun g => g.2.released.contains h

/-- A thread in MWAIT, the wait of WFI among them, in GBAR or in a queue wait; a saved context counts in the wait it was saved in,
while nothing has arrived that would end it (R373, R386). -/
def State.idleThread (s : State) (h : Nat) (t : Thread) : Bool :=
  match t.park with
  | none => t.wait == some .mwait || t.wait == some .wfi || (t.wait == some .gbar && !s.releasedFrom h) || t.wait == some .queue
  | some p => match p.wait with
    | some .mwait => t.inbox.isEmpty
    | some .wfi => decide (t.inbox.length ≤ t.posted.getD 0) && (s.pendingInterrupt h).isNone
    | some .gbar => !s.releasedFrom h
    | some .queue => s.boundIdle t
    | _ => false

/-- Whether a request of a thread is in transit. -/
def Thread.inTransit (t : Thread) (dom : Nat) : Bool :=
  match t.outstanding with
  | some o => (match o.req with
    | .spawn _ x none => x.dom == dom
    | .message _ _ none => t.workDomain == some dom
    | .lnch _ => t.workDomain == some dom
    | _ => false)
  | none => false

/-- Whether every wire of a domain shows idle now (R373). -/
def State.idleNow (s : State) (dom : Nat) : Bool :=
  let ts := (s.cur, s.th) :: s.threads
  ts.all (fun t => (t.2.workDomain != some dom || s.idleThread t.1 t.2) && !t.2.inTransit dom) &&
  s.tiles.all (fun t => (t.2.waiting ++ t.2.spilled.map (·.2.2)).all (·.dom != dom) &&
    t.2.commit.all fun e => e.2.stage != .aborting || e.2.task.dom != dom) &&
  s.launches.all (fun l => l.2.expanded || (LaunchDesc.ofBits l.2.desc).dom != dom) &&
  s.cores.all (fun c => c.2.keys.all fun k => k.dom != some dom) &&
  !(s.domain dom).busy

/-- IDLE_TREE_SAMPLE: two consecutive samples that are all idle declare quiescence (R373). -/
def execIdleTreeSample (s : State) : Host.Outcome State Fault Refusal :=
  event ((List.range 16).foldl (fun s d =>
    let x := s.domain d
    let now := s.idleNow d
    let y := { x with idle := now, quiescent := x.idle && now, busy := false }
    if y = x then s else s.setDomain d y) s)

/-- TIDLEQ (R374). -/
def execTidleq (d a : BitVec 5) (s : State) : Host.Outcome State Fault Refusal :=
  done (do
    useRegs [a] [d]
    let s ← get
    require (decide ((s.rd a).toNat < 16)) 5 5 (s.rd a)
    escalate
    let s ← get
    let n := (s.rd a).toNat
    finish 4 [a] [(d, if (s.domain n).quiescent && s.idleNow n then 1#64 else 0#64)]) s

end Sys2Proof.Machine
end

