-- ==== Sys2Proof/Machine/Reset.lean ====
section
/-! DEFINITION. Device reset and bring-up: the orderly and the fatal reset (R145, R412), what a reset leaves (R455), and the
states from ROMCHK to RUN (R411). -/

namespace Sys2Proof.Machine

/-- The four POISON bits of a line, as units of 32 bytes (R130, R145). -/
def State.poisonLine (s : State) (line : Nat) : State :=
  (List.range 4).foldl (fun s i => (s.clearPoison (128 * line + 32 * i) 32).poisonUnit (128 * line + 32 * i) 32) s

/-- The device after a reset (R412, R455): every register at its reset value and every table empty; memory, the weight
buffers with their poison, the spares in use and what the firmware holds stay. The endpoint table and the inbound regions are
the firmware's and stay as well (log 35). -/
def State.deviceReset (s : State) (fatal : Bool) : State :=
  { State.reset with
    mem := s.mem, poison := s.poison, free := s.free, fresh := s.fresh, agenda := s.agenda, sent := s.sent
    tiles := (s.tiles.map fun t => (t.1, { Tile.reset with weights := t.2.weights, weightPoison := t.2.weightPoison })).filter fun t => t.2 != Tile.reset
    dies := (s.dies.map fun d => (d.1, { Die.reset with spares := d.2.spares, spareMap := d.2.spareMap })).filter fun d => d.2 != Die.reset
    fwlog := s.fwlog, rdcGiB := s.rdcGiB, cxl := s.cxl, endpoints := s.endpoints, regions := s.regions, cxlDown := s.cxlDown
    boot := s.boot, ownerKey := s.ownerKey, rollback := s.rollback, powerCap := s.powerCap, losses := s.losses
    pdir := if fatal then s.pdir.filter fun p => !inHbm (128 * p.1) else []
    phase := .romchk, warm := true, fatal := fatal }

/-- An orderly reset: every modified line is written back first (R145, R412). -/
def State.orderlyReset (s : State) : State := ({ s with behind := [] } : State).deviceReset false

/-- A fatal reset: cached state is lost, so memory holds what was last written back to it; an HBM line recorded as exclusive at
another die is poisoned; the firmware will report both (R145, R412). -/
def State.fatalReset (s : State) : State :=
  let remote := (s.pdir.filter fun p => inHbm (128 * p.1) && p.2.st == 2).map (·.1)
  let lost := s.behind.map (·.1)
  let s := s.behind.foldl (fun s b => s.setBytes (128 * b.1) b.2) s
  let s := remote.foldl State.poisonLine s
  ({ s with losses := s.losses ++ (lost ++ remote).eraseDups } : State).deviceReset true

/-- Whether a reset is in progress (R412). -/
def State.resetting (s : State) : Bool := s.warm && s.phase != .run && s.phase != .failed

/-- POWER_ON: a device reset that keeps what is fused, what the spares replaced and the attached CXL memory; ROMCHK begins
(R409, R411, R455). -/
def execPowerOn (s : State) : Host.Outcome State Fault Refusal :=
  event { s.deviceReset false with
          tiles := [], fwlog := [], endpoints := [], regions := [], cxlDown := [], cxl := [], losses := [], boot := none
          rdcGiB := 24, powerCap := 3000, warm := false }

/-- ROMCHK_COMPLETE: TRAIN follows a matching digest, and HALT any other (R411). -/
def execRomchkComplete (digestOk : Bool) (s : State) : Host.Outcome State Fault Refusal :=
  event (if s.phase = .romchk then { s with phase := if digestOk then .train else .failed } else s)

/-- What an accepted configuration sets (R79, R413). -/
def State.applyBoot (s : State) (b : BootConfig) : State := { s with rdcGiB := b.rdcGiB, powerCap := b.powerCap, phase := .init }

/-- KEPT_CONFIGURATION_REAPPLIED (R412). -/
def execKeptConfigurationReapplied (s : State) : Host.Outcome State Fault Refusal :=
  event (match s.boot with
    | some b => if s.phase = .config ∧ s.warm then s.applyBoot b else s
    | none => s)

/-- INIT_COMPLETE: at power-on HBM and local memory are written with zero and the CXL ports are enumerated; RUN begins (R81,
R411). -/
def execInitComplete (s : State) : Host.Outcome State Fault Refusal :=
  event (if s.phase = .init then
      let s := if s.warm then s
        else { s with
          mem := s.mem.filter fun c => decide (cxlBase ≤ c.1)
          poison := s.poison.filter fun u => decide (cxlBase ≤ u.1)
          cxl := (List.range 8).map fun p => (p, min (Config.cxlBytes p) 0x8000000000) }
      { s with phase := .run, fatal := false, pdir := [] }
    else s)

end Sys2Proof.Machine
end

