-- ==== Sys2Proof/Machine/Vector.lean ====
section
/-! DEFINITION. The vector lane pool: acceptance of a command and its stream operands (R175, R231, R233, R236, R237), the
instructions of the short forms, VOP and VPERM, and the values their commands compute (R238 to R250). -/

namespace Sys2Proof.Machine

/-! Acceptance (R231, R233). -/

/-- The elements of a strip: those of the default width that the registers hold, but no more than the pattern still has
(R175, R176). -/
def Thread.stripLen (t : Thread) (x : Stream) : Nat := min (t.count (elemBits (wfield t.vstat 49 48))) (x.total - x.used)

/-- The checks of one source vector register: an output stream raises QDIR, elements wider than the default width OPERAND, and a
strip that is not all in the ring waits; its elements are then read as local memory is (R18, R159, R175, R176). v is the value TVAL
takes (R456). -/
def checkStrip (v : Word) (r : BitVec 5) : Act Unit := do
  let s ← get
  match s.th.vStream r with
  | none => pure ()
  | some x =>
    escalate
    if x.output then fault 4 28 v
    else if 2 ^ wfield s.th.vstat 49 48 < x.esize then fault 4 5 v
    else if x.used + s.th.stripLen x ≤ x.moved then
      seqActs ((List.range (s.th.stripLen x)).map fun i => ringAccess (x.place s.myWindow (x.used + i)) x.esize false)
    else waitFor .watermark

/-- Pops the strip of a streaming source register, its missing elements zero; the last element ends the stream (R175,
R176). Answers the register and the strip, which the command puts there when it executes. -/
def State.popStrip (s : State) (r : BitVec 5) : State × List (BitVec 2048) :=
  match s.th.vStream r with
  | none => (s, [])
  | some x =>
    let n := s.th.stripLen x
    let e := elemBits (wfield s.th.vstat 49 48)
    let vs := (List.range n).map fun i => (x.extend (leNat (s.bytes (x.place s.myWindow (x.used + i)) x.esize))).toNat
    let s := { s with th := { s.th with streams := set8 s.th.streams (BitVec.ofNat 3 (r.toNat - 24)) (some { x with used := x.used + n }) } }
    (if x.used + n = x.total then s.endStream (r.toNat - 24) else s, [BitVec.ofNat 2048 r.toNat, BitVec.ofNat 2048 (packElems e vs)])

/-- A write to an input-streaming register ends its stream (R176). -/
def State.endInput (s : State) (r : BitVec 5) : State :=
  match s.th.vStream r with
  | some x => if x.output then s else s.endStream (r.toNat - 24)
  | none => s

/-- Steps 2 and 3 of R233: a held fault is delivered, and a thread without a grant raises NOCLAIM. -/
def vectorEntry (tv : Word) : Act Unit := do
  deliverHeld 2#2
  let s ← get
  require (decide (0 < s.th.grant)) 2 20 tv

/-- Step 8 of R233: the command enters the queue, waiting for room, with the strips its sources pop; PEND rises. -/
def acceptVector (i : Instr) (len : Nat) (gs : List (BitVec 5)) (vsrcs vdsts : List (BitVec 5)) (ga gb : Word)
    (ts : List (BitVec 512)) : Act Unit := do
  waitUntil .memoryReply fun s => decide (s.myCore.vq.length < 16)
  let vs := vsrcs.eraseDups
  let v := (← get).checkValue gs
  seqActs (vs.map (checkStrip (match i with
    | .ksend .. => 0#64
    | _ => v)))
  let s ← get
  if vdsts.any fun r => (s.th.vStream r).isSome then escalate
  let s ← get
  let (s, strips) := vs.foldl (fun p r => let q := p.1.popStrip r; (q.1, p.2 ++ q.2)) (s, [])
  let s := vdsts.foldl State.endInput s
  let (n, s) := s.freshen
  set (s.modCore fun c => { c with vq := c.vq ++ [{ s.command i n ga gb ts with extra := strips }] })
  modTh fun t => t.pendUp 2#2
  finish len gs []

/-- A pool command at issue: its general registers are read, the checks of R233 are made in order, and it is accepted. -/
def vectorIssue (i : Instr) (len : Nat) (gs vsrcs vdsts : List (BitVec 5)) (chk : State → Act (List (BitVec 512)) := fun _ => pure []) : Act Unit := do
  useRegs gs []
  let s ← get
  vectorEntry (s.checkValue gs)
  let ts ← chk s
  acceptVector i len gs vsrcs vdsts (s.checkValue gs) (s.checkValue (gs.drop 1)) ts

/-- A floating short form: illegal-instruction at the 8-bit default width (R26, R237). -/
def floatShort : Act Unit := do
  let s ← get
  require (wfield s.th.vstat 49 48 != 0) 0 1 s.instrWord

/-- The mask of a short form: k1 with m = 1, and k0 otherwise (R24). -/
def shortMask (m : BitVec 1) : BitVec 3 := if m = 1#1 then 1#3 else 0#3

/-! The short forms (R24 to R26, R237). -/

/-- Vmov (R25). -/
def execVmov (d b : BitVec 5) (m : BitVec 1) (s : State) : Host.Outcome State Fault Refusal :=
  done (vectorIssue (.vmov d b m) 2 [] [b] [d]) s
/-- VaddShort (R25). -/
def execVaddShort (d b : BitVec 5) (m : BitVec 1) (s : State) : Host.Outcome State Fault Refusal :=
  done (vectorIssue (.vaddShort d b m) 2 [] [d, b] [d]) s
/-- VsubShort (R25). -/
def execVsubShort (d b : BitVec 5) (m : BitVec 1) (s : State) : Host.Outcome State Fault Refusal :=
  done (vectorIssue (.vsubShort d b m) 2 [] [d, b] [d]) s
/-- VmulShort (R25). -/
def execVmulShort (d b : BitVec 5) (m : BitVec 1) (s : State) : Host.Outcome State Fault Refusal :=
  done (vectorIssue (.vmulShort d b m) 2 [] [d, b] [d]) s
/-- VandShort (R25). -/
def execVandShort (d b : BitVec 5) (m : BitVec 1) (s : State) : Host.Outcome State Fault Refusal :=
  done (vectorIssue (.vandShort d b m) 2 [] [d, b] [d]) s
/-- VorShort (R25). -/
def execVorShort (d b : BitVec 5) (m : BitVec 1) (s : State) : Host.Outcome State Fault Refusal :=
  done (vectorIssue (.vorShort d b m) 2 [] [d, b] [d]) s
/-- VxorShort (R25). -/
def execVxorShort (d b : BitVec 5) (m : BitVec 1) (s : State) : Host.Outcome State Fault Refusal :=
  done (vectorIssue (.vxorShort d b m) 2 [] [d, b] [d]) s
/-- VminShort (R25). -/
def execVminShort (d b : BitVec 5) (m : BitVec 1) (s : State) : Host.Outcome State Fault Refusal :=
  done (vectorIssue (.vminShort d b m) 2 [] [d, b] [d]) s
/-- VmaxShort (R25). -/
def execVmaxShort (d b : BitVec 5) (m : BitVec 1) (s : State) : Host.Outcome State Fault Refusal :=
  done (vectorIssue (.vmaxShort d b m) 2 [] [d, b] [d]) s
/-- VfaddShort (R25). -/
def execVfaddShort (d b : BitVec 5) (m : BitVec 1) (s : State) : Host.Outcome State Fault Refusal :=
  done (do
    floatShort
    vectorIssue (.vfaddShort d b m) 2 [] [d, b] [d]) s
/-- VfsubShort (R25). -/
def execVfsubShort (d b : BitVec 5) (m : BitVec 1) (s : State) : Host.Outcome State Fault Refusal :=
  done (do
    floatShort
    vectorIssue (.vfsubShort d b m) 2 [] [d, b] [d]) s
/-- VfmulShort (R25). -/
def execVfmulShort (d b : BitVec 5) (m : BitVec 1) (s : State) : Host.Outcome State Fault Refusal :=
  done (do
    floatShort
    vectorIssue (.vfmulShort d b m) 2 [] [d, b] [d]) s
/-- VfminShort (R25). -/
def execVfminShort (d b : BitVec 5) (m : BitVec 1) (s : State) : Host.Outcome State Fault Refusal :=
  done (do
    floatShort
    vectorIssue (.vfminShort d b m) 2 [] [d, b] [d]) s
/-- VfmaxShort (R25). -/
def execVfmaxShort (d b : BitVec 5) (m : BitVec 1) (s : State) : Host.Outcome State Fault Refusal :=
  done (do
    floatShort
    vectorIssue (.vfmaxShort d b m) 2 [] [d, b] [d]) s
/-- Vfneg (R25). -/
def execVfneg (d b : BitVec 5) (m : BitVec 1) (s : State) : Host.Outcome State Fault Refusal :=
  done (do
    floatShort
    vectorIssue (.vfneg d b m) 2 [] [b] [d]) s
/-- Vabs (R25). -/
def execVabs (d b : BitVec 5) (m : BitVec 1) (s : State) : Host.Outcome State Fault Refusal :=
  done (vectorIssue (.vabs d b m) 2 [] [b] [d]) s

/-! VOP (R238 to R244). -/

/-- VADD (R238). -/
def execVadd (d a b : BitVec 5) (k : BitVec 3) (w : BitVec 2) (s : State) : Host.Outcome State Fault Refusal :=
  done (vectorIssue (.vadd d a b k w) 4 [] [a, b] [d]) s
/-- VSUB (R238). -/
def execVsub (d a b : BitVec 5) (k : BitVec 3) (w : BitVec 2) (s : State) : Host.Outcome State Fault Refusal :=
  done (vectorIssue (.vsub d a b k w) 4 [] [a, b] [d]) s
/-- VMUL (R238). -/
def execVmul (d a b : BitVec 5) (k : BitVec 3) (w : BitVec 2) (s : State) : Host.Outcome State Fault Refusal :=
  done (vectorIssue (.vmul d a b k w) 4 [] [a, b] [d]) s
/-- VMIN (R238). -/
def execVmin (d a b : BitVec 5) (k : BitVec 3) (w : BitVec 2) (s : State) : Host.Outcome State Fault Refusal :=
  done (vectorIssue (.vmin d a b k w) 4 [] [a, b] [d]) s
/-- VMAX (R238). -/
def execVmax (d a b : BitVec 5) (k : BitVec 3) (w : BitVec 2) (s : State) : Host.Outcome State Fault Refusal :=
  done (vectorIssue (.vmax d a b k w) 4 [] [a, b] [d]) s
/-- VAND (R238). -/
def execVand (d a b : BitVec 5) (k : BitVec 3) (w : BitVec 2) (s : State) : Host.Outcome State Fault Refusal :=
  done (vectorIssue (.vand d a b k w) 4 [] [a, b] [d]) s
/-- VOR (R238). -/
def execVor (d a b : BitVec 5) (k : BitVec 3) (w : BitVec 2) (s : State) : Host.Outcome State Fault Refusal :=
  done (vectorIssue (.vor d a b k w) 4 [] [a, b] [d]) s
/-- VXOR (R238). -/
def execVxor (d a b : BitVec 5) (k : BitVec 3) (w : BitVec 2) (s : State) : Host.Outcome State Fault Refusal :=
  done (vectorIssue (.vxor d a b k w) 4 [] [a, b] [d]) s
/-- VSLL (R238). -/
def execVsll (d a b : BitVec 5) (k : BitVec 3) (w : BitVec 2) (s : State) : Host.Outcome State Fault Refusal :=
  done (vectorIssue (.vsll d a b k w) 4 [] [a, b] [d]) s
/-- VSRL (R238). -/
def execVsrl (d a b : BitVec 5) (k : BitVec 3) (w : BitVec 2) (s : State) : Host.Outcome State Fault Refusal :=
  done (vectorIssue (.vsrl d a b k w) 4 [] [a, b] [d]) s
/-- VSRA (R238). -/
def execVsra (d a b : BitVec 5) (k : BitVec 3) (w : BitVec 2) (s : State) : Host.Outcome State Fault Refusal :=
  done (vectorIssue (.vsra d a b k w) 4 [] [a, b] [d]) s
/-- VADDSAT (R238). -/
def execVaddsat (d a b : BitVec 5) (k : BitVec 3) (w : BitVec 2) (s : State) : Host.Outcome State Fault Refusal :=
  done (vectorIssue (.vaddsat d a b k w) 4 [] [a, b] [d]) s
/-- VFADD (R240). -/
def execVfadd (d a b : BitVec 5) (k : BitVec 3) (w : BitVec 2) (s : State) : Host.Outcome State Fault Refusal :=
  done (vectorIssue (.vfadd d a b k w) 4 [] [a, b] [d]) s
/-- VFSUB (R240). -/
def execVfsub (d a b : BitVec 5) (k : BitVec 3) (w : BitVec 2) (s : State) : Host.Outcome State Fault Refusal :=
  done (vectorIssue (.vfsub d a b k w) 4 [] [a, b] [d]) s
/-- VFMUL (R240). -/
def execVfmul (d a b : BitVec 5) (k : BitVec 3) (w : BitVec 2) (s : State) : Host.Outcome State Fault Refusal :=
  done (vectorIssue (.vfmul d a b k w) 4 [] [a, b] [d]) s
/-- VFMIN (R240). -/
def execVfmin (d a b : BitVec 5) (k : BitVec 3) (w : BitVec 2) (s : State) : Host.Outcome State Fault Refusal :=
  done (vectorIssue (.vfmin d a b k w) 4 [] [a, b] [d]) s
/-- VFMAX (R240). -/
def execVfmax (d a b : BitVec 5) (k : BitVec 3) (w : BitVec 2) (s : State) : Host.Outcome State Fault Refusal :=
  done (vectorIssue (.vfmax d a b k w) 4 [] [a, b] [d]) s
/-- VRCPS (R242). -/
def execVrcps (d a b : BitVec 5) (k : BitVec 3) (w : BitVec 2) (s : State) : Host.Outcome State Fault Refusal :=
  done (vectorIssue (.vrcps d a b k w) 4 [] [a, b] [d]) s
/-- VRSQS (R242). -/
def execVrsqs (d a b : BitVec 5) (k : BitVec 3) (w : BitVec 2) (s : State) : Host.Outcome State Fault Refusal :=
  done (vectorIssue (.vrsqs d a b k w) 4 [] [a, b] [d]) s
/-- VSEL (R244). -/
def execVsel (d a b : BitVec 5) (k : BitVec 3) (w : BitVec 2) (s : State) : Host.Outcome State Fault Refusal :=
  done (vectorIssue (.vsel d a b k w) 4 [] [a, b] [d]) s
/-- VDOT4 (R239). -/
def execVdot4 (d a b : BitVec 5) (k : BitVec 3) (s : State) : Host.Outcome State Fault Refusal :=
  done (vectorIssue (.vdot4 d a b k) 4 [] [d, a, b] [d]) s
/-- VFMA (R240). -/
def execVfma (d a b : BitVec 5) (k : BitVec 3) (w : BitVec 2) (s : State) : Host.Outcome State Fault Refusal :=
  done (vectorIssue (.vfma d a b k w) 4 [] [d, a, b] [d]) s
/-- VRCP (R241). -/
def execVrcp (d a : BitVec 5) (k : BitVec 3) (w : BitVec 2) (s : State) : Host.Outcome State Fault Refusal :=
  done (vectorIssue (.vrcp d a k w) 4 [] [a] [d]) s
/-- VRSQ (R241). -/
def execVrsq (d a : BitVec 5) (k : BitVec 3) (w : BitVec 2) (s : State) : Host.Outcome State Fault Refusal :=
  done (vectorIssue (.vrsq d a k w) 4 [] [a] [d]) s
/-- VCMPEQ (R243). -/
def execVcmpeq (d : BitVec 3) (a b : BitVec 5) (k : BitVec 3) (w : BitVec 1) (s : State) : Host.Outcome State Fault Refusal :=
  done (vectorIssue (.vcmpeq d a b k w) 4 [] [a, b] []) s
/-- VCMPLT (R243). -/
def execVcmplt (d : BitVec 3) (a b : BitVec 5) (k : BitVec 3) (w : BitVec 1) (s : State) : Host.Outcome State Fault Refusal :=
  done (vectorIssue (.vcmplt d a b k w) 4 [] [a, b] []) s
/-- VCMPLTN (R243). -/
def execVcmpltn (d : BitVec 3) (a b : BitVec 5) (k : BitVec 3) (w : BitVec 1) (s : State) : Host.Outcome State Fault Refusal :=
  done (vectorIssue (.vcmpltn d a b k w) 4 [] [a, b] []) s
/-- VFCMPEQ (R243). -/
def execVfcmpeq (d : BitVec 3) (a b : BitVec 5) (k : BitVec 3) (w : BitVec 1) (s : State) : Host.Outcome State Fault Refusal :=
  done (vectorIssue (.vfcmpeq d a b k w) 4 [] [a, b] []) s
/-- VFCMPLT (R243). -/
def execVfcmplt (d : BitVec 3) (a b : BitVec 5) (k : BitVec 3) (w : BitVec 1) (s : State) : Host.Outcome State Fault Refusal :=
  done (vectorIssue (.vfcmplt d a b k w) 4 [] [a, b] []) s
/-- Whether VCVT accepts a format code (R244). -/
def vcvtCode (c : Nat) : Bool := (intFmtOf c).isSome || (ffmtOf c).isSome
/-- VCVT: b the destination code, c the source code; a reserved one raises FORMAT, any other OPERAND, TVAL the instruction
(R244, R456). -/
def execVcvt (d a b c : BitVec 5) (s : State) : Host.Outcome State Fault Refusal :=
  done (vectorIssue (.vcvt d a b c) 4 [] [a] [d] fun s => do
    require (!reservedFormat b.toNat && !reservedFormat c.toNat) 2 6 s.instrWord
    require (vcvtCode b.toNat && vcvtCode c.toNat) 2 5 s.instrWord
    return []) s
/-- VLUT (R244). -/
def execVlut (d a : BitVec 5) (h : BitVec 1) (k : BitVec 3) (s : State) : Host.Outcome State Fault Refusal :=
  done (vectorIssue (.vlut d a h k) 4 [] [a] [d]) s
/-- VBCAST (R244). -/
def execVbcast (d a : BitVec 5) (k : BitVec 3) (w : BitVec 2) (s : State) : Host.Outcome State Fault Refusal :=
  done (vectorIssue (.vbcast d a k w) 4 [a] [] [d]) s

/-! VPERM (R247 to R250). -/

/-- VPERM (R247). -/
def execVperm (d a b : BitVec 5) (k : BitVec 3) (w : BitVec 2) (s : State) : Host.Outcome State Fault Refusal :=
  done (vectorIssue (.vperm d a b k w) 4 [] [a, b] [d]) s
/-- VROTL (R247). -/
def execVrotl (d a b : BitVec 5) (k : BitVec 3) (w : BitVec 2) (s : State) : Host.Outcome State Fault Refusal :=
  done (vectorIssue (.vrotl d a b k w) 4 [b] [a] [d]) s
/-- The eight registers of VTRANS (R248). -/
def transRows (d : BitVec 2) : List (BitVec 5) := (List.range 8).map fun i => BitVec.ofNat 5 (8 * d.toNat + i)
/-- VTRANS (R248). -/
def execVtrans (d w : BitVec 2) (s : State) : Host.Outcome State Fault Refusal :=
  done (vectorIssue (.vtrans d w) 4 [] (transRows d) (transRows d)) s
/-- VRSUM (R249). -/
def execVrsum (d a : BitVec 5) (k : BitVec 3) (w : BitVec 2) (s : State) : Host.Outcome State Fault Refusal :=
  done (vectorIssue (.vrsum d a k w) 4 [] [a] [d]) s
/-- VRMIN (R249). -/
def execVrmin (d a : BitVec 5) (k : BitVec 3) (w : BitVec 2) (s : State) : Host.Outcome State Fault Refusal :=
  done (vectorIssue (.vrmin d a k w) 4 [] [a] [d]) s
/-- VRMAX (R249). -/
def execVrmax (d a : BitVec 5) (k : BitVec 3) (w : BitVec 2) (s : State) : Host.Outcome State Fault Refusal :=
  done (vectorIssue (.vrmax d a k w) 4 [] [a] [d]) s
/-- VFRSUM (R249). -/
def execVfrsum (d a : BitVec 5) (k : BitVec 3) (w : BitVec 2) (s : State) : Host.Outcome State Fault Refusal :=
  done (vectorIssue (.vfrsum d a k w) 4 [] [a] [d]) s
/-- VSCAN (R247). -/
def execVscan (d a : BitVec 5) (k : BitVec 3) (w : BitVec 2) (s : State) : Host.Outcome State Fault Refusal :=
  done (vectorIssue (.vscan d a k w) 4 [] [a] [d]) s
/-- VCOMPRESS (R247). -/
def execVcompress (d a : BitVec 5) (k : BitVec 3) (w : BitVec 2) (s : State) : Host.Outcome State Fault Refusal :=
  done (vectorIssue (.vcompress d a k w) 4 [] [a] [d]) s
/-- VEXPAND (R247). -/
def execVexpand (d a : BitVec 5) (k : BitVec 3) (w : BitVec 2) (s : State) : Host.Outcome State Fault Refusal :=
  done (vectorIssue (.vexpand d a k w) 4 [] [a] [d]) s
/-- VSELK: c outside 1 to n, or other bits of g[b], raise OPERAND (R250). -/
def execVselk (d a b : BitVec 5) (k : BitVec 3) (w : BitVec 2) (s : State) : Host.Outcome State Fault Refusal :=
  done (vectorIssue (.vselk d a b k w) 4 [b] [a] [d] fun s => do
    let x := s.rd b
    let n := wfield x 6 0
    require (wfield x 63 8 == 0 && decide (1 ≤ n) && decide (n ≤ s.th.count (elemBits w.toNat))) 2 5 x
    return []) s
/-- VIOTA (R247). -/
def execViota (d : BitVec 5) (k : BitVec 3) (w : BitVec 2) (s : State) : Host.Outcome State Fault Refusal :=
  done (vectorIssue (.viota d k w) 4 [] [] [d]) s
/-- VPOPK (R247). -/
def execVpopk (d : BitVec 5) (k : BitVec 3) (w : BitVec 2) (s : State) : Host.Outcome State Fault Refusal :=
  done (vectorIssue (.vpopk d k w) 4 [] [] [d]) s

/-! The results of a command in its thread's registers (R175, R229, R230). -/

/-- The floating format of an element width code: F16, F32 or F64 (R228). -/
def floatOf (w : Nat) : FFmt := if w = 1 then f16 else if w = 2 then f32 else f64

/-- An output-streaming register pushes its strip, truncated to the stream's elements, once the ring has room, as local memory is
written; the elements of a wider stream are extended by zeros (log 109), and those past the pattern's end are dropped (R18, R159, R175,
R176). -/
def pushStrip (c : Command) (r : BitVec 5) : EAct Unit := do
  let s ← get
  let t := s.thread c.slot
  match t.vStream r with
  | none => pure ()
  | some x =>
    if !x.output then pure ()
    else
      let e := elemBits c.width
      let n := min (t.count e) (x.total - x.used)
      if x.capacity < x.used - x.moved + n then eBlocked
      else
        let win := window (globalCore (coreOf c.slot))
        seqE ((List.range n).map fun i => do
          eRequire fun s => !s.unlanded (x.place win (x.used + i)) x.esize 0
          eNonSpec (.number c.seq) (x.place win (x.used + i)) x.esize true
          let s ← get
          if s.poisonNarrow (x.place win (x.used + i)) x.esize then eFault 1 13 (x.place win (x.used + i) - win))
        modify fun s => (List.range n).foldl (fun s i => s.perform (x.place win (x.used + i)) (leBytes x.esize (t.elem r e i))) s
        modify fun s => (s.modThread c.slot fun t => { t with streams := set8 t.streams (BitVec.ofNat 3 (r.toNat - 24)) (some { x with used := x.used + n }) })

/-- Writes a vector register of the command's thread. -/
def putV (c : Command) (r : BitVec 5) (x : Nat) : EAct Unit := do
  modify fun s => s.modThread c.slot fun t => { t with v := regSet t.v r (BitVec.ofNat 2048 x) }
  pushStrip c r

/-- ORs flags into VSTAT (R230). -/
def vflags (c : Command) (f : Word) : EAct Unit := modify fun s => s.modThread c.slot fun t => { t with vstat := t.vstat ||| f }

/-- An element-wise result under a mask, with its flags; masked-off elements keep their values and raise none (R229). -/
def vmap (c : Command) (d : BitVec 5) (k : BitVec 3) (e : Nat) (f : Thread → Nat → Nat × Word) : EAct Unit := do
  let s ← get
  let t := s.thread c.slot
  let rs := (List.range (t.count e)).map fun j => if t.admits k e j then f t j else (t.elem d e j, 0)
  putV c d (packElems e (rs.map (·.1)))
  vflags c (rs.foldl (fun x r => x ||| r.2) 0)

/-- A two-operand integer result. -/
def vint (c : Command) (d a b : BitVec 5) (k : BitVec 3) (w : Nat) (f : Nat → Nat → Nat → Nat) : EAct Unit :=
  let e := elemBits w
  vmap c d k e fun t j => (f e (t.elem a e j) (t.elem b e j), 0)

/-- A two-operand floating result under the captured rm and ovs. -/
def vfloat (c : Command) (d a b : BitVec 5) (k : BitVec 3) (w : Nat) (f : FFmt → Nat → Bool → Nat → Nat → Nat × Word) : EAct Unit :=
  let e := elemBits w
  vmap c d k e fun t j => f (floatOf w) (wfield c.frm 2 0) (c.frm.getLsbD 3) (t.elem a e j) (t.elem b e j)

/-! Elements (R238 to R244). -/

/-- Signed minimum or maximum of elements. -/
def minMaxI (max : Bool) (e x y : Nat) : Nat := if decide (toSigned e x < toSigned e y) != max then x else y
/-- A signed value clamped to e bits. -/
def clampI (e : Nat) (v : Int) : Nat :=
  ofSigned e (if v < -(2 ^ (e - 1)) then -(2 ^ (e - 1)) else if 2 ^ (e - 1) - 1 < v then 2 ^ (e - 1) - 1 else v)

/-- The integer operations of R238 by fn6, 0 VADD to 11 VADDSAT. -/
def intElem (op e x y : Nat) : Nat :=
  match op with
  | 0 => (x + y) % 2 ^ e
  | 1 => (x + 2 ^ e - y) % 2 ^ e
  | 2 => x * y % 2 ^ e
  | 3 => minMaxI false e x y
  | 4 => minMaxI true e x y
  | 5 => Nat.land x y
  | 6 => Nat.lor x y
  | 7 => Nat.xor x y
  | 8 => x * 2 ^ (y % e) % 2 ^ e
  | 9 => x / 2 ^ (y % e)
  | 10 => ofSigned e (toSigned e x / 2 ^ (y % e))
  | _ => clampI e (toSigned e x + toSigned e y)

/-- The floating operations of R240 by fn6: 13 VFADD, 14 VFSUB, 15 VFMUL, 17 VFMIN, 18 VFMAX. -/
def floatElem (op : Nat) (f : FFmt) (rm : Nat) (ovs : Bool) (x y : Nat) : Nat × Word :=
  match op with
  | 13 => arithF f rm ovs Num.add (f.read x) (f.read y)
  | 14 => arithF f rm ovs Num.sub (f.read x) (f.read y)
  | 15 => arithF f rm ovs Num.mulR (f.read x) (f.read y)
  | 17 => (minMaxF f false x y, 0)
  | _ => (minMaxF f true x y, 0)

/-- A lane of VDOT4 (R239). -/
def dotLane (acc x y : Nat) : Nat :=
  let b (v i : Nat) : Int := toSigned 8 (v / 2 ^ (8 * i))
  clampI 32 (toSigned 32 acc + b x 0 * b y 0 + b x 1 * b y 1 + b x 2 * b y 2 + b x 3 * b y 3)

/-- The flags of an estimate: NX where the result differs from the exact value n/d, UF where it is then subnormal or zero,
and OF as the rounding reports it (R241). -/
def estimateFlags (f : FFmt) (r : Nat × Word) (n d : Nat) (exact : Bool) : Word :=
  let same := exact && (match f.read r.1 with
    | .fin _ m q => m * d == n * q
    | _ => false)
  let tiny := decide (r.1 % 2 ^ (f.width - 1) < 2 ^ f.fb)
  (r.2 &&& flagOF) ||| (if same then 0 else if tiny then flagNX ||| flagUF else flagNX)

/-- A finite positive n/d rounded as an estimate: Near12 first, but for F16 (R241). The exact value is a root where exact is
false. -/
def estimateOf (f : FFmt) (rm : Nat) (ovs neg : Bool) (n d : Nat) (exact : Bool) : Nat × Word :=
  let (a, b) := if f.width = 16 then (n, d) else near12 n d
  let r := roundF f rm ovs (.fin neg a b)
  (r.1, estimateFlags f r n d exact)

/-- VRCP of an element (R241). -/
def rcpElem (f : FFmt) (rm : Nat) (ovs : Bool) (x : Nat) : Nat × Word :=
  match f.read x with
  | .nan => (f.nanBits, 0)
  | .inf s => (f.withSign s 0, 0)
  | .fin s n d => if n = 0 then (f.withSign s f.infBits, flagDZ) else estimateOf f rm ovs s d n true

/-- VRSQ of an element (R241). -/
def rsqElem (f : FFmt) (rm : Nat) (ovs : Bool) (x : Nat) : Nat × Word :=
  match f.read x with
  | .nan => (f.nanBits, 0)
  | .inf s => if s then (f.nanBits, flagNV) else (0, 0)
  | .fin s n d =>
    if n = 0 then (f.withSign s f.infBits, flagDZ)
    else if s then (f.nanBits, flagNV)
    else
      let r := isqrt (n * d)
      if r * r = n * d then estimateOf f rm ovs false d r true
      else let q := sqrtFrac d n; estimateOf f rm ovs false q.1 q.2 false

/-- VRCPS (c = 2, half false) and VRSQS (c = 3, half true) of elements (R242). -/
def refineElem (half : Bool) (f : FFmt) (rm : Nat) (ovs : Bool) (x y : Nat) : Nat × Word :=
  let a := f.read x
  let b := f.read y
  let scale (v : Num) : Num := if half then match v with
      | .fin s n d => .fin s n (2 * d)
      | w => w
    else v
  if a.isNan || b.isNan then (f.nanBits, 0)
  else match a.mul b with
    | none => roundF f rm ovs (if half then .fin false 3 2 else .fin false 2 1)
    | some p => finishF f rm ovs false (((Num.ofInt (if half then 3 else 2)).add (rm == 2) p.negate).map scale)

/-- The lanes of an element of e bits, as mask bits. -/
def elemLanes (e j : Nat) : BitVec 64 := if e = 64 then 3#64 <<< (2 * j) else 1#64 <<< j

/-- A compare into a mask; a write to k0 is discarded (R243). -/
def vcompare (c : Command) (d : BitVec 3) (k : BitVec 3) (e : Nat) (f : Thread → Nat → Bool) : EAct Unit :=
  modify fun s => s.modThread c.slot fun t =>
    if d = 0#3 then t
    else { t with k := set8 t.k d ((List.range (t.count e)).foldl (fun m j =>
        if t.admits k e j then (if f t j then m ||| elemLanes e j else m &&& ~~~(elemLanes e j)) else m) (get8 t.k d)) }

/-- An integer compare of elements: equal, signed less, unsigned less. -/
def vcmpInt (c : Command) (d : BitVec 3) (a b : BitVec 5) (k : BitVec 3) (w : BitVec 1) (f : Nat → Nat → Nat → Bool) : EAct Unit :=
  let e := 32 * 2 ^ w.toNat
  vcompare c d k e fun t j => f e (t.elem a e j) (t.elem b e j)
/-- A floating compare of elements (R212). -/
def vcmpFloat (c : Command) (d : BitVec 3) (a b : BitVec 5) (k : BitVec 3) (w : BitVec 1) (f : Num → Num → Bool) : EAct Unit :=
  let e := 32 * 2 ^ w.toNat
  let g := floatOf (2 + w.toNat)
  vcompare c d k e fun t j => f (g.read (t.elem a e j)) (g.read (t.elem b e j))

/-- VCVT of an element: the stored bits and the flags (R215, R216, R244). -/
def cvtElem (dst src rm : Nat) (ovs : Bool) (x : Nat) : Nat × Word :=
  match intFmtOf dst, intFmtOf src with
  | some (sg, w), some _ =>
    let r := toInteger sg w rm (elemValue src x)
    (ofSigned w r.1, 0)
  | some (_, w), none =>
    let r := fcvtiValue dst src rm x
    (ofSigned w r.1, r.2.1)
  | none, _ =>
    let r := fcvtValue dst src rm ovs x
    (r.1, r.2.1)

/-! Permutations, reductions and selection (R247 to R250). -/

/-- A result that does not merge: the elements given, and zeros after them. -/
def vfill (c : Command) (d : BitVec 5) (e : Nat) (f : Thread → List Nat) : EAct Unit := do
  let s ← get
  let t := s.thread c.slot
  putV c d (packElems e ((f t).take (t.count e)))

/-- The elements that a mask admits, in ascending order. -/
def Thread.chosen (t : Thread) (a : BitVec 5) (k : BitVec 3) (e : Nat) : List Nat :=
  ((List.range (t.count e)).filter fun j => t.admits k e j).map fun j => t.elem a e j

/-- VEXPAND: admitted elements of vd take va[0], va[1], … (R247). -/
def expandElems (t : Thread) (d a : BitVec 5) (k : BitVec 3) (e : Nat) : List Nat :=
  ((List.range (t.count e)).foldl (fun (r : List Nat × Nat) j =>
    if t.admits k e j then (r.1 ++ [t.elem a e r.2], r.2 + 1) else (r.1 ++ [t.elem d e j], r.2)) ([], 0)).1

/-- The exact sum of F32 or F64 elements, rounded once (R249). -/
def sumFloat (f : FFmt) (rm : Nat) (ovs : Bool) (xs : List Num) : Nat × Word :=
  if xs.any Num.isNan then (f.nanBits, 0)
  else if xs.any (· == .inf false) && xs.any (· == .inf true) then (f.nanBits, flagNV)
  else
    let total := xs.foldl (fun a x => (a.add false x).getD .nan) (.fin false 0 1)
    let neg := xs.any Num.neg
    let pos := xs.any fun x => !x.neg
    let r : Num := if total.isZero then .fin (neg && (!pos || rm == 2)) 0 1 else total
    roundF f rm ovs r

/-- Whether row i ranks before row j by score (R250). -/
def ranksBefore (smallest : Bool) (x y : Nat × Num) : Bool :=
  if x.2.isNan then y.2.isNan && decide (x.1 < y.1)
  else if y.2.isNan then true
  else if x.2.eq y.2 then decide (x.1 < y.1)
  else x.2.lt y.2 == smallest

/-- VSELK's result (R250). -/
def selectRows (t : Thread) (a : BitVec 5) (k : BitVec 3) (w : Nat) (gb : Word) : List Nat :=
  let e := elemBits w
  let n := t.count e
  let rows := ((List.range n).filter fun j => t.admits k e j).map fun j => (j, (floatOf w).read (t.elem a e j))
  let ranked := (rows.mergeSort fun x y => ranksBefore (gb.getLsbD 7) x y || x.1 == y.1).map (·.1)
  (List.range n).map fun i => if i < wfield gb 6 0 then ranked.getD i (2 ^ e - 1) else 2 ^ e - 1

/-- VTRANS (R248). -/
def vtranspose (c : Command) (d : BitVec 2) (w : Nat) : EAct Unit := do
  let s ← get
  let t := s.thread c.slot
  let e := elemBits w
  let base := 8 * d.toNat
  seqE ((List.range 8).map fun i => putV c (BitVec.ofNat 5 (base + i)) (packElems e ((List.range (t.count e)).map fun x =>
    t.elem (BitVec.ofNat 5 (base + x % 8)) e (x / 8 * 8 + i))))

/-- The effect of a VOP or VPERM command or a short form (R25, R238 to R250). -/
def runLanes (c : Command) : EAct Unit :=
  let rm := wfield c.frm 2 0
  let ovs := c.frm.getLsbD 3
  let sw := c.width
  match c.instr with
  | .vmov d b m => vmap c d (shortMask m) (elemBits sw) fun t j => (t.elem b (elemBits sw) j, 0)
  | .vaddShort d b m => vint c d d b (shortMask m) sw (intElem 0)
  | .vsubShort d b m => vint c d d b (shortMask m) sw (intElem 1)
  | .vmulShort d b m => vint c d d b (shortMask m) sw (intElem 2)
  | .vminShort d b m => vint c d d b (shortMask m) sw (intElem 3)
  | .vmaxShort d b m => vint c d d b (shortMask m) sw (intElem 4)
  | .vandShort d b m => vint c d d b (shortMask m) sw (intElem 5)
  | .vorShort d b m => vint c d d b (shortMask m) sw (intElem 6)
  | .vxorShort d b m => vint c d d b (shortMask m) sw (intElem 7)
  | .vfaddShort d b m => vfloat c d d b (shortMask m) sw (floatElem 13)
  | .vfsubShort d b m => vfloat c d d b (shortMask m) sw (floatElem 14)
  | .vfmulShort d b m => vfloat c d d b (shortMask m) sw (floatElem 15)
  | .vfminShort d b m => vfloat c d d b (shortMask m) sw (floatElem 17)
  | .vfmaxShort d b m => vfloat c d d b (shortMask m) sw (floatElem 18)
  | .vfneg d b m => vmap c d (shortMask m) (elemBits sw) fun t j => (signF (floatOf sw) true (t.elem b (elemBits sw) j), 0)
  | .vabs d b m => vmap c d (shortMask m) (elemBits sw) fun t j =>
      (ofSigned (elemBits sw) (toSigned (elemBits sw) (t.elem b (elemBits sw) j)).natAbs, 0)
  | .vadd d a b k w => vint c d a b k w.toNat (intElem 0)
  | .vsub d a b k w => vint c d a b k w.toNat (intElem 1)
  | .vmul d a b k w => vint c d a b k w.toNat (intElem 2)
  | .vmin d a b k w => vint c d a b k w.toNat (intElem 3)
  | .vmax d a b k w => vint c d a b k w.toNat (intElem 4)
  | .vand d a b k w => vint c d a b k w.toNat (intElem 5)
  | .vor d a b k w => vint c d a b k w.toNat (intElem 6)
  | .vxor d a b k w => vint c d a b k w.toNat (intElem 7)
  | .vsll d a b k w => vint c d a b k w.toNat (intElem 8)
  | .vsrl d a b k w => vint c d a b k w.toNat (intElem 9)
  | .vsra d a b k w => vint c d a b k w.toNat (intElem 10)
  | .vaddsat d a b k w => vint c d a b k w.toNat (intElem 11)
  | .vdot4 d a b k => vmap c d k 32 fun t j => (dotLane (t.elem d 32 j) (t.elem a 32 j) (t.elem b 32 j), 0)
  | .vfadd d a b k w => vfloat c d a b k w.toNat (floatElem 13)
  | .vfsub d a b k w => vfloat c d a b k w.toNat (floatElem 14)
  | .vfmul d a b k w => vfloat c d a b k w.toNat (floatElem 15)
  | .vfmin d a b k w => vfloat c d a b k w.toNat (floatElem 17)
  | .vfmax d a b k w => vfloat c d a b k w.toNat (floatElem 18)
  | .vfma d a b k w =>
      let e := elemBits w.toNat
      let f := floatOf w.toNat
      vmap c d k e fun t j => fmaF f rm ovs (f.read (t.elem a e j)) (f.read (t.elem b e j)) (f.read (t.elem d e j))
  | .vrcp d a k w => vmap c d k (elemBits w.toNat) fun t j => rcpElem (floatOf w.toNat) rm ovs (t.elem a (elemBits w.toNat) j)
  | .vrsq d a k w => vmap c d k (elemBits w.toNat) fun t j => rsqElem (floatOf w.toNat) rm ovs (t.elem a (elemBits w.toNat) j)
  | .vrcps d a b k w => vfloat c d a b k w.toNat (refineElem false)
  | .vrsqs d a b k w => vfloat c d a b k w.toNat (refineElem true)
  | .vcmpeq d a b k w => vcmpInt c d a b k w fun _ x y => x == y
  | .vcmplt d a b k w => vcmpInt c d a b k w fun e x y => decide (toSigned e x < toSigned e y)
  | .vcmpltn d a b k w => vcmpInt c d a b k w fun _ x y => decide (x < y)
  | .vfcmpeq d a b k w => vcmpFloat c d a b k w Num.eq
  | .vfcmplt d a b k w => vcmpFloat c d a b k w Num.lt
  | .vsel d a b k w => do
      let s ← get
      let t := s.thread c.slot
      let set (i : Nat) : Bool := t.laneSet k (if w = 3#2 then i / 2 * 2 else i)
      putV c d (packElems 32 ((List.range t.grant).map fun i => t.elem (if set i then a else b) 32 i))
  | .vcvt d a b s => do
      let st ← get
      let t := st.thread c.slot
      let rs := (List.range (t.count (max (fmtWidth s.toNat) (fmtWidth b.toNat)))).map fun j =>
        cvtElem b.toNat s.toNat rm ovs (t.elem a (fmtWidth s.toNat) j)
      vflags c (rs.foldl (fun x r => x ||| r.2) 0)
      putV c d (packElems (fmtWidth b.toNat) (rs.map (·.1)))
  | .vlut d a h k => vmap c d k 8 fun t j =>
      (field c.codes.toNat (8 * t.elem a 4 (4 * t.grant * h.toNat + j) + 7) (8 * t.elem a 4 (4 * t.grant * h.toNat + j)), 0)
  | .vbcast d _ k w => vmap c d k (elemBits w.toNat) fun _ _ => (c.ga.toNat % 2 ^ elemBits w.toNat, 0)
  | .vperm d a b k w =>
      let e := elemBits w.toNat
      vmap c d k e fun t j => (t.elem a e (t.elem b e j % t.count e), 0)
  | .vrotl d a _ k w =>
      let e := elemBits w.toNat
      vmap c d k e fun t j => (t.elem a e ((j + t.count e - c.ga.toNat % t.count e) % t.count e), 0)
  | .vtrans d w => vtranspose c d w.toNat
  | .vrsum d a k w => vfill c d (elemBits w.toNat) fun t => [(t.chosen a k (elemBits w.toNat)).foldl (· + ·) 0 % 2 ^ elemBits w.toNat]
  | .vrmin d a k w =>
      let e := elemBits w.toNat
      vfill c d e fun t => [(t.chosen a k e).foldl (minMaxI false e) (2 ^ (e - 1) - 1)]
  | .vrmax d a k w =>
      let e := elemBits w.toNat
      vfill c d e fun t => [(t.chosen a k e).foldl (minMaxI true e) (2 ^ (e - 1))]
  | .vfrsum d a k w => do
      let s ← get
      let t := s.thread c.slot
      let e := elemBits w.toNat
      let f := floatOf w.toNat
      let r := if w = 1#2 then
          narrowAccumulate 0 ((List.range (t.count e)).map fun j =>
            (if t.admits k e j then f.read (t.elem a e j) else .fin false 0 1, .fin false 1 1)) ovs
        else sumFloat f rm ovs ((t.chosen a k e).map f.read)
      vflags c r.2
      putV c d r.1
  | .vscan d a k w =>
      let e := elemBits w.toNat
      vmap c d k e fun t j =>
        ((((List.range (j + 1)).filter fun i => t.admits k e i).map fun i => t.elem a e i).foldl (· + ·) 0 % 2 ^ e, 0)
  | .vcompress d a k w => vfill c d (elemBits w.toNat) fun t => t.chosen a k (elemBits w.toNat)
  | .vexpand d a k w => vfill c d (elemBits w.toNat) fun t => expandElems t d a k (elemBits w.toNat)
  | .vselk d a _ k w => vfill c d (elemBits w.toNat) fun t => selectRows t a k w.toNat c.ga
  | .viota d k w => vmap c d k (elemBits w.toNat) fun _ j => (j % 2 ^ elemBits w.toNat, 0)
  | .vpopk d k w => vfill c d (elemBits w.toNat) fun t =>
      [((List.range t.grant).filter fun i => t.laneSet k i).length % 2 ^ elemBits w.toNat]
  | .vmvv d _ _ w => do
      let s ← get
      let e := elemBits w.toNat
      if c.gb.toNat < (s.thread c.slot).count e then
        modify fun s => s.modThread c.slot fun t => t.setElem d e c.gb.toNat (c.ga.toNat % 2 ^ e)
      pushStrip c d
  | .kset k _ => modify fun s => s.modThread c.slot fun t =>
      if k = 0#3 then t else { t with k := set8 t.k k (c.ga &&& laneMask t.grant) }
  | _ => pure ()

end Sys2Proof.Machine
end

