-- ==== Sys2Proof/Machine/VectorMem.lean ====
section
/-! DEFINITION. Vector memory and key-routed sends: the VMEM instructions and KSEND at issue (R233, R245, R251), the
execution of the oldest command of a thread (R232, R234, R235, R245, R246, R251), and the receiving units (R252). -/

namespace Sys2Proof.Machine

/-! Issue (R233, R245). -/

/-- Steps 4 and 6 of R233 for a tagged base and a stride: the .p tag, and the bits that must be zero. -/
def tagChecks (stride : Bool) (gs : List (BitVec 5)) (s : State) : Act (List (BitVec 512)) := do
  let ga := s.checkValue gs
  require (wfield ga 63 62 != 3 || s.th.privileged) 0 2 ga
  require (wfield ga 61 56 == 0 && (!stride || wfield (s.checkValue (gs.drop 1)) 63 32 == 0)) 2 5 ga
  return []

/-- Steps 5 to 7 of R233 for a tensor's elements. -/
def tensorChecks (write : Bool) (gs : List (BitVec 5)) (w : Nat) (s : State) : Act (List (BitVec 512)) := do
  let ga := s.checkValue gs
  let e ← resolve 2 (wfield ga 11 0) ga
  let t := Tensor.ofEntry e
  require (wfield ga 63 52 == 0 && t.w == elemBits w && t.format != 14 && (sxbOf t.format).isNone) 2 5 ga
  if write && t.wprot then violation 2 16 ga
  return [e]

/-- VLD (R245). -/
def execVld (d a : BitVec 5) (k : BitVec 3) (w : BitVec 2) (s : State) : Host.Outcome State Fault Refusal :=
  done (vectorIssue (.vld d a k w) 4 [a] [] [d] (tagChecks false [a])) s
/-- VST (R245). -/
def execVst (d a : BitVec 5) (k : BitVec 3) (w : BitVec 2) (s : State) : Host.Outcome State Fault Refusal :=
  done (vectorIssue (.vst d a k w) 4 [a] [d] [] (tagChecks false [a])) s
/-- VLDS (R245). -/
def execVlds (d a b : BitVec 5) (k : BitVec 3) (w : BitVec 2) (s : State) : Host.Outcome State Fault Refusal :=
  done (vectorIssue (.vlds d a b k w) 4 [a, b] [] [d] (tagChecks true [a, b])) s
/-- VSTS (R245). -/
def execVsts (d a b : BitVec 5) (k : BitVec 3) (w : BitVec 2) (s : State) : Host.Outcome State Fault Refusal :=
  done (vectorIssue (.vsts d a b k w) 4 [a, b] [d] [] (tagChecks true [a, b])) s
/-- VLDX (R245). -/
def execVldx (d a b : BitVec 5) (k : BitVec 3) (w : BitVec 1) (s : State) : Host.Outcome State Fault Refusal :=
  done (vectorIssue (.vldx d a b k w) 4 [a] [b] [d] (tagChecks false [a])) s
/-- VSTX (R245). -/
def execVstx (d a b : BitVec 5) (k : BitVec 3) (w : BitVec 1) (s : State) : Host.Outcome State Fault Refusal :=
  done (vectorIssue (.vstx d a b k w) 4 [a] [d, b] [] (tagChecks false [a])) s
/-- VSTXA (R245). -/
def execVstxa (d a b : BitVec 5) (k : BitVec 3) (w : BitVec 1) (s : State) : Host.Outcome State Fault Refusal :=
  done (vectorIssue (.vstxa d a b k w) 4 [a] [d, b] [] (tagChecks false [a])) s
/-- VLDT (R245). -/
def execVldt (d a : BitVec 5) (k : BitVec 3) (w : BitVec 2) (s : State) : Host.Outcome State Fault Refusal :=
  done (vectorIssue (.vldt d a k w) 4 [a] [] [d] (tensorChecks false [a] w.toNat)) s
/-- VSTT (R245). -/
def execVstt (d a : BitVec 5) (k : BitVec 3) (w : BitVec 2) (s : State) : Host.Outcome State Fault Refusal :=
  done (vectorIssue (.vstt d a k w) 4 [a] [d] [] (tensorChecks true [a] w.toNat)) s

/-- KSEND: its d field names the general register of the group; a task escalates (R235, R251). Its a and b fields name no
general register, so a check's TVAL is 0 (R456). -/
def execKsend (d a b : BitVec 5) (k : BitVec 3) (s : State) : Host.Outcome State Fault Refusal :=
  done (do
    useRegsAs 0#64 [d] []
    vectorEntry 0#64
    escalate
    let s ← get
    acceptVector (.ksend d a b k) 4 [d] [a, b] [] (s.rd d) 0#64 []) s

/-! Accesses of a command (R234, R235, R245, R246). -/

/-- A thread's action made by a command: one that would wait blocks the command, and the slot's own wait stays as it was. -/
def liftAct (a : Act α) : EAct α := fun s =>
  match a s with
  | .ok r => .ok r
  | .error s' => .error ({ s' with th := { s'.th with wait := s.th.wait } }, .blocked)

/-- Where an element of n bytes lies: its alignment, R201 from step 3 on, the escalation for a C = 0 page, SpecRead and
SpecWrite for the command's thread, and its home's answer (R90, R139, R235, R245). -/
def eVector (c : Command) (core am a n : Nat) (k : AccessKind) : EAct Nat := do
  if a % n ≠ 0 then eFault 1 1 a
  let pa ← eLocate (c.issuer core) c.seq am a n k 0
  let s ← get
  let uncached := am == 0 && (match s.tlbLookup core .load c.asid a with
    | some e => !e.cacheable
    | none => false)
  EAct.asSlot c.slot (liftAct (do
    if uncached && !inLm pa then escalate
    if k != .store then specAccess pa n false
    if k.writes then specAccess pa n true))
  eRequire fun s => !s.stopped pa
  let s ← get
  let h := s.homeLines (.number c.seq) (s.requesterOf c.slot) pa n k.writes
  set h.1
  if h.2 then return pa else eBlocked

/-- A load of an element: the thread's stores still in its store buffer give their bytes (R246). -/
def eVecLoad (c : Command) (core am a n : Nat) : EAct Nat := do
  let pa ← eVector c core am a n .load
  let s ← get
  let s := s.focus c.slot
  if s.loadPoisoned pa n then eFault 1 13 a else return leNat (s.loadBytes pa n)

/-- A store of an element, which waits for the thread's earlier stores to the same bytes (R246). -/
def eVecStore (c : Command) (core am a n x : Nat) : EAct Unit := do
  let pa ← eVector c core am a n .store
  eRequire fun s => !(s.thread c.slot).sbOverlaps pa n
  let s ← get
  if s.poisonNarrow pa n then eFault 1 13 a else set (s.perform pa (leBytes n x))

/-- An atomic add of an element, modulo 2^e (R245). -/
def eVecAdd (c : Command) (core am a n x : Nat) : EAct Unit := do
  let pa ← eVector c core am a n .rmw
  eRequire fun s => !(s.thread c.slot).sbOverlaps pa n
  let s ← get
  if s.poisoned pa n then eFault 1 13 a else set (s.perform pa (leBytes n ((leNat (s.bytes pa n) + x) % 2 ^ (8 * n))))

/-- Changes the command of a number in a core's vector queue. -/
def State.modVector (s : State) (core seq : Nat) (f : Command → Command) : State :=
  s.modCoreAt core fun x => { x with vq := x.vq.map fun y => if y.seq = seq then f y else y }

/-- The elements of a VMEM command from the first unperformed one on, in ascending order; a masked-off element makes no
access (R245). f loads or stores element j. -/
def vecElems (c : Command) (core : Nat) (k : BitVec 3) (e : Nat) (f : Thread → Nat → EAct Unit) : EAct Unit := do
  let s ← get
  let n := (s.thread c.slot).count e
  seqE ((List.range (n - c.done)).map fun i => do
    let j := c.done + i
    let s ← get
    let t := s.thread c.slot
    if t.admits k e j then f t j
    modify fun s => s.modVector core c.seq fun y => { y with done := j + 1 })

/-- Sets element j of a command's destination. -/
def vecSet (c : Command) (d : BitVec 5) (e j x : Nat) : EAct Unit := modify fun s => s.modThread c.slot fun t => t.setElem d e j x

/-- The address of an element: the tagged base with an offset (R245). -/
def vecAddr (c : Command) (off : Int) : Nat := (taggedAddr c.ga off).toNat
/-- The mode of a tagged base. -/
def vecMode (c : Command) : Nat := wfield c.ga 63 62
/-- SExt(g[b][31:0], 32) of a strided command. -/
def vecStride (c : Command) : Int := (c.gb.truncate 32 : BitVec 32).toInt

/-- A VMEM load: its elements, and the strip of an output stream (R175, R245). -/
def vecLoad (c : Command) (core : Nat) (d : BitVec 5) (k : BitVec 3) (e : Nat) (off : Thread → Nat → Int) : EAct Unit := do
  vecElems c core k e fun t j => do
    let x ← eVecLoad c core (vecMode c) (vecAddr c (off t j)) (e / 8)
    vecSet c d e j x
  pushStrip c d
/-- A VMEM store (R245). -/
def vecStore (c : Command) (core : Nat) (d : BitVec 5) (k : BitVec 3) (e : Nat) (off : Thread → Nat → Int) : EAct Unit :=
  vecElems c core k e fun t j => eVecStore c core (vecMode c) (vecAddr c (off t j)) (e / 8) (t.elem d e j)

/-- The tensor of VLDT and VSTT, and the column of element j (R245). -/
def vecTensor (c : Command) : Tensor := Tensor.ofEntry (c.tensors.headD 0)
/-- row0 of g[a]. -/
def vecRow (c : Command) : Nat := wfield c.ga 31 12
/-- The column col0 + j. -/
def vecCol (c : Command) (j : Nat) : Nat := wfield c.ga 51 32 + j

/-! KSEND (R251). -/

/-- h(key) of R251. -/
def keyHash (key m : Nat) : Nat := key * 0x9E3779B1 % 2 ^ 32 * m / 2 ^ 32

/-- Number of bins of a receiving unit (R252). -/
def binCount (krcv : Word) : Nat := wfield krcv 31 16 + 1
/-- Offset of bin b in the receiver's local memory (R252). -/
def binOffset (krcv : Word) (b : Nat) : Nat := wfield krcv 15 0 * 4 + 4 * b
/-- The physical address of the bin of a key at a core. -/
def State.binPa (s : State) (core key : Nat) : Nat :=
  let r := (s.core core).krcv
  window (globalCore core) + binOffset r (key % binCount r)

/-- The effect of KSEND, once the thread's earlier stores have performed (R295): the group's checks, its ASID before its members (log 112),
the PERMW check of every element, and then the sends in ascending order (R251). -/
def runKsend (c : Command) (core : Nat) (a b : BitVec 5) (k : BitVec 3) : EAct Unit := do
  eRequire fun s => s.storesBefore c.slot c.seq
  if 1024 ≤ c.ga.toNat then eFault 2 5 c.ga.toNat
  let s ← get
  match s.group c.ga.toNat with
  | none => eFault 2 5 c.ga.toNat
  | some g =>
    let ms := g.members.mergeSort fun x y => decide (x % 32768 ≤ y % 32768)
    if g.asid ≠ c.asid then eStop (.fault { code := code 5 39, tval := c.ga, violation := true })
    if ms.isEmpty then eFault 2 5 c.ga.toNat
    let t := s.thread c.slot
    let sends := ((List.range t.grant).filter (t.laneSet k)).map fun j =>
      (coreOf (ms.getD (keyHash (t.elem a 32 j) ms.length) 0), t.elem a 32 j, t.elem b 32 j)
    match sends.find? fun x => !s.lmPermits (c.issuer core) (s.binPa x.1 x.2.1) .store with
    | some x => eStop (.fault { code := code 1 10, tval := BitVec.ofNat 64 (s.binPa x.1 x.2.1), violation := true })
    | none =>
      set (sends.foldl (fun s x => s.modCoreAt x.1 fun y =>
        { y with keys := y.keys ++ [{ slot := c.slot, dom := t.workDomain, key := BitVec.ofNat 64 x.2.1, value := BitVec.ofNat 64 x.2.2 }] }) s)

/-! Execution (R232, R234, R235). -/

/-- The strips that a command's sources have popped are in its registers from its first execution on (R175, R245). -/
def State.startVector (s : State) (core : Nat) (c : Command) : State :=
  if c.started then s else (s.putStrips c.slot c.extra).modVector core c.seq fun y => { y with started := true }

/-- The whole effect of a vector command, from its first unperformed element on. -/
def runVector (c : Command) (core : Nat) : EAct Unit := do
  modify fun s => s.startVector core c
  match c.instr with
  | .vld d _ k w => vecLoad c core d k (elemBits w.toNat) fun _ j => (j * 2 ^ w.toNat : Nat)
  | .vst d _ k w => vecStore c core d k (elemBits w.toNat) fun _ j => (j * 2 ^ w.toNat : Nat)
  | .vlds d _ _ k w => vecLoad c core d k (elemBits w.toNat) fun _ j => j * vecStride c
  | .vsts d _ _ k w => vecStore c core d k (elemBits w.toNat) fun _ j => j * vecStride c
  | .vldx d _ b k w => vecLoad c core d k (32 * 2 ^ w.toNat) fun t j => t.elem b (32 * 2 ^ w.toNat) j
  | .vstx d _ b k w => vecStore c core d k (32 * 2 ^ w.toNat) fun t j => t.elem b (32 * 2 ^ w.toNat) j
  | .vstxa d _ b k w =>
      let e := 32 * 2 ^ w.toNat
      vecElems c core k e fun t j => eVecAdd c core (vecMode c) (vecAddr c (t.elem b e j)) (e / 8) (t.elem d e j)
  | .vldt d _ k w => do
      let e := elemBits w.toNat
      let x := vecTensor c
      vecElems c core k e fun _ j =>
        if x.has (vecRow c) (vecCol c j) then do
          let v ← eVecLoad c core 0 (x.elemBit (vecRow c) (vecCol c j) / 8) (e / 8)
          vecSet c d e j v
        else vecSet c d e j 0
      pushStrip c d
  | .vstt d _ k w =>
      let e := elemBits w.toNat
      let x := vecTensor c
      vecElems c core k e fun t j =>
        if x.has (vecRow c) (vecCol c j) then eVecStore c core 0 (x.elemBit (vecRow c) (vecCol c j) / 8) (e / 8) (t.elem d e j)
        else pure ()
  | .ksend _ a b k => runKsend c core a b k
  | _ => runLanes c

/-- Removes a command of a thread from its core's vector queue; PEND falls (R233). -/
def State.endVector (s : State) (core : Nat) (c : Command) : State :=
  (s.modCoreAt core fun x => { x with vq := x.vq.filter fun y => y.seq != c.seq }).modThread c.slot fun t => t.pendDown 2#2

/-- Ends a command at an element: it and every later command of its thread are discarded; VFPC, cause and address are recorded, and FLT
is set where hold is set (R234). -/
def State.discardVector (s : State) (core : Nat) (c : Command) (f : HeldFault) (hold : Bool) : State :=
  let s := ((s.core core).vq.filter fun y => y.slot == c.slot && decide (c.seq ≤ y.seq)).foldl (fun s y => s.endVector core y) s
  let mark (t : Thread) : Thread := { t with vfpc := faultPc c.pc }
  if hold then s.holdFault c.slot 2#2 f mark else s.recordDiscard c.slot 2#2 f mark

/-- What a fault or a breach makes of a command (R234). -/
def State.stopVector (s : State) (core : Nat) (c : Command) (k : Cause) : State :=
  let f : HeldFault := { code := k.code, addr := k.tval, seq := c.seq }
  if k.violation then (s.modVector core c.seq fun y => { y with frozen := some f }).reportCommand c.slot 4 0 f
  else s.discardVector core c f true

/-- VECTOR_COMMAND_EXECUTE: the oldest command of a thread executes, or the part of it that nothing holds back (R232). -/
def execVectorCommandExecute (slot : Nat) (s : State) : Host.Outcome State Fault Refusal :=
  let core := coreOf slot
  .next (match (s.core core).vq.find? fun y => y.slot == slot with
    | some c =>
      if c.frozen.isSome || s.joinHeld slot c.seq 0 || (s.tile (core / 8)).delayed then s
      else match (runVector c core).run' s with
        | (s, .ok _) => s.endVector core c
        | (s, .error .blocked) => s
        | (s, .error (.fault k)) => s.stopVector core c k
    | none => s)

/-! The receiving units (R252). -/

/-- The new value of a bin (R252). -/
def binValue (krcv : Word) (old v : Nat) : Nat :=
  let fmt := wfield krcv 37 33
  match wfield krcv 39 38 with
  | 0 => if fmt = 10 then
      (match (f32.read old).add false (f32.read v) with
        | none => f32.nanBits
        | some x => (roundF f32 0 (krcv.getLsbD 40) x).1)
    else (old + v) % 2 ^ 32
  | 3 => min (old + 1) (2 ^ 32 - 1)
  | op =>
    let max := op == 2
    if fmt = 10 then minMaxF f32 max old v
    else if (intFmtOf fmt).any (·.1) then minMaxI max 32 old v
    else if max then Nat.max old v else Nat.min old v

/-- BIN_UPDATE: the oldest element that has arrived is applied, or discarded while EN = 0. The update is a non-speculative
write that waits for a watermark and for the aborts it forces (R18, R252). -/
def execBinUpdate (core : Nat) (s : State) : Host.Outcome State Fault Refusal :=
  let x := s.core core
  .next (match x.keys with
    | [] => s
    | u :: rest =>
      let r := x.krcv
      if !r.getLsbD 41 then
        s.setCore core { x with keys := rest, krcv := setField r 63 48 (min (wfield r 63 48 + 1) 65535) }
      else
        let pa := s.binPa core u.key.toNat
        if s.unlanded pa 4 0 then s
        else
          let f := s.forceAborts .nonSpec none pa 4 true
          if f.2 then
            let s := f.1.perform pa (leBytes 4 (binValue r (leNat (f.1.bytes pa 4)) u.value.toNat))
            s.modCoreAt core fun y => { y with keys := rest }
          else f.1)

end Sys2Proof.Machine
end

