-- ==== Sys2Proof/Machine/Thaw.lean ====
section
/-! DEFINITION. What a write to THAW does to a frozen thread, command or transfer (R390). -/

namespace Sys2Proof.Machine

/-- The threads a handle can name: the slot it reaches, and the saved contexts of that handle (R347, R376, R391). -/
def State.named (s : State) (handle : Nat) : List Nat :=
  s.forwarded handle :: s.saved.filter fun k => k % 32768 == handle

/-- The earliest frozen command of a thread among those of a kind of queue, with its core: the commands of a thread that has moved
stay where they were accepted (R122, R390). -/
def State.frozenCommand (s : State) (queue : Core → List Command) (slot : Nat) : Option (Nat × Command) :=
  (s.cores.flatMap fun c => ((queue c.2).filter fun y => y.slot == slot && y.frozen.isSome).map fun y => (c.1, y)).foldl
    (fun r c => match r with
      | none => some c
      | some x => if c.2.seq < x.2.seq then some c else r) none

/-- The frozen transfer of a thread on a channel, with its tile. -/
def State.frozenTransfer (s : State) (slot ch : Nat) : Option (Nat × Transfer) :=
  s.tiles.findSome? fun t => ((t.2.chan ch).transfers.find? fun y => y.slot == slot && y.frozen.isSome).map fun y => (t.1, y)

/-- Whether a thread has a frozen master of a kind: itself, a transfer of a channel, or a command (R390). -/
def State.hasFrozen (s : State) (kind ch slot : Nat) : Bool :=
  match kind with
  | 0 => (s.thread slot).frozen.isSome
  | 1 => (s.frozenTransfer slot ch).isSome
  | 2 => (s.frozenCommand (·.sq) slot).isSome
  | 3 => (s.frozenCommand (·.mq) slot).isSome
  | 4 => (s.frozenCommand (·.vq) slot).isSome
  | _ => false

/-- A command that goes on. -/
def thawIn (n : Nat) (l : List Command) : List Command := l.map fun y => if y.seq = n then { y with frozen := none } else y

/-- Thaws a frozen master: it goes on at the breaching element or instruction. A thread fetches anew what it holds as a failure, and
renegotiates its lanes before its next instruction, or where it is saved as it resumes (R225, R313, R390). -/
def State.thaw (s : State) (kind ch slot : Nat) : State :=
  match kind with
  | 0 =>
    let s := s.modThread slot fun t => { t with frozen := none, fbuf := { t.fbuf with fail := none } }
    if (s.thread slot).park.isSome then s else s.renegotiateNext slot
  | 1 => match s.frozenTransfer slot ch with
    | some (tile, t) => s.modTransfer tile ch t.seq fun y => { y with frozen := none }
    | none => s
  | 2 => match s.frozenCommand (·.sq) slot with
    | some (core, c) => s.modCoreAt core fun x => { x with sq := thawIn c.seq x.sq }
    | none => s
  | 3 => match s.frozenCommand (·.mq) slot with
    | some (core, c) => s.modCoreAt core fun x => { x with mq := thawIn c.seq x.mq }
    | none => s
  | _ => match s.frozenCommand (·.vq) slot with
    | some (core, c) => s.modCoreAt core fun x => { x with vq := thawIn c.seq x.vq }
    | none => s

/-- Discards the queued commands of a core that a test accepts; PEND of their threads falls (R122, R234, R279). -/
def State.dropQueued (s : State) (core : Nat) (p : Command → Bool) : State :=
  let lower (u : EUnit) (l : List Command) (s : State) : State := (l.filter p).foldl (fun s c => s.modThread c.slot fun t => t.pendDown u) s
  let x := s.core core
  let keep (l : List Command) : List Command := l.filter fun c => !p c
  (lower 2#2 x.vq (lower 3#2 x.mq (lower 0#2 x.sq s))).modCoreAt core fun x => { x with vq := keep x.vq, mq := keep x.mq, sq := keep x.sq }

/-- Stops every open transfer of a thread and discards its queued commands, wherever they were accepted; a completed transfer still
pushes the handle that it owes. What a CSTOP of the thread has stopped goes with it (R164, R169, R390). -/
def State.dropCommands (s : State) (slot : Nat) : State :=
  let l := s.tiles.flatMap fun t => (List.range 16).flatMap fun ch =>
    ((t.2.chan ch).transfers.filter fun y => (y.slot == slot && (!y.finishing || y.follow.isSome)) || y.stopped == some slot).map fun y => (t.1, ch, y)
  let s := l.foldl (fun s x => s.removeTransfer x.1 x.2.1 x.2.2) s
  (s.cores.map (·.1)).foldl (fun s c => s.dropQueued c (·.slot == slot)) s

/-- The image of a thread that is gone, if it is a saved context, is no longer one (R390, R391). -/
def State.closeContext (s : State) (key : Nat) : State :=
  match (s.thread key).park with
  | some p => s.closeImage p
  | none => s
/-- A saved context leaves the device. -/
def State.eraseContext (s : State) (key : Nat) : State :=
  { s with threads := assocErase key s.threads, migrating := s.migrating.filter fun m => m.2.2 != key }

/-- A thread or unordered task that is gone: its stores performed, what it held released, and its slot free, or its saved
context no longer one (R364, R390, R391). -/
def State.removeThread (s : State) (key : Nat) : State :=
  let s := (((s.drainAll key).release key).forget key).closeContext key
  if (s.thread key).park.isSome then s.eraseContext key
  else (s.modThread key fun t => { t.vacate with inbox := if t.kind = .persistent then [] else t.inbox }).rebalance (tileOf key) false

/-- Discards a frozen thread: an ordered task is aborted and dropped, any other ends; its launch counts it as lost with the
freeze's code and value (R363, R390). -/
def State.discardThread (s : State) (key : Nat) : State :=
  let t := s.thread key
  let c := t.frozen.getD { code := 0, tval := 0, violation := true }
  let lost (s : State) (l : Option Nat) : State := s.pieceLost l c.code c.tval
  let s := s.dropCommands key
  match t.entry with
  | some (tl, e) =>
    let s := ((s.release key).closeContext key).abortAll (s.abortFuel 1) [(tl, e, true)]
    let s := if t.park.isSome then s.eraseContext key else s.rebalance (tileOf key) false
    lost s (t.task.bind (·.launch))
  | none => lost (s.removeThread key) (match t.kind with
      | .persistent => t.launch
      | _ => t.task.bind (·.launch))

/-- Discards a frozen master; a command ends as a faulted one does, without FLT (R122, R169, R171, R234, R280, R390). -/
def State.discardMaster (s : State) (kind ch slot : Nat) : State :=
  let breach (c : Command) : HeldFault := c.frozen.getD { code := 0, addr := 0, seq := c.seq }
  match kind with
  | 0 => s.discardThread slot
  | 1 => match s.frozenTransfer slot ch with
    | some (tile, t) => s.removeTransfer tile ch t
    | none => s
  | 2 => match s.frozenCommand (·.sq) slot with
    | some (core, c) => s.endStack core c (breach c) false
    | none => s
  | 3 => match s.frozenCommand (·.mq) slot with
    | some (core, c) => s.faultMatrix core c (breach c) false
    | none => s
  | _ => match s.frozenCommand (·.vq) slot with
    | some (core, c) => s.discardVector core c (breach c) false
    | none => s

/-- RES of a write to THAW. -/
def Thread.thawed (t : Thread) (r : Nat) : Thread := { t with thaw := BitVec.ofNat 64 (r * 2 ^ 62) }

/-- A write to THAW by the thread in focus with an ACT of 1 or 2 (R390). -/
def State.thawWrite (s : State) (discard : Bool) (kind ch handle : Nat) : State :=
  let res (s : State) (r : Nat) : State := { s with th := s.th.thawed r }
  match (s.named handle).find? fun k => s.hasFrozen kind ch k with
  | none => res s 1
  | some k =>
    if s.th.mode != 3#2 && wfield (s.thread k).asid 13 0 != wfield s.th.asid 13 0 then res s 2
    else if discard then (res s 0).discardMaster kind ch k
    else (res s 0).thaw kind ch k

/-- THAW_MASTER: the effect of a THAW write with ACT = 1 by the thread in focus (R390). -/
def execThawMaster (kind ch handle : Nat) (s : State) : Host.Outcome State Fault Refusal :=
  event (s.thawWrite false kind ch handle)
/-- DISCARD_MASTER: the effect of a THAW write with ACT = 2 by the thread in focus (R390). -/
def execDiscardMaster (kind ch handle : Nat) (s : State) : Host.Outcome State Fault Refusal :=
  event (s.thawWrite true kind ch handle)

end Sys2Proof.Machine
end

