-- ==== Sys2Proof/Machine/Errors.lean ====
section
/-! DEFINITION. Errors of the hardware: corrected and uncorrectable errors (R146), the takeover of a cluster by a spare (R396 to
R398), the Mengeton links (R407, R408), the CXL ports (R383), and the power controller and power gating (R144, R413, R414). -/

namespace Sys2Proof.Machine

/-- An error record whose TVAL the manual does not give (log 5). -/
def State.logErrorFree (s : State) (die codeNo : Nat) : State :=
  let (v, s) := s.freeWord
  s.logError die codeNo v

/-- CORRECTED_ERROR: the error is fixed and counted (R146, R415). -/
def execCorrectedError (tile : Nat) (s : State) : Host.Outcome State Fault Refusal :=
  event (s.modTileAt tile fun t => { t with corrected := t.corrected + 1 })

/-! Uncorrectable errors (R146). -/

/-- The keys of a tile's cores. -/
def tileCores (tile : Nat) : List Nat := (List.range 8).map (8 * tile + ·)

/-- Drops a clean line from the L1s of a core. -/
def State.dropL1 (s : State) (c line : Nat) : State :=
  s.modCoreAt c fun x => { x with l1d := mruErase line x.l1d, l1i := x.l1i.filter (· != line) }

/-- An uncorrectable error in the data of a physical address as a tile holds it: a clean copy in an L1, the L2 slice or the
remote-data cache is dropped, and the unit that detected the error in a modified copy, in local memory or in HBM is poisoned
(R146, R147). -/
def State.dataError (s : State) (tile pa : Nat) : State :=
  let line := lineOf pa
  let unit (n : Nat) : State := s.poisonUnit (pa / n * n) n
  if inLm pa then unit 8
  else if !coherent pa then s
  else match (tileCores tile).find? fun c => (mruFind line (s.core c).l1d).isSome || (s.core c).l1i.contains line with
    | some c => if mruFind line (s.core c).l1d = some .m then unit 8 else s.dropL1 c line
    | none =>
      match mruFind line (s.tile tile).l2 with
      | some true => unit 16
      | some false => s.modTileAt tile fun t => { t with l2 := mruErase line t.l2 }
      | none =>
        match (s.die (tile / 128)).rdc.find? fun r => r.2.1 == line with
        | some (_, _, .m) => unit 32
        | some _ => s.recallDie (tile / 128) line
        | none => unit 32

/-! Takeover (R396, R397). -/

/-- The keys of a cluster's tiles. -/
def clusterTiles (die cluster : Nat) : List Nat := (List.range 4).map (128 * die + 4 * cluster + ·)

/-- A thread of a failed tile is lost: it is reported with 7.20 and a free value, and its launch counts it as ended with the
error (R363, R389, R396). -/
def State.loseThread (s : State) (h : Nat) : State :=
  let t := s.thread h
  if t.kind = .empty then s
  else
    let (v, s) := s.freeWord
    let s := (s.reportFreeze h { code := code 7 20, tval := v, violation := true }).release h
    let s := (s.forget h).modThread h fun t => { t.vacate with inbox := [] }
    s.pieceLost (match t.kind with
      | .persistent => t.launch
      | _ => t.task.bind (·.launch)) (code 7 20) 0#64

/-- The ordered domains that have a task running, finished or untaken on a tile. -/
def Tile.domains (t : Tile) : List Nat :=
  t.commit.map (·.2.task.dom) ++ ((t.waiting ++ t.spilled.map (·.2.2)).filter (·.ordered)).map (·.dom)

/-- A domain is lost: its tasks on the other tiles are aborted, its dispatch stops, and 5.42 is recorded (R396). -/
def State.loseDomain (s : State) (die dom : Nat) : State :=
  let l := (s.entries.filter fun e => e.2.2.task.dom == dom).map fun e => (e.1, e.2.1)
  let s := s.abort l
  (s.setDomain dom { s.domain dom with stopped := true }).logErrorFree die (code 5 42)

/-- A core of a failed cluster loses what R397 does not keep: every line its L1 held in M is poisoned at its home, and its
queues, units and translations are empty, PEND falling for the commands in them. -/
def State.failCore (s : State) (c : Nat) : State :=
  let s := s.dropQueued c fun _ => true
  let m := ((s.core c).l1d.filter fun e => e.2 == .m).map (·.1) ++ ((s.core c).wbuf.filter fun w => w.2.1 == .m).map (·.1)
  let s := m.foldl (fun s l => (s.writtenBack l).poisonLine l) s
  s.modCoreAt c fun x => { Core.reset with
    permr := x.permr, permw := x.permw, krcv := x.krcv, wake := x.wake, ready := x.ready }

/-- Stops every open transfer on a tile's channels; one that has completed already counts no longer (R169, R397). -/
def State.stopTransfers (s : State) (tile : Nat) : State :=
  (List.range 16).foldl (fun s ch => ((s.tile tile).chan ch).transfers.foldl (fun s t => s.removeTransfer tile ch t) s) s

/-- A tile of a failed cluster: its commands stop, its tasks and its units' state are lost; its registers, contexts and slices
go to the spare (R396, R397). -/
def State.failTile (s : State) (tile : Nat) : State :=
  let s := (s.threads.filter fun t => t.2.park.isSome && tileOf t.1 == tile).foldl (fun s t =>
    (s.dropCommands t.1).modThread t.1 fun t => t.setGrant 0) s
  let s := (tileCores tile).foldl State.failCore (s.stopTransfers tile)
  let gone := (s.tile tile).waiting ++ (s.tile tile).spilled.map (·.2.2)
  let s := (gone.filter (!·.ordered)).foldl (fun s t => s.pieceLost t.launch (code 7 20) 0#64) s
  let s := (s.tile tile).l2.foldl (fun s l => if l.2 then s.l2WriteBack l.1 else s) s
  let again (l : Nat × Launch) : Nat × Launch :=
    if l.2.starting.any fun h => tileOf h == tile then (l.1, { l.2 with starting := none, copied := 0 }) else l
  let s : State := { s with launches := s.launches.map again }
  s.modTileAt tile fun t => { Tile.reset with
    mbudget := t.mbudget, spillctl := t.spillctl, crumbbase := t.crumbbase, ctxbase := t.ctxbase, monctl := t.monctl
    monsel := t.monsel, monitors := t.monitors, shares := t.shares, demand := t.demand, l2 := t.l2.map fun (l : Nat × Bool) => (l.1, false) }

/-- Steps 1 to 3 of a takeover (R396). -/
def State.beginTakeover (s : State) (die cluster : Nat) : State :=
  let tiles := clusterTiles die cluster
  let doms := (tiles.flatMap fun t => (s.tile t).domains).eraseDups
  let hs := tiles.flatMap tileSlots
  let s := (hs.filter fun h => (s.thread h).kind != .empty).foldl (fun s h => (s.dropCommands h).loseThread h) s
  let s := tiles.foldl (fun s t => s.modTileAt t fun x => { x with commit := [] }) s
  let s := doms.foldl (fun s d => s.loseDomain die d) s
  let s := tiles.foldl State.failTile s
  s.modDie die fun d => { d with takeover := d.takeover ++ [cluster] }

/-- A logic error of a tile: 7.18, and then the takeover of its cluster; without a spare 7.21 and a fatal reset (R396, R398). -/
def State.logicError (s : State) (tile : Nat) : State :=
  let die := tile / 128
  let cluster := logicalTile tile / 4
  let s := s.logErrorFree die (code 7 18)
  if (s.die die).takeover.contains cluster then s
  else if (s.die die).takeover.length < (s.die die).spares then s.beginTakeover die cluster
  else (s.logErrorFree die (code 7 21)).fatalReset

/-- An uncorrectable error in the metadata of a line, or in an entry of a directory or tag array (R146). Which of the two a tile has met
is free (log 4). Metadata: a line of the tile's remote-data cache is dropped, for a later access to fetch again; any other line is recalled from
every die, as exclusive at each, and handled as poisoned. An array entry: the line is recalled from every possible holder of the tile's
die, or of the package where the die is the line's home, and handled as poisoned. -/
def State.metaError (s : State) (tile line : Nat) : State :=
  let die := tile / 128
  let (k, s) := s.choose 2
  let remote := (s.die die).rdc.any fun r => r.2.1 == line
  if k = 0 ∧ remote then s.recallDie die line
  else (if k = 1 ∧ remote then s.recallDie die line else s.invalidateLine line).poisonLine line

/-- An error in a tile's logic state: in training, the cluster has failed its self-test; at run time, 7.18 and the takeover (R396, R411). -/
def State.logicFailure (s : State) (tile : Nat) : State :=
  if s.phase = .train then s.modDie (tile / 128) fun d =>
    let c := logicalTile tile / 4
    { d with failedTest := if d.failedTest.contains c then d.failedTest else d.failedTest ++ [c] }
  else s.logicError tile

/-- UNCORRECTABLE_ERROR: causes 16, 17 and 18 are 7.16 UEDATA, 7.17 UEMETA and 7.18 UELOGIC; a data address at or above 2^52 is a
slot of the tile's weight buffer (R146, R383, R396, R455; log 36). -/
def execUncorrectableError (cause tile addr : Nat) (s : State) : Host.Outcome State Fault Refusal :=
  event (match cause with
    | 16 =>
      if 2 ^ 52 ≤ addr then
        (s.modTileAt tile fun t => { t with weightPoison := if t.weightPoison.contains (addr % 256) then t.weightPoison else addr % 256 :: t.weightPoison }).logErrorFree
          (tile / 128) (code 7 16)
      else (s.dataError tile addr).logError (tile / 128) (code 7 16) (BitVec.ofNat 64 addr)
    | 17 => (if coherent addr then s.metaError tile (lineOf addr) else s).logErrorFree (tile / 128) (code 7 17)
    | 18 => s.logicFailure tile
    | _ => s)

/-- A spare replaces a cluster: it takes the cluster's logical number (R13, R396). -/
def Die.replace (d : Die) (cluster : Nat) : Die :=
  { d with spares := d.spares - 1, spareMap := assocSet cluster (20 - d.spares) d.spareMap }

/-- TAKEOVER_COMPLETE: the spare has taken the logical cluster's number, and 7.19 is recorded (R396). -/
def execTakeoverComplete (die cluster : Nat) (s : State) : Host.Outcome State Fault Refusal :=
  event (if (s.die die).takeover.contains cluster then
      let s := (s.modDie die fun d => { d with
        takeover := d.takeover.filter (· != cluster) : Die }.replace cluster).logErrorFree die (code 7 19)
      (clusterTiles die cluster).foldl (fun s t => s.rebalance t false) s
    else s)

/-! Links and ports (R383, R407, R408). -/

/-- The dies of a Mengeton link (R14, R416). -/
def linkDies (link : Nat) : Nat × Nat := [(0, 1), (2, 3), (0, 2), (1, 3)].getD link (0, 1)
/-- A Mengeton link. -/
def State.link (s : State) (l : Nat) : Link := get4 s.links (BitVec.ofNat 2 l)
/-- Replaces a Mengeton link. -/
def State.setLink (s : State) (l : Nat) (x : Link) : State := { s with links := set4 s.links (BitVec.ofNat 2 l) x }
/-- Whether a link carries traffic. -/
def Link.alive (l : Link) : Bool := l.state == .up || l.state == .degraded

/-- The link between two neighbouring dies (R14). -/
def linkOf (a b : Nat) : Nat := ((List.range 4).find? fun l => linkDies l == (min a b, max a b)).getD 0
/-- Whether two neighbouring dies reach each other over their link. -/
def State.joined (s : State) (a b : Nat) : Bool := (s.link (linkOf a b)).alive
/-- The relay of a diagonal pair: the first of two dies whose links to both carry traffic, and where neither die has both, the first (R14;
log 108). -/
def State.relayOf (s : State) (a b first other : Nat) : Nat :=
  if (s.joined a first && s.joined first b) || !(s.joined a other && s.joined other b) then first else other
/-- The relays of the diagonal pairs, where each pair now has a preferred die (R14, R408). -/
def State.pickRelays (s : State) (p : Nat × Nat) : Nat × Nat := (s.relayOf 0 3 p.1 (3 - p.1), s.relayOf 1 2 p.2 (3 - p.2))
/-- The dies that traffic from one die to another crosses, the last being its destination: over their link, or the other way round the
square where it is down; through the relay of a diagonal pair (R14, R408). -/
def State.route (s : State) (a b : Nat) : List Nat :=
  if a = b then []
  else if a + b = 3 then [if a = 0 ∨ b = 0 then s.relays.1 else s.relays.2, b]
  else if s.joined a b then [b]
  else [3 - b, 3 - a, b]
/-- The hub of a port: half of each kind of port is on each (R399). -/
def portHub : Port → Nat
  | .host n => n / 2
  | .scaleOut n => n / 16
/-- The dies that a command frame crosses from its hub to the command processor on hub 0: a hub attaches to dies 2 × hub and 2 × hub + 1,
and one that enters at hub 1 comes by die 2 and die 0 (R15, R403). -/
def State.commandRoute (s : State) (p : Port) : List Nat := if portHub p = 0 then [] else 2 :: s.route 2 0

/-- FLIT_CRC_FAILURE: the error is counted and the flit is replayed, which no program sees (R404, R407). -/
def execFlitCrcFailure (link : Nat) (s : State) : Host.Outcome State Fault Refusal :=
  event (if (s.link link).alive then s.setLink link { s.link link with errors := (s.link link).errors + 1 } else s)

/-- Whether every link of some die is down, so that it reaches no other (R408). -/
def State.isolated (s : State) : Bool :=
  (List.range 4).any fun d => (List.range 4).all fun l => ((linkDies l).1 != d && (linkDies l).2 != d) || (s.link l).state == .down

/-- LINK_DOWN: 6.48 is recorded and the traffic takes the other way round, its order, words and credits kept; a diagonal relay that
used the link moves to the other relay die; a die that reaches no other brings a fatal reset at run time (R407, R408; log 37). -/
def execLinkDown (link : Nat) (s : State) : Host.Outcome State Fault Refusal :=
  event (if (s.link link).state = .down then s
    else
      let s := (s.setLink link { s.link link with state := .down }).logErrorFree (linkDies link).1 (code 6 48)
      let s := { s with relays := s.pickRelays s.relays }
      if s.phase = .run ∧ s.isolated then s.fatalReset else s)

/-- LINK_DEGRADED: a lane group is retired, and 6.49 is recorded (R407; log 37). -/
def execLinkDegraded (link : Nat) (s : State) : Host.Outcome State Fault Refusal :=
  event (if (s.link link).state = .up ∨ (s.link link).state = .train then
      (s.setLink link { s.link link with state := .degraded }).logErrorFree (linkDies link).1 (code 6 49)
    else s)

/-- CXL_FAILURE: a port fails, 6.50, or its device gives poisoned data, 6.51 (R383; log 37). -/
def execCxlFailure (port : Nat) (poison : Bool) (addr : Nat) (s : State) : Host.Outcome State Fault Refusal :=
  event (if 8 ≤ port then s
    else if poison then (s.poisonUnit (addr / 64 * 64) 64).logErrorFree (port / 4 * 2) (code 6 51)
    else ({ s with cxlDown := if s.cxlDown.contains port then s.cxlDown else s.cxlDown ++ [port] } : State).logErrorFree (port / 4 * 2) (code 6 50))

/-! Training (R14, R396, R411). -/

/-- The clusters of a die that failed their self-test are replaced before any launch; where the die has too few spares left, 7.21 is
recorded and a fatal reset follows (R396, R398; log 98). -/
def State.replaceFailed (s : State) (die : Nat) : State :=
  let failed := (s.die die).failedTest
  if s.phase ≠ .train ∨ failed = [] then s
  else if failed.length ≤ (s.die die).spares then s.modDie die fun d => { failed.foldl Die.replace d with failedTest := [] }
  else (s.logErrorFree die (code 7 21)).fatalReset

/-- TRAINING_COMPLETE: the clusters that failed their self-test are replaced, links that are still training come up, the diagonal
relays are picked, and CONFIG begins (R14, R396, R407, R411). -/
def execTrainingComplete (s : State) : Host.Outcome State Fault Refusal :=
  event (if s.phase = .train then
      let s := (List.range 4).foldl State.replaceFailed s
      if s.phase = .train then
        let s := { s with phase := .config, links := s.links.map fun (l : Link) => if l.state = LinkState.train then { l with state := .up } else l }
        { s with relays := s.pickRelays (1, 0) }
      else s
    else s)

/-! Power (R144, R413, R414). -/

/-- POWER_CONTROL_SAMPLE: above the cap the controller delays tiles, which ones it does is free; below it none (R413). -/
def execPowerControlSample (watts : Nat) (s : State) : Host.Outcome State Fault Refusal :=
  event (s.tiles.foldl (fun s t =>
    if s.powerCap < watts then
      let (n, s) := s.choose 2
      s.modTileAt t.1 fun x => { x with delayed := n == 1 }
    else s.modTileAt t.1 fun x => { x with delayed := false }) s)

/-- Whether a tile is in use: a launch queue's tile set includes it, or it holds a saved context or a thread (R414). -/
def State.tileInUse (s : State) (tile : Nat) : Bool :=
  s.lqueues.any (fun q => (s.tileSet q.1).contains tile) ||
  ((s.cur, s.th) :: s.threads).any fun t => tileOf t.1 == tile && t.2.kind != .empty

/-- Writes back and drops every line of a tile's L1s and slices, with their directory entries (R144). -/
def State.emptyTile (s : State) (tile : Nat) : State :=
  let lines := (tileCores tile).flatMap fun c => (s.core c).l1d.map (·.1) ++ (s.core c).l1i ++ (s.core c).wbuf.map (·.1)
  let die := tile / 128
  let s := lines.eraseDups.foldl State.invalidateLine s
  let s := (tileCores tile).foldl (fun s c => s.modCoreAt c fun x => { x with wbuf := [] }) s
  let s := ((s.die die).ddir.filter fun e => lineTile die e.1 == tile).foldl (fun s e => s.recallDie die e.1) s
  let s := ((s.die die).cdir.filter fun e => e.1 % 18 == logicalTile tile / 4 && e.1 / 18 % 4 == tile % 4).foldl (fun s e =>
    s.recallCluster die (e.1 % 18) (e.1 / 18)) s
  let s := (s.tile tile).l2.foldl (fun s l => if l.2 then s.l2WriteBack l.1 else s) s
  s.modTileAt tile fun t => { t with l2 := [] }

/-- REGION_GATING: the tiles of a cluster that a POWER command named, and that are still not in use, are written back, emptied
and gated, once no miss of their cores is outstanding, whose fill would bring a line back (R144, R414). -/
def execRegionGating (die cluster : Nat) (s : State) : Host.Outcome State Fault Refusal :=
  event ((clusterTiles die cluster).foldl (fun s t =>
    if !(s.tile t).gating then s
    else if s.tileInUse t then s.modTileAt t fun x => { x with gating := false }
    else if (tileCores t).any fun c => !(s.core c).misses.isEmpty then s
    else (s.emptyTile t).modTileAt t fun x => { x with gating := false, gated := true }) s)

end Sys2Proof.Machine
end

