-- ==== Sys2Proof/Machine/Fence.lean ====
section
/-! DEFINITION. FENCE, IFENCE and QFENCE (R303 to R305). -/

namespace Sys2Proof.Machine

/-- FENCE: loads and atomics have performed when the next instruction issues, so .acq completes at once; .rel begins a
new epoch of the store buffer; .ar waits until the buffer has drained (R288, R303). In the model's one memory a scope changes nothing
(R290 to R292; log 102). -/
def execFence (k : BitVec 2) (_s : BitVec 3) (st : State) : Host.Outcome State Fault Refusal :=
  done (do
    match k.toNat with
    | 2 => modTh fun t => { t with epoch := if t.sb.isEmpty then t.epoch else t.epoch + 1 }
    | 3 => waitStores .memoryReply
    | _ => pure ()
    finish 4 [] []) st

/-- IFENCE: after every earlier store has performed, the fetch buffer beyond it is discarded and every window is stale
(R305, R314). -/
def execIfence (st : State) : Host.Outcome State Fault Refusal :=
  done (do
    waitStores .memoryReply
    modTh fun t => { t.staleAll with fbuf := emptyFbuf (t.pc + 4#64) }
    finish 4 [] []) st

/-- The numbers of the thread's uncompleted commands in the queues that a QFENCE names, wherever they were accepted; a follow-on counts
in the matrix queue, and an open stream in its channel, of which it holds a transfer slot (R173, R304). -/
def State.namedCommands (s : State) (x : Word) : List Nat :=
  let mine (f : Core → List Command) : List Nat := s.cores.flatMap fun c => ((f c.2).filter fun y => y.slot == s.cur).map (·.seq)
  let open_ (i : Nat) : List Transfer := s.tiles.flatMap fun t => (t.2.chans.toList.getD i Channel.reset).transfers.filter fun t => t.slot == s.cur
  (if x.getLsbD 0 then mine (·.vq) else []) ++
  (if x.getLsbD 1 then mine (·.mq) ++ (List.range 16).flatMap fun i => (open_ i).filterMap fun t => t.follow.map (·.seq) else []) ++
  (if x.getLsbD 2 then mine (·.sq) else []) ++
  (List.range 16).flatMap fun i => if x.getLsbD (16 + i) then (open_ i).map (·.seq) else []

/-- QFENCE: a join of the named queues; a fifth unresolved one waits (R304). -/
def execQfence (a : BitVec 5) (st : State) : Host.Outcome State Fault Refusal :=
  done (do
    useRegs [a] []
    let s ← get
    let x := s.rd a
    require (x &&& ~~~0xFFFF0007#64 == 0#64) 0 5 x
    let live := s.th.joins.filter (s.unresolved s.cur)
    modTh fun t => { t with joins := live }
    if x = 0#64 then pure ()
    else if 4 ≤ live.length then waitFor .memoryReply
    else modTh fun t => { t with joins := live ++ [{ set := x, before := s.namedCommands x, from_ := s.fresh }] }
    finish 4 [a] []) st

end Sys2Proof.Machine
end

