-- ==== Sys2Proof/Machine/HostCmd.lean ====
section
/-! DEFINITION. The firmware command set (R402 to R406, R409, R410, R412 to R414). A command's answer is a frame of State.sent; the
layout of a result body is the model's where the manual gives none (log 39). -/

namespace Sys2Proof.Machine

/-! Frames and answers (R402 to R404). -/

/-- A command in service: its opcode and its header. -/
structure Serving where
  op : Nat
  h : CmdHeader

/-- Sends an answer. -/
def State.answer (s : State) (seq : Serving) (status codeNo : Nat) (body : List Byte) : State :=
  { s with sent := s.sent ++ [.answer seq.op seq.h status codeNo body] }
/-- OK with a result. -/
def State.answerOk (s : State) (seq : Serving) (body : List Byte) : State := s.answer seq 0 0 body
/-- BADARG with a cause. -/
def State.badArg (s : State) (seq : Serving) (codeNo : Nat) : State := s.answer seq 2 codeNo []
/-- BADARG where the manual gives no cause: a free one (R402; log 4). -/
def State.badArgFree (s : State) (seq : Serving) : State :=
  let (c, s) := s.choose 512
  s.badArg seq c
/-- BUSY. -/
def State.busyAnswer (s : State) (seq : Serving) : State := s.answer seq 5 0 []

/-- Whether a frame is well-formed: its reserved bytes are zero, and LEN is the length received (R402). -/
def frameFormed (h : CmdHeader) : Bool := h.reserved == 0 && h.len == h.received

/-- The place of a command in the order of arrival: that of the frame that is held, or the next one. -/
def State.commandNumber (s : State) (h : CmdHeader) : Nat := ((s.commands.find? fun c => c.header == h).map (·.num)).getD s.fresh

/-- Whether a command waits: for an RDMA WRITE that precedes it on its queue pair and has not performed, or for an earlier command of
the queue pair (R403). -/
def State.commandWaits (s : State) (h : CmdHeader) : Bool :=
  let n := s.commandNumber h
  (s.inbound.any fun p => p.via.port == .host h.port && p.via.qp == 1 && p.data.isSome && decide (p.num < n)) ||
  s.commands.any fun c => c.header.port == h.port && decide (c.num < n)

/-- A command frame at the command processor: a frame of no host port is none, one that has to wait changes nothing yet, and one whose
form is wrong is answered with BADARG and a free code (R402, R403; log 4). -/
def State.frame (s : State) (op : Nat) (h : CmdHeader) (f : Serving → State → State) : State :=
  if 4 ≤ h.port ∨ s.commandWaits h then s
  else
    let s : State := { s with commands := s.commands.filter fun c => c.header != h }
    if !frameFormed h then s.badArgFree { op := op, h := h } else f { op := op, h := h } s

/-- Runs a command in the phases that R404 lists for it, and answers NOTREADY in any other; nothing is answered without power, and
in HALT only IDENTITY is (R404, R411). -/
def State.command404 (s : State) (phases : List Phase) (op : Nat) (h : CmdHeader) (f : Serving → State → State) : State :=
  if s.phase = .off ∨ s.phase = .failed then s
  else s.frame op h fun seq s => if phases.isEmpty || phases.contains s.phase then f seq s else s.answer seq 3 0 []

/-- The header of a command. -/
def commandHeader : Instr → Option CmdHeader
  | .identity h | .attest h _ | .bootcfg h _ _ _ _ _ _ _ | .qcreate h _ _ _ _ _ _ _ _ | .qset h _ _ _ | .qdelete h _ | .launch h _ _
  | .qstatus h _ | .epset h _ _ _ _ _ _ | .mrreg h _ _ _ _ _ | .errlog h _ | .linkstat h | .cxlinfo h | .power h _ _ | .sparemap h
  | .resetOrderly h | .resetFatal h | .badop h _ => some h
  | _ => none

/-- A command frame that has to wait is held in order of arrival, once (R403). -/
def State.holdCommand (s : State) (i : Instr) : State :=
  match commandHeader i with
  | some h =>
    if s.commandWaits h && !(s.commands.any fun c => c.header == h) then
      let (n, s) := s.freshen
      { s with commands := s.commands ++ [{ num := n, header := h, cmd := i }] }
    else s
  | none => s

/-- BADOP (R404). -/
def execBadop (h : CmdHeader) (opcode : Nat) (s : State) : Host.Outcome State Fault Refusal :=
  event (s.command404 [] opcode h fun seq s => s.answer seq 1 0 [])

/-! Identity (R404, R409). -/

/-- Free bytes, for contents the manual leaves to the implementation (log 5). -/
def State.freeBytes (s : State) (n : Nat) : List Byte × State :=
  (leBytes n (Config.freeBits (8 * n) s.free).toNat, { s with free := s.free + 1 })

/-- The variant and the lifecycle state: A1 is in production, D1 in development (R1, R404). -/
def variantBytes : List Byte := if Config.development then [0x44, 0x31, 1] else [0x41, 0x31, 0]
/-- IDENTITY, in every phase: the part number FJ-ZV412, the variant, the lifecycle state and the certificate chain, as far as an answer holds
it (R1, R402, R404; logs 5 and 39). -/
def execIdentity (h : CmdHeader) (s : State) : Host.Outcome State Fault Refusal :=
  event (if s.phase = .off then s
    else s.frame 0x0001 h fun seq s =>
      s.answerOk seq ([0x46, 0x4A, 0x2D, 0x5A, 0x56, 0x34, 0x31, 0x32] ++ variantBytes ++ Config.certificateChain.take (4096 - 11)))

/-- The digest of a boot configuration (R409). -/
def BootConfig.digest (b : BootConfig) : BitVec 512 := Config.bootDigest b.version b.rdcGiB b.powerCap b.portMask b.ownerKey
/-- The digest of the accepted boot configuration; a free one where none has been accepted (R409; log 5). -/
def State.bootDigest (s : State) : List Byte × State :=
  match s.boot with
  | some b => (leBytes 64 b.digest.toNat, s)
  | none => s.freeBytes 64

/-- The spare map of a die in an ATTEST report: for each of its two spares the logical cluster that it serves, or 255 (R396, R409; log 39). -/
def Die.spareBytes (d : Die) : List Byte :=
  [18, 19].map fun p => BitVec.ofNat 8 (((d.spareMap.find? fun m => m.2 == p).map (·.1)).getD 255)
/-- The 32 bytes of state of an ATTEST report: lifecycle state and variant, rollback counter, spare maps, and zeros (R409; log 39). -/
def State.attestState (s : State) : List Byte :=
  variantBytes ++ leBytes 8 s.rollback ++ ((List.range 4).flatMap fun d => (s.die d).spareBytes) ++ List.replicate 13 0#8
/-- The bytes of r or of s, big-endian (R409). -/
def signatureBytes (x : BitVec 528) : List Byte := (leBytes 66 x.toNat).reverse

/-- ATTEST: the nonce, the digests of the ROM and of the accepted configuration, the device's state, and the signature of all of it under the
identity key (R409; log 5). -/
def execAttest (h : CmdHeader) (nonce : BitVec 512) (s : State) : Host.Outcome State Fault Refusal :=
  event (s.command404 [.config, .run] 0x0002 h fun seq s =>
    let (ds, s) := s.bootDigest
    let report := leBytes 64 nonce.toNat ++ leBytes 64 Config.romDigest.toNat ++ ds ++ s.attestState
    let sig := Config.sign Config.identitySecret report s.free
    ({ s with free := s.free + 1 } : State).answerOk seq (report ++ signatureBytes sig.1 ++ signatureBytes sig.2))

/-! Boot configuration (R410). -/

/-- Whether a configuration's signature verifies: under the owner key, which at first boot is its own OWNERKEY; or, on a development module that
has an owner key, under a development key (R1, R410). -/
def State.signed (s : State) (b : BootConfig) : Bool :=
  Config.verifies (s.ownerKey.getD b.ownerKey) b.digest b.sigR b.sigS ||
  (Config.development && s.ownerKey.isSome && Config.developmentKeys.any fun k => Config.verifies k b.digest b.sigR b.sigS)
/-- Whether a configuration's values are ones that the device accepts (R410). -/
def State.bootable (s : State) (b : BootConfig) : Bool :=
  decide (s.rollback ≤ b.version) && [0, 8, 16, 24, 32].contains b.rdcGiB && decide (1500 ≤ b.powerCap) && decide (b.powerCap ≤ 3000) &&
  !s.ownerKey.any (· != b.ownerKey)
/-- BOOTCFG. Of two checks that fail, the signature's is answered (log 34). -/
def execBootcfg (h : CmdHeader) (version rdcGiB powerCap portMask : Nat) (ownerKey : BitVec 1064) (sigR sigS : BitVec 528) (s : State) :
    Host.Outcome State Fault Refusal :=
  event (s.command404 [.config] 0x0003 h fun seq s =>
    let b : BootConfig := { version := version, rdcGiB := rdcGiB, powerCap := powerCap, portMask := portMask, ownerKey := ownerKey
                            sigR := sigR, sigS := sigS }
    if !s.signed b then s.answer seq 4 0 []
    else if !s.bootable b then s.badArgFree seq
    else (({ s with boot := some b, ownerKey := some ownerKey, rollback := version } : State).applyBoot b).answerOk seq [])

/-! Launch queues (R355, R404). -/

/-- Whether a weight and a maximum priority lie within R355. -/
def queueValues (weight maxPrio : Nat) : Bool := decide (1 ≤ weight) && decide (weight ≤ 255) && decide (maxPrio ≤ 3)

/-- Ungates every tile of a queue's set (R414). -/
def State.ungate (s : State) (q : Nat) : State :=
  (s.tileSet q).foldl (fun s t =>
    if (s.tile t).gated || (s.tile t).gating then s.modTileAt t fun x => { x with gated := false, gating := false } else s) s

/-- QCREATE (R355, R404). -/
def execQcreate (h : CmdHeader) (asid : Nat) (ptbase ttbase : Word) (mode weight maxPrio first nt : Nat) (s : State) : Host.Outcome State Fault Refusal :=
  event (s.command404 [.run] 0x0010 h fun seq s =>
    if 16384 ≤ asid ∨ 2 ≤ mode ∨ !queueValues weight maxPrio ∨ 288 ≤ first ∨ nt = 0 ∨ 288 < first + nt then s.badArg seq (code 5 5)
    else match lowestFree 4096 (s.lqueues.map (·.1)) with
      | none => s.busyAnswer seq
      | some q =>
        let x : LQueue :=
          { asid := asid, ptbase := ptbase &&& crBits 0x011, ttbase := ttbase &&& crBits 0x012, mode := BitVec.ofNat 2 mode, weight := weight
            maxPrio := maxPrio, first := first, nt := nt, pending := none, launches := [], record := none }
        (({ s with lqueues := assocSet q x s.lqueues } : State).ungate q).answerOk seq (leBytes 4 q))

/-- QSET: applied at the next rotation boundary (R404). -/
def execQset (h : CmdHeader) (queue weight maxPrio : Nat) (s : State) : Host.Outcome State Fault Refusal :=
  event (s.command404 [.run] 0x0011 h fun seq s =>
    match s.lqueue queue with
    | none => s.badArg seq (code 5 5)
    | some _ =>
      if !queueValues weight maxPrio then s.badArg seq (code 5 5)
      else ((s.modLqueue queue fun x => { x with pending := some (weight, maxPrio) }).ungate queue).answerOk seq [])

/-- Whether a queue holds a launch, a piece or other work, or a saved context (R404). -/
def State.queueHolds (s : State) (q : Nat) : Bool :=
  s.launches.any (fun l => l.2.queue == q) ||
  ((s.cur, s.th) :: s.threads).any (fun t => t.2.kind != .empty && t.2.ownedBy q) ||
  s.tiles.any fun t => (t.2.waiting ++ t.2.spilled.map (·.2.2)).any (fun x => s.taskQueue x == q) ||
    t.2.commit.any fun e => s.taskQueue e.2.task == q

/-- QDELETE: the queue's slots are without an owner (R368, R404). -/
def execQdelete (h : CmdHeader) (queue : Nat) (s : State) : Host.Outcome State Fault Refusal :=
  event (s.command404 [.run] 0x0012 h fun seq s =>
    match s.lqueue queue with
    | none => s.badArg seq (code 5 5)
    | some _ =>
      if s.queueHolds queue then s.busyAnswer seq
      else
        let disown (t : Thread) : Thread := if t.ownedBy queue then { t with lqV := false, lqMove := false, lqQueue := 0 } else t
        let s : State := { s with lqueues := assocErase queue s.lqueues, th := disown s.th, threads := s.threads.map fun t => (t.1, disown t.2) }
        s.answerOk seq [])

/-- LAUNCH: steps 2 and 5 to 9 of R366, with the host's rights (R404). -/
def execLaunch (h : CmdHeader) (queue : Nat) (desc : BitVec 512) (s : State) : Host.Outcome State Fault Refusal :=
  event (s.command404 [.run] 0x0013 h fun seq s =>
    match s.lqueue queue with
    | none => s.badArg seq (code 5 5)
    | some x => match s.launchCheck queue x desc with
      | some (c, _) => s.badArg seq c
      | none =>
        if x.launches.length < 16 then (s.acceptLaunch queue x desc).answerOk seq [] else s.busyAnswer seq)

/-- QSTATUS: the unexpanded launches, and the recorded cause and address, which are then cleared (R363, R404). -/
def execQstatus (h : CmdHeader) (queue : Nat) (s : State) : Host.Outcome State Fault Refusal :=
  event (s.command404 [.run] 0x0014 h fun seq s =>
    match s.lqueue queue with
    | none => s.badArg seq (code 5 5)
    | some x =>
      let r := x.record.getD (0, 0#64)
      (s.modLqueue queue fun y => { y with record := none }).answerOk seq (leBytes 4 x.launches.length ++ leBytes 4 r.1 ++ leBytes 8 r.2.toNat))

/-! Endpoints and regions (R405, R406). -/

/-- EPSET. The path MTU of the entry's connection is what its ends have negotiated: a free one of the sizes up to 4,096 bytes (R400,
R405; log 4). -/
def execEpset (h : CmdHeader) (index port peer qp rkey asid : Nat) (s : State) : Host.Outcome State Fault Refusal :=
  event (s.command404 [.run] 0x0020 h fun seq s =>
    if 65536 ≤ index ∨ 32 ≤ port ∨ 16384 ≤ asid then s.badArgFree seq
    else
      let (m, s) := s.choose 5
      let e : Endpoint := { port := port, peer := peer, qp := qp, rkey := rkey, asid := asid, mtu := 256 * 2 ^ m }
      ({ s with endpoints := assocSet index e s.endpoints } : State).answerOk seq [])

/-- MRREG: the key is a free choice among those not in use (R406; log 4). -/
def execMrreg (h : CmdHeader) (asid base len : Nat) (r w : Bool) (s : State) : Host.Outcome State Fault Refusal :=
  event (s.command404 [.run] 0x0021 h fun seq s =>
    if 16384 ≤ asid ∨ 2 ^ 56 ≤ base ∨ 2 ^ 40 < len then s.badArgFree seq
    else
      let used := s.regions.map (·.1)
      let left := (List.range 65536).filter fun k => !used.contains k
      if left.isEmpty then s.busyAnswer seq
      else
        let (i, s) := s.choose left.length
        let k := left.getD i 0
        let x : Region := { asid := asid, base := base, len := len, r := r, w := w }
        ({ s with regions := assocSet k x s.regions } : State).answerOk seq (leBytes 2 k))

/-! Reports (R404, R407). -/

/-- Removes up to n records that target no thread from the logs of the dies, in order of die (R383, R404). -/
def State.takeUntargeted (s : State) : Nat → List Byte × State
  | 0 => ([], s)
  | n + 1 =>
    match (List.range 4).find? fun d => (s.die d).errlog.any fun r => r.target.isNone with
    | none => ([], s)
    | some d =>
      match (s.die d).errlog.find? fun r => r.target.isNone with
      | none => ([], s)
      | some r =>
        let s := s.modDie d fun x => { x with errlog := x.errlog.erase r }
        let (bs, s) := State.takeUntargeted s n
        (leBytes 8 r.code ++ leBytes 8 r.tval.toNat ++ bs, s)

/-- ERRLOG: up to n records, removed: error records without a target, freeze reports and losses of a fatal reset (R404). -/
def execErrlog (h : CmdHeader) (count : Nat) (s : State) : Host.Outcome State Fault Refusal :=
  event (s.command404 [.run] 0x0030 h fun seq s =>
    let (bs, s) := s.takeUntargeted count
    let left := count - bs.length / 16
    let fr := s.fwlog.take left
    let ls := s.losses.take (left - fr.length)
    let s : State := { s with fwlog := s.fwlog.drop fr.length, losses := s.losses.drop ls.length }
    s.answerOk seq (bs ++ fr.flatMap (fun f => leBytes 4 f.2.1 ++ leBytes 4 f.1 ++ leBytes 8 f.2.2.toNat) ++
      ls.flatMap fun l => leBytes 8 0 ++ leBytes 8 (128 * l)))

/-- The byte of a link's state. -/
def LinkState.byte : LinkState → Byte
  | .train => 0
  | .up => 1
  | .degraded => 2
  | .down => 3

/-- LINKSTAT (R407). -/
def execLinkstat (h : CmdHeader) (s : State) : Host.Outcome State Fault Refusal :=
  event (s.command404 [] 0x0031 h fun seq s => s.answerOk seq (s.links.toList.flatMap fun l => l.state.byte :: leBytes 8 l.errors))

/-- CXLINFO (R81, R404). -/
def execCxlinfo (h : CmdHeader) (s : State) : Host.Outcome State Fault Refusal :=
  event (s.command404 [.run] 0x0032 h fun seq s =>
    s.answerOk seq ((List.range 8).flatMap fun p => (if s.cxlDown.contains p then 1 else 0) :: leBytes 8 (assocGet 0 p s.cxl)))

/-- SPAREMAP: the physical cluster of each logical one (R396, R404). -/
def execSparemap (h : CmdHeader) (s : State) : Host.Outcome State Fault Refusal :=
  event (s.command404 [] 0x0034 h fun seq s =>
    s.answerOk seq ((List.range 4).flatMap fun d => (List.range 18).map fun c => BitVec.ofNat 8 (assocGet c c (s.die d).spareMap)))

/-! Power and reset (R412 to R414). -/

/-- POWER: a new cap, and tiles, by global number, to be gated; a tile in use denies the request (R413, R414). -/
def execPower (h : CmdHeader) (cap : Nat) (gates : List Nat) (s : State) : Host.Outcome State Fault Refusal :=
  event (s.command404 [.run] 0x0033 h fun seq s =>
    if cap < 1500 ∨ 3000 < cap ∨ gates.any (fun g => decide (288 ≤ g)) then s.badArgFree seq
    else if gates.any fun g => s.tileInUse (tileKey g) then s.answer seq 6 0 []
    else
      let s : State := gates.foldl (fun s g => s.modTileAt (tileKey g) fun t => { t with gating := !t.gated }) { s with powerCap := cap }
      s.answerOk seq [])

/-- RESET_ORDERLY: answered, then performed; discarded while another reset is in progress (R412). -/
def execResetOrderly (h : CmdHeader) (s : State) : Host.Outcome State Fault Refusal :=
  event (s.command404 [] 0x00F0 h fun seq s =>
    let busy := s.resetting
    let s := s.answerOk seq []
    if busy then s else s.orderlyReset)
/-- RESET_FATAL (R412). -/
def execResetFatal (h : CmdHeader) (s : State) : Host.Outcome State Fault Refusal :=
  event (s.command404 [] 0x00F0 h fun seq s =>
    let busy := s.resetting
    let s := s.answerOk seq []
    if busy then s else s.fatalReset)

end Sys2Proof.Machine
end

