-- ==== Sys2Proof/Machine/LoadStore.lean ====
section
/-! DEFINITION. The loads and stores (R199 to R206). -/

namespace Sys2Proof.Machine

/-- The mode check of an M-format instruction: .p requires S or M mode (R33, R201 step 2). -/
def checkMode (am : BitVec 2) : Act Unit := if am = 3#2 then requireS else pure ()

/-- A load of n bytes into registers given by a function of its value (R202); a load is a sample of its tile's monitors
(R415). -/
def load (a : BitVec 5) (am r : BitVec 2) (off : BitVec 9) (n : Nat) (dsts : List (BitVec 5)) (f : Nat → List (BitVec 5 × Word)) : Act Unit := do
  checkMode am
  useRegs [a] dsts
  let s ← get
  let bs ← readMem (effAddr (s.rd a) off n) am n (r == 2#2)
  modify fun s => s.sampleLatency (coreOf s.cur) 1 none
  finish 4 [a] (f (leNat bs))

/-- A sign-extending load (R202). -/
def loadS (d a : BitVec 5) (m r : BitVec 2) (o : BitVec 9) (n : Nat) (s : State) : Host.Outcome State Fault Refusal :=
  done (load a m r o n [d] fun v => [(d, (BitVec.ofNat (8 * n) v).signExtend 64)]) s
/-- A zero-extending load (R202). -/
def loadZ (d a : BitVec 5) (m r : BitVec 2) (o : BitVec 9) (n : Nat) (s : State) : Host.Outcome State Fault Refusal :=
  done (load a m r o n [d] fun v => [(d, BitVec.ofNat 64 v)]) s

/-- The store kind of an ord field (R204). -/
def storeKind (r : BitVec 2) : StoreKind :=
  match r.toNat with
  | 1 => .release
  | 2 => .nonTemporal
  | _ => .plain

/-- A store of the low n bytes of registers (R203). -/
def store (a : BitVec 5) (am r : BitVec 2) (off : BitVec 9) (n : Nat) (srcs : List (BitVec 5)) (v : State → Nat) : Act Unit := do
  checkMode am
  useRegs (a :: srcs) []
  let s ← get
  writeMem (effAddr (s.rd a) off n) am (leBytes n (v s)) (storeKind r)
  finish 4 (a :: srcs) []

/-- A store of the low n bytes of one register (R203). -/
def storeLow (d a : BitVec 5) (m r : BitVec 2) (o : BitVec 9) (n : Nat) (s : State) : Host.Outcome State Fault Refusal :=
  done (store a m r o n [d] fun s => (s.rd d).toNat) s

/-- LDB (R202). -/
def execLdb (d a : BitVec 5) (m r : BitVec 2) (o : BitVec 9) := loadS d a m r o 1
/-- LDH (R202). -/
def execLdh (d a : BitVec 5) (m r : BitVec 2) (o : BitVec 9) := loadS d a m r o 2
/-- LDW (R202). -/
def execLdw (d a : BitVec 5) (m r : BitVec 2) (o : BitVec 9) := loadS d a m r o 4
/-- LDD (R202). -/
def execLdd (d a : BitVec 5) (m r : BitVec 2) (o : BitVec 9) := loadZ d a m r o 8
/-- LDBN (R202). -/
def execLdbn (d a : BitVec 5) (m r : BitVec 2) (o : BitVec 9) := loadZ d a m r o 1
/-- LDHN (R202). -/
def execLdhn (d a : BitVec 5) (m r : BitVec 2) (o : BitVec 9) := loadZ d a m r o 2
/-- LDWN (R202). -/
def execLdwn (d a : BitVec 5) (m r : BitVec 2) (o : BitVec 9) := loadZ d a m r o 4
/-- LDQ: the low half into g[d], the high half into g[d+1] (R199, R202). -/
def execLdq (d : BitVec 4) (a : BitVec 5) (m r : BitVec 2) (o : BitVec 9) (s : State) : Host.Outcome State Fault Refusal :=
  done (load a m r o 16 [pairLow d, pairHigh d] fun v =>
    [(pairLow d, BitVec.ofNat 64 v), (pairHigh d, BitVec.ofNat 64 (v / 2 ^ 64))]) s
/-- STB (R203). -/
def execStb (d a : BitVec 5) (m r : BitVec 2) (o : BitVec 9) := storeLow d a m r o 1
/-- STH (R203). -/
def execSth (d a : BitVec 5) (m r : BitVec 2) (o : BitVec 9) := storeLow d a m r o 2
/-- STW (R203). -/
def execStw (d a : BitVec 5) (m r : BitVec 2) (o : BitVec 9) := storeLow d a m r o 4
/-- STD (R203). -/
def execStd (d a : BitVec 5) (m r : BitVec 2) (o : BitVec 9) := storeLow d a m r o 8
/-- STQ: g[d] then g[d+1] (R199, R203). -/
def execStq (d : BitVec 4) (a : BitVec 5) (m r : BitVec 2) (o : BitVec 9) (s : State) : Host.Outcome State Fault Refusal :=
  done (store a m r o 16 [pairLow d, pairHigh d] fun s => (s.rd (pairLow d)).toNat + (s.rd (pairHigh d)).toNat * 2 ^ 64) s

end Sys2Proof.Machine
end

