-- ==== Sys2Proof/Machine/Loop.lean ====
section
/-! DEFINITION. The hardware-loop instructions LSET, LSETI, LRD, LWR and LBRK (R317 to R319). -/

namespace Sys2Proof.Machine

/-- The first byte of the instruction at an address, as instruction bytes are fetched: from the fetch buffer, or from
memory; a failure is raised at the instruction in focus with TVAL the address (R318). -/
def peekCode (va : Word) : Act Byte := do
  let s ← get
  match s.th.fbuf.from_ va.toNat with
  | c :: _ => return c.2
  | [] =>
    let r := s.fetchBytes s.cur (.slot s.cur true) s.issuer va.toNat 2
    set r.1
    match r.2 with
    | .blocked => waitFor .watermark
    | .got (c :: _ :: _) _ => return c.2
    | .got _ (some c) => raise { c with tval := va }
    | .got _ none => stopHere

/-- Sets a loop set and prepares its window (R318). -/
def Thread.setLoop (t : Thread) (n : BitVec 1) (lc : BitVec 32) (ls le : BitVec 56) : Thread :=
  { t with loops := set2 t.loops n { lc := lc, ls := ls, le := le, stale := false, win := .inFlight (t.fetchId t.mode) } }

/-- LSET and LSETI for a count: the set, or for a count of 0 the skip past the body's last instruction (R318). -/
def loopSet (n : BitVec 1) (c : Word) (off : BitVec 12) (srcs : List (BitVec 5)) : Act Unit := do
  require (decide (c.toNat < 2 ^ 32)) 0 5 c
  let s ← get
  let a := s.th.pc
  let le := a + 4#64 + 2#64 * off.zeroExtend 64
  let put (t : Thread) : Thread := t.setLoop n (c.truncate 32) ((a + 4#64).truncate 56) (le.truncate 56)
  if c = 0#64 then
    let h ← peekCode le
    modify fun s => s.popSources srcs
    modTh fun t => (put t).advanceTo ((le.truncate 56 : BitVec 56).zeroExtend 64 + (if h.getLsbD 0 then 4#64 else 2#64))
  else
    modTh put
    finish 4 srcs []

/-- LSET (R318). -/
def execLset (s : BitVec 1) (a : BitVec 5) (i : BitVec 12) (st : State) : Host.Outcome State Fault Refusal :=
  done (do
    useRegs [a] []
    let x ← get
    loopSet s (x.rd a) i [a]) st
/-- LSETI (R318). -/
def execLseti (s : BitVec 1) (n : BitVec 9) (i : BitVec 12) (st : State) := done (loopSet s (n.zeroExtend 64) i []) st

/-- A loop register by its selector: lc, ls, le (R317). -/
def loopReg (l : LoopSet) (r : BitVec 2) : Word :=
  match r.toNat with
  | 0 => l.lc.zeroExtend 64
  | 1 => l.ls.zeroExtend 64
  | _ => l.le.zeroExtend 64

/-- LRD (R318). -/
def execLrd (d : BitVec 5) (r : BitVec 2) (e : BitVec 1) (s : State) := done (compute d [] fun s => loopReg (get2 s.th.loops e) r) s

/-- A loop set after LWR of a register: lc as it is, ls and le with bit 0 cleared; a new ls prepares the window (R318). -/
def LoopSet.write (l : LoopSet) (r : BitVec 2) (x : Word) (id : FetchId) : LoopSet :=
  match r.toNat with
  | 0 => { l with lc := x.truncate 32 }
  | 1 => { l with ls := (x &&& ~~~1#64).truncate 56, win := .inFlight id, stale := false }
  | _ => { l with le := (x &&& ~~~1#64).truncate 56 }

/-- LWR (R318). -/
def execLwr (a : BitVec 5) (r : BitVec 2) (e : BitVec 1) (st : State) : Host.Outcome State Fault Refusal :=
  done (do
    useRegs [a] []
    let s ← get
    let x := s.rd a
    require (decide (x.toNat < (if r = 0#2 then 2 ^ 32 else 2 ^ 56))) 0 5 x
    modTh fun t => { t with loops := set2 t.loops e ((get2 t.loops e).write r x (t.fetchId t.mode)) }
    finish 4 [a] []) st

/-- LBRK: the count is 0 and execution continues in sequence (R318). -/
def execLbrk (e : BitVec 1) (s : State) : Host.Outcome State Fault Refusal :=
  done (do
    modTh fun t => { t with loops := set2 t.loops e { get2 t.loops e with lc := 0#32 } }
    finish 4 [] []) s

end Sys2Proof.Machine
end

