-- ==== Sys2Proof/Machine/Rdma.lean ====
section
/-! DEFINITION. Inbound RDMA packets (R400, R406). -/

namespace Sys2Proof.Machine

/-- UNSUPPORTED_OPERATION: a NAK on its connection, and the device state does not change (R400). -/
def execUnsupportedOperation (via : Via) (s : State) : Host.Outcome State Fault Refusal := event { s with sent := s.sent ++ [.nak via] }

/-- The root of an ASID for an inbound access: the lowest launch queue's that has the ASID, or no root (R85, R406; log 38). -/
def State.rootOf (s : State) (asid : Nat) : Word :=
  match s.lqueues.find? fun q => q.2.asid == asid with
  | some q => q.2.ptbase
  | none => 0#64

/-- The identity of an inbound access: the region's ASID in U mode (R406; log 38). -/
def State.inboundIssuer (s : State) (asid : Nat) : Issuer := { core := 0, mode := 0, asid := asid, ptbase := s.rootOf asid }

/-- Where the bytes of an inbound access that lie in one page are, checked by R89, R82, and R154 with scope 6; it waits for its walk
and below a watermark (R93, R159, R406). -/
def inboundSpan (num asid va n : Nat) (k : AccessKind) : EAct Nat := do
  let w := (← get).inboundIssuer asid
  let pa ← fun s => match s.locateFor (.agent num w.core) w va k with
    | (s, some (.ok (pa, _))) => .ok (pa, s)
    | (s, some (.error c)) => .error (s, .fault c)
    | (s, none) => .error (s, .blocked)
  let s ← get
  match (List.range n).findSome? fun i => s.mapCheck (pa + i) w.mode k (BitVec.ofNat 64 (va + i)) with
  | some c => eStop (.fault c)
  | none =>
    let c := s.core (lmCore pa)
    let perm := if k.writes then c.permw else c.permr
    if inLm pa && (List.range n).any fun i => !permAdmits perm 6 asid (lmOffset (pa + i)) then eFault 1 10 va
    else if s.unlanded pa n 0 then eBlocked
    else return pa

/-- The effect of a packet: every byte is checked before any is written; the data of a read. A write that covers a poisoned unit clears
its poison, and a narrower one fails (R147, R336, R406). -/
def inboundEffect (r : Region) (p : Inbound) : EAct (List Byte) := do
  let n := match p.data with
    | some bs => bs.length
    | none => p.len
  if p.va < r.base ∨ r.base + r.len < p.va + n ∨ !(if p.data.isSome then r.w else r.r) then eFault 1 9 p.va
  else
    let spans := (pageSplit p.va n).filter fun x => x.2 != 0
    let pas ← mapE (fun x => do
      let pa ← inboundSpan p.num r.asid x.1 x.2 (if p.data.isSome then .store else .load)
      return (pa, x.2, x.1 - p.va)) spans
    seqE (pas.map fun x => eNonSpec (.number p.num) x.1 x.2.1 p.data.isSome)
    let s ← get
    match p.data with
    | some bs =>
      if pas.any fun x => s.poisonNarrow x.1 x.2.1 then eFault 1 13 p.va
      else
        set (pas.foldl (fun (s : State) x => s.perform x.1 ((bs.drop x.2.2).take x.2.1)) s)
        return []
    | none =>
      if pas.any fun x => s.poisoned x.1 x.2.1 then eFault 1 13 p.va
      else return pas.flatMap fun x => s.bytes x.1 x.2.1

/-- The packet among the waiting ones that an arriving one is, or the packet with the next number. -/
def State.numberPacket (s : State) (p : Inbound) : Inbound × State :=
  match s.inbound.find? fun x => { x with num := 0 } == { p with num := 0 } with
  | some x => (x, s)
  | none =>
    let (n, s) := s.freshen
    ({ p with num := n }, s)
/-- A packet waits, once. -/
def State.keepPacket (s : State) (p : Inbound) : State :=
  if s.inbound.contains p then s else { s with inbound := s.inbound ++ [p] }
/-- Ends an inbound packet with its answer, on its connection. -/
def State.inboundDone (s : State) (p : Inbound) (f : Frame) : State := { s with inbound := s.inbound.erase p, sent := s.sent ++ [f] }

/-- An inbound packet: behind an earlier one of its queue pair it waits its turn; a failed check is answered with a NAK; an access that
waits for an abort, for a home or below a watermark is tried again (R139, R159, R336, R406; log 38). -/
def State.inboundPacket (s : State) (p : Inbound) : State :=
  let (p, s) := s.numberPacket p
  if s.inbound.any fun x => x.via.port == p.via.port && x.via.qp == p.via.qp && decide (x.num < p.num) then s.keepPacket p
  else match assocFind p.key s.regions with
    | none => s.inboundDone p (.nak p.via)
    | some r => match (inboundEffect r p).run' s with
      | (s, .ok bs) => s.inboundDone p (.reply p.via bs)
      | (s, .error .blocked) => s.keepPacket p
      | (s, .error (.fault _)) => s.inboundDone p (.nak p.via)

/-- INBOUND_RDMA_WRITE (R406). -/
def execInboundRdmaWrite (key : RemoteKey) (va : Nat) (data : List Byte) (s : State) : Host.Outcome State Fault Refusal :=
  event (s.inboundPacket { num := 0, via := key.via, key := key.key, va := va, data := some data, len := 0 })
/-- INBOUND_RDMA_READ (R406). -/
def execInboundRdmaRead (key : RemoteKey) (va len : Nat) (s : State) : Host.Outcome State Fault Refusal :=
  event (s.inboundPacket { num := 0, via := key.via, key := key.key, va := va, data := none, len := len })

end Sys2Proof.Machine
end

