-- ==== Sys2Proof/Machine/Tlb.lean ====
section
/-! DEFINITION. TLBI, its drops, and TLBSYNC (R98 to R101). -/

namespace Sys2Proof.Machine

/-- The targets of a TLBI: every die, whose walk unit and walk cache it reaches, and then every tile (R99). -/
def tlbiTargets : List Nat := (List.range 4).map (512 + ·) ++ (List.range 288).map tileKey

/-- TLBI: after the thread's stores have performed the drop is posted to every tile and die, and TLBI retires (R99, R101). -/
def execTlbi (a b : BitVec 5) (s : State) : Host.Outcome State Fault Refusal :=
  done (do
    requireS
    useRegs [a, b] []
    let s ← get
    let x := s.rd a
    let y := s.rd b
    require (decide (wfield y 18 16 ≤ 3)) 0 5 x
    escalate
    waitStores .memoryReply
    let s ← get
    let (n, s) := s.freshen
    let d : Drop := { id := n, kind := wfield y 18 16, asid := wfield y 13 0, page := wfield x 55 16, targets := tlbiTargets
                      applied := [], last := 0 }
    set ({ s with drops := s.drops ++ [d], th := { s.th with tlbis := s.th.tlbis ++ [n] } } : State)
    finish 4 [a, b] []) s

/-- Whether a drop selects a cached leaf (R99). -/
def Drop.selects (d : Drop) (e : TlbEntry) : Bool :=
  let page := d.page * 65536 / pageSize e.level == e.vpn
  let mine := e.asid == d.asid && !e.leaf.getLsbD 5
  match d.kind with
  | 0 => mine && page
  | 1 => page
  | 2 => mine
  | _ => true

/-- Whether a drop names an ASID: kinds 1 and 3 name every one (R99, R100). -/
def Drop.names (d : Drop) (asid : Nat) : Bool := d.kind == 1 || d.kind == 3 || d.asid == asid

/-- A drop at a die: the walk cache loses what it selects, and the walks in flight will install nothing (R99, R100). -/
def Die.tlbiDrop (x : Die) (d : Drop) : Die :=
  { x with
    wcache := x.wcache.filter fun e => !d.names e.asid
    walks := x.walks.map fun w => if w.stage = .waiting then w else { w with dropped := true } }

/-- A drop at a die: the walk cache and the walks, and the leaves that the walk unit has answered stack commands with (R99, R100,
R103). -/
def State.tlbiDie (s : State) (d : Drop) (die : Nat) : State :=
  let s := s.modDie die fun x => x.tlbiDrop d
  { s with walkAnswers := s.walkAnswers.filter fun x => !(x.die == die && (match x.result with
      | .leaf e => d.selects e
      | .failed _ => false)) }

/-- A drop at a tile: its L2 TLB and the TLBs of its cores lose what it selects (R99). -/
def State.tlbiTile (s : State) (d : Drop) (t : Nat) : State :=
  let keep (l : List TlbEntry) : List TlbEntry := l.filter fun e => !d.selects e
  let s := s.modTileAt t fun x => { x with l2tlb := keep x.l2tlb }
  (List.range 8).foldl (fun s i =>
    if (s.core (8 * t + i)).itlb.isEmpty && (s.core (8 * t + i)).dtlb.isEmpty then s
    else s.modCoreAt (8 * t + i) fun c => { c with itlb := keep c.itlb, dtlb := keep c.dtlb }) s

/-- A TLBI that every target has acknowledged and whose thread no longer waits to synchronise it is forgotten. -/
def State.forgetDrops (s : State) : State :=
  let kept := ((s.cur, s.th) :: s.threads).flatMap (·.2.tlbis)
  { s with drops := s.drops.filter fun d => d.kind == 4 || !d.targets.isEmpty || kept.contains d.id }

/-- TLBI_DROP: a posted drop reaches its next target (R99). -/
def execTlbiDrop (index : Nat) (s : State) : Host.Outcome State Fault Refusal :=
  event (match s.nextTarget index false with
    | some (d, t) =>
      let s := if 512 ≤ t then s.tlbiDie d (t - 512) else s.tlbiTile d t
      (s.dropApplied index).forgetDrops
    | none => s)

/-- Whether everything TLBSYNC waits for on account of a drop is over: every target reached, no walk that it found in flight
left, and every store performed that issued under a named ASID before it, and every atomic of such a thread (R100). -/
def State.dropOver (s : State) (d : Drop) : Bool :=
  d.targets.isEmpty && !(s.dies.any fun x => x.2.walks.any (·.dropped)) &&
  ((s.cur, s.th) :: s.threads).all fun t =>
    (t.2.sb.all fun e => !d.names e.asid || decide (d.last ≤ e.seq)) && !(t.2.atomicSent && d.names (wfield t.2.asid 13 0))

/-- TLBSYNC: waits for the thread's earlier TLBIs, and marks the windows of every thread of a named ASID stale (R100, R101). -/
def execTlbsync (s : State) : Host.Outcome State Fault Refusal :=
  done (do
    requireS
    escalate
    let mine (s : State) := s.drops.filter fun d => s.th.tlbis.contains d.id
    waitUntil .tlbsync fun s => (mine s).all s.dropOver
    let s ← get
    let ds := mine s
    let stale (t : Thread) : Thread := if ds.any fun d => d.names (wfield t.asid 13 0) then t.staleAll else t
    set ({ s with th := { stale s.th with tlbis := [] }, threads := s.threads.map fun t => (t.1, stale t.2) } : State).forgetDrops
    finish 4 [] []) s

end Sys2Proof.Machine
end

