-- ==== Sys2Proof/Machine/Transfer.lean ====
section
/-! DEFINITION. Branch-target registers: PREP, PREPC, PREPR, PREPRC, BTRD, BTCLR, and the transfers JMP, CALL and JMPX
(R306 to R314). -/

namespace Sys2Proof.Machine

open Host (Cell)

/-- The checks of a target: alignment and range, TVAL the target (R309). -/
def checkTarget (t : Word) : Act Unit := do
  require (!t.getLsbD 0) 1 1 t
  require (decide (t.toNat < 2 ^ 56)) 1 2 t

/-- The checked forms' translation of one address under the thread's mode: failures are raised here, TVAL the address
(R309). Its walk is waited for (R93). -/
def checkFetchable (va : Nat) : Act Unit := do
  let s ← get
  if romFetch s.issuer va then pure ()
  else
    let r := s.locateFor (.slot s.cur true) s.issuer va .fetch
    set r.1
    match r.2 with
    | none => waitFor .memoryReply
    | some (.ok _) => pure ()
    | some (.error c) => raise c

/-- The prepare step: the register takes the target and its window is in flight under the current identity; a checked form
first translates t and t + 63 (R309). -/
def prepare (b : BitVec 3) (t : Word) (checked : Bool) (srcs : List (BitVec 5)) : Act Unit := do
  checkTarget t
  if checked then
    checkFetchable t.toNat
    checkFetchable (t.toNat + 63)
  modTh fun th => { th with bt := set8 th.bt b { target := t.truncate 56, v := true, s := false, win := .inFlight (th.fetchId th.mode) } }
  finish 4 srcs []

/-- PREP (R308, R309). -/
def execPrep (b : BitVec 3) (i : BitVec 21) (s : State) := done (prepare b (prepTarget s.th.pc i) false []) s
/-- PREPC (R308, R309). -/
def execPrepc (b : BitVec 3) (i : BitVec 21) (s : State) := done (prepare b (prepTarget s.th.pc i) true []) s
/-- PREPR (R308, R309). -/
def execPrepr (b : BitVec 3) (a : BitVec 5) (i : BitVec 12) (s : State) : Host.Outcome State Fault Refusal :=
  done (do
    useRegs [a] []
    let s ← get
    prepare b (preprTarget (s.rd a) i) false [a]) s
/-- PREPRC (R308, R309). -/
def execPreprc (b : BitVec 3) (a : BitVec 5) (i : BitVec 12) (s : State) : Host.Outcome State Fault Refusal :=
  done (do
    useRegs [a] []
    let s ← get
    prepare b (preprTarget (s.rd a) i) true [a]) s
/-- BTRD (R35, R309). -/
def execBtrd (d : BitVec 5) (b : BitVec 3) (s : State) := done (compute d [] fun s => btImage (get8 s.th.bt b)) s
/-- BTCLR: V and S clear, TARGET unchanged (R307, R309). -/
def execBtclr (b : BitVec 3) (s : State) : Host.Outcome State Fault Refusal :=
  done (do
    modTh fun t => { t with bt := set8 t.bt b { get8 t.bt b with v := false, s := false, win := .none } }
    finish 4 [] []) s

/-- The refetch of a register's window at a transfer: once the thread's stores that overlap the window have performed, the window
is in flight under the mode, and the slot waits for it (R311). -/
def refetch (b : BitVec 3) (mode : BitVec 2) : Act α := do
  waitUntil .window fun s => !(s.th.sb.any fun e => s.windowMeets s.cur b.toNat e.pa e.bytes.length)
  modTh fun t =>
    { t with bt := set8 t.bt b { get8 t.bt b with s := false, win := .inFlight (t.fetchId mode) }, refetched := some b.toNat }
  waitFor .window

/-- The window bytes a transfer through a register takes, under a mode: BTINVAL for an invalid register; a stale or
failed register, or one fetched under another mode, is refetched once; an unarrived window is awaited; one that has failed
in that wait raises its held failure (R311). With always set the register is refetched even if ready, as ERET does (R386). -/
def takeWindow (b : BitVec 3) (mode : BitVec 2) (always : Bool) : Act (List Cell) := do
  let s ← get
  let r := get8 s.th.bt b
  let again := s.th.refetched == some b.toNat
  if !r.v then fault 0 4 s.instrWord
  else match r.win with
    | .ready m cells => if r.s || m != mode || (always && !again) then refetch b mode else return cells
    | .inFlight id =>
      if r.s || id.mode != mode || (always && !again) then refetch b mode
      else
        modTh fun t => { t with refetched := some b.toNat }
        waitFor .window
    | .failed m c =>
      if again && m == mode && !r.s then
        modTh fun t => { t with refetched := none }
        raise c
      else refetch b mode
    | .none => refetch b mode

/-- A transfer: not taken, it only retires; taken, the window's bytes go to the fetch buffer and the target is next
(R311). -/
def transfer (b q : BitVec 3) (sense : BitVec 1) (then_ : State → State) : Act Unit := do
  let s ← get
  if s.q q == (sense == 1#1) then finish 4 [] []
  else
    let cells ← takeWindow b s.th.mode false
    modify fun s =>
      let t := (get8 s.th.bt b).target.zeroExtend 64
      let s := then_ s
      { s with th := s.th.jumpTo t cells }

/-- JMP (R311). -/
def execJmp (b q : BitVec 3) (s : BitVec 1) (st : State) := done (transfer b q s id) st
/-- CALL: g1 takes the address after the CALL (R311). -/
def execCall (b q : BitVec 3) (s : BitVec 1) (st : State) := done (transfer b q s fun x => x.wr 1#5 (x.th.pc + 4#64)) st
/-- JMPX: the register becomes invalid after its transfer (R307, R311). -/
def execJmpx (b q : BitVec 3) (s : BitVec 1) (st : State) :=
  done (transfer b q s fun x =>
    { x with th := { x.th with bt := set8 x.th.bt b { get8 x.th.bt b with v := false, s := false, win := .none } } }) st

end Sys2Proof.Machine
end

