-- ==== Sys2Proof/Machine/Sys.lean ====
section
/-! DEFINITION. Control registers by selector: CRR, CRW, CRS, CRC and the writes (R6, R381, R382, R416), TRAP, BRKPT, ERET,
WFI (R386) and MONRD (R417). -/

namespace Sys2Proof.Machine

/-! Reading (R6, R381). -/

/-- The selector that the b and c fields hold (R380). -/
def crSelector (b c : BitVec 5) : Nat := 32 * c.toNat + b.toNat

/-- Whether a selector needs S mode; none for one the tables do not list (R381, R416). -/
def crLowest (sel : Nat) : Option Bool :=
  if [0x006, 0x018, 0x019, 0x01A, 0x02A].contains sel then some false
  else if sel ≤ 0x008 ∨ (0x010 ≤ sel ∧ sel ≤ 0x012) ∨ (0x020 ≤ sel ∧ sel ≤ 0x025) ∨ sel = 0x028 ∨ sel = 0x029 ∨
      (0x030 ≤ sel ∧ sel ≤ 0x032) ∨ (0x038 ≤ sel ∧ sel ≤ 0x03C) ∨ (0x080 ≤ sel ∧ sel ≤ 0x085) then some true
  else none

/-- KIND of LQOWN (R368). -/
def SlotKind.code : SlotKind → Nat
  | .empty => 0
  | .persistent => 1
  | .ordered => 2
  | .unordered => 3

/-- LQOWN of the slot in focus (R368). -/
def State.lqown (s : State) : Word :=
  BitVec.ofNat 64 (s.cur % 32768 * 2 ^ 16 + (if s.th.lqV then 2 ^ 15 else 0) + s.th.kind.code * 2 ^ 13 +
    (if s.th.lqMove then 2 ^ 12 else 0) + s.th.lqQueue.toNat)

/-- ERRTGT of a die (R383). -/
def Die.errTarget (d : Die) : Word := BitVec.ofNat 64 (d.errdrop * 2 ^ 48 + d.errlog.length * 2 ^ 41) ||| d.errtgt

/-- The die of the slot in focus. -/
def State.myDie (s : State) : Die := s.die (dieOf s.cur)
/-- The die monitor that the tile's MONSEL picks (R416). -/
def State.picked (s : State) : Nat := wfield s.myTile.monsel 5 0

/-- The value of a control register (R381, R416). -/
def State.readCr (s : State) (sel : Nat) : Word :=
  match sel with
  | 0x000 => s.thstat s.cur
  | 0x006 => BitVec.ofNat 64 s.time
  | 0x02A => s.lqown
  | 0x030 => s.myCore.permr
  | 0x031 => s.myCore.permw
  | 0x032 => s.myCore.krcv
  | 0x038 => s.myTile.mbudget
  | 0x039 => s.myTile.spillctl
  | 0x03A => s.myTile.crumbbase
  | 0x03B => s.myTile.ctxbase
  | 0x03C => s.myDie.errTarget
  | 0x080 => get4 s.myTile.monctl 0#2
  | 0x081 => get4 s.myTile.monctl 1#2
  | 0x082 => get4 s.myTile.monctl 2#2
  | 0x083 => get4 s.myTile.monctl 3#2
  | 0x084 => s.myTile.monsel
  | 0x085 => assocGet 0#64 s.picked s.myDie.dmonctl
  | _ => s.th.cr sel

/-- The RC fields of a register (R120, R170, R230, R252, R278, R383). -/
def crClears (sel : Nat) : Word :=
  match sel with
  | 0x020 => bitsMask 4 0
  | 0x021 => bitsMask 1 1
  | 0x022 => bitsMask 4 0
  | 0x024 => bitsMask 4 4 ||| bitsMask 2 0
  | 0x032 => bitsMask 63 48
  | 0x03C => bitsMask 63 48
  | _ => 0#64

/-- The state after a read of a register: its RC fields clear (R6). -/
def State.afterRead (s : State) (sel : Nat) : State :=
  match sel with
  | 0x020 | 0x021 | 0x022 | 0x024 => { s with th := s.th.setCr sel (s.th.cr sel &&& ~~~crClears sel) }
  | 0x032 => s.modCore fun c => { c with krcv := c.krcv &&& ~~~crClears sel }
  | 0x03C => s.modDie (dieOf s.cur) fun d => { d with errdrop := 0 }
  | _ => s

/-! Writing (R382). -/

/-- The bits that a write replaces: RW fields, and the RC fields of the four registers whose rules have them written (R382). -/
def crRw (sel : Nat) : Word :=
  match sel with
  | 0x000 => bitsMask 11 10 ||| bitsMask 7 5 ||| bitsMask 3 0
  | 0x008 | 0x01A | 0x019 | 0x023 | 0x025 => 0#64
  | 0x020 => bitsMask 4 0
  | 0x021 => bitsMask 1 1
  | 0x022 => bitsMask 49 48 ||| bitsMask 4 0
  | 0x024 => bitsMask 4 4 ||| bitsMask 2 0
  | 0x030 | 0x031 => bitsMask 45 31 ||| bitsMask 23 16 ||| bitsMask 2 0
  | 0x038 => bitsMask 63 48 ||| bitsMask 7 0
  | 0x039 => bitsMask 51 4 ||| 1#64
  | 0x03A => bitsMask 51 22 ||| 1#64
  | 0x03B => bitsMask 51 20 ||| 1#64
  | 0x03C => bitsMask 15 0
  | 0x080 | 0x081 | 0x082 | 0x083 | 0x085 => bitsMask 63 63 ||| bitsMask 15 0
  | 0x084 => bitsMask 5 0
  | 0x006 | 0x02A | 0x032 => 0#64
  | _ => crBits sel

/-- The W1C bits of a register (R208, R378). -/
def crW1c (sel : Nat) : Word :=
  match sel with
  | 0x000 => bitsMask 18 18
  | 0x019 => bitsMask 4 0
  | 0x01A => bitsMask 3 0
  | _ => 0#64

/-- A field that keeps its value where the new one is not allowed. -/
def keepField (now x : Word) (hi lo : Nat) (bad : Nat → Bool) : Word :=
  if bad (wfield x hi lo) then setField x hi lo (wfield now hi lo) else x

/-- EN cleared where BASE is not HBM homed on a die, or where it or its area lies in the reserved cache range (R331). -/
def State.checkArea (s : State) (die base size : Nat) (x : Word) : Word :=
  let limit := hbmPerDie - s.rdcGiB * 2 ^ 30
  if inHbm base && hbmDie base == die && decide (base % hbmPerDie < limit) && decide (base % hbmPerDie + size ≤ limit) then x
  else x &&& ~~~1#64

/-- A monitor control register's value: an event that its monitor does not have reads as 0 (R416). -/
def monctlValue (die : Bool) (x : Word) : Word := setField x 15 8 (eventCode x die)

/-- Replaces a register by a new value, with what the write does beside (R84, R207, R315, R323, R331, R378, R416). -/
def State.writeCr (s : State) (sel : Nat) (now x : Word) : State :=
  let tile (f : Tile → Tile) : State := s.modTileAt (tileOf s.cur) f
  let monctl (i : BitVec 2) : State :=
    tile fun t => { t with monctl := set4 t.monctl i (monctlValue false x), monitors := set4 t.monitors i Monitor.reset }
  match sel with
  | 0x000 => { s with th := s.th.setCr sel (keepField now x 11 10 fun m => m == 2 || (m == 3 && s.th.mode != 3#2)) }
  | 0x001 => { s with th := { s.th.setCr sel x with trapWin := .inFlight (s.th.fetchId (if s.th.mode = 3#2 then 3#2 else 1#2)), trapStale := false } }
  | 0x018 => { s with th := s.th.setCr sel (keepField now x 2 0 fun m => decide (5 ≤ m)) }
  | 0x028 | 0x029 => if s.th.kind = .ordered ∨ s.th.kind = .unordered then s else { s with th := s.th.setCr sel x }
  | 0x030 => s.modCoreAt (coreOf s.cur) fun c => { c with permr := keepField now x 2 0 fun m => m == 0 || m == 7 }
  | 0x031 => s.modCoreAt (coreOf s.cur) fun c => { c with permw := keepField now x 2 0 fun m => m == 0 || m == 7 }
  | 0x006 | 0x008 | 0x02A | 0x032 | 0x023 | 0x025 => s
  | 0x038 => tile fun t => { t with mbudget := x }
  | 0x039 => tile fun t => { t with spillctl := s.checkArea (dieOf s.cur) (wfield x 51 16 * 2 ^ 16) (wfield x 15 4 * 2 ^ 16) x }
  | 0x03A => tile fun t => { t with crumbbase := s.checkArea (dieOf s.cur) (wfield x 51 22 * 2 ^ 22) (2 ^ 22) x }
  | 0x03B => tile fun t => { t with ctxbase := x }
  | 0x03C => s.modDie (dieOf s.cur) fun d => { d with errtgt := x &&& bitsMask 15 0 }
  | 0x080 => monctl 0#2
  | 0x081 => monctl 1#2
  | 0x082 => monctl 2#2
  | 0x083 => monctl 3#2
  | 0x084 => tile fun t => { t with monsel := x }
  | 0x085 => s.modDie (dieOf s.cur) fun d =>
      { d with dmonctl := assocSet s.picked (monctlValue true x) d.dmonctl, dmonitors := assocErase s.picked d.dmonitors }
  | _ => { s with th := s.th.setCr sel x }

/-- The effect of a write of g[a] on a register whose value was read as old (R382, R390). -/
def State.crEffect (s : State) (sel : Nat) (op : CrOp) (old x : Word) : State :=
  if sel = 0x008 then
    if op = .clear then s
    else
      let kind := wfield x 29 27
      if 5 ≤ kind then { s with th := s.th.thawed 1 }
      else match wfield x 31 30 with
        | 1 => s.thawWrite false kind (wfield x 26 23) (wfield x 14 0)
        | 2 => s.thawWrite true kind (wfield x 26 23) (wfield x 14 0)
        | _ => { s with th := s.th.thawed 0 }
  else
    let now := s.readCr sel
    s.writeCr sel now (fieldWrite (crRw sel) (crW1c sel) op old now x)

/-- The checks of an access: the selector is listed, and the mode reaches it (R381). -/
def crCheck (sel : Nat) : Act Unit := do
  let s ← get
  match crLowest sel with
  | none => fault 0 1 s.instrWord
  | some priv => require (!priv || s.th.privileged) 0 2 s.instrWord

/-- Whether a commit-queue entry of the tile in focus holds a crumb (R331). -/
def State.holdsCrumb (s : State) : Bool := s.myTile.commit.any fun e => !e.2.crumbs.isEmpty

/-- CRW, CRS and CRC (R382). -/
def crWrite (op : CrOp) (d a b c : BitVec 5) : Act Unit := do
  let sel := crSelector b c
  crCheck sel
  useRegs [a] [d]
  if 0x018 ≤ sel ∧ sel ≤ 0x01A then pure () else escalate
  if sel = 0x03A then waitUntil .memoryReply fun s => !s.holdsCrumb
  let s ← get
  let old := s.readCr sel
  let x := s.rd a
  finish 4 [a] [(d, old)]
  modify fun s => (s.afterRead sel).crEffect sel op old x

/-- CRR (R382). -/
def execCrr (d b c : BitVec 5) (s : State) : Host.Outcome State Fault Refusal :=
  done (do
    let sel := crSelector b c
    crCheck sel
    useRegs [] [d]
    let s ← get
    finish 4 [] [(d, s.readCr sel)]
    modify fun s => s.afterRead sel) s
/-- CRW (R382). -/
def execCrw (d a b c : BitVec 5) (s : State) : Host.Outcome State Fault Refusal := done (crWrite .write d a b c) s
/-- CRS (R382). -/
def execCrs (d a b c : BitVec 5) (s : State) : Host.Outcome State Fault Refusal := done (crWrite .set d a b c) s
/-- CRC (R382). -/
def execCrc (d a b c : BitVec 5) (s : State) : Host.Outcome State Fault Refusal := done (crWrite .clear d a b c) s

/-! The writes as steps of their own: what CRW does to the register, for the thread in focus. -/

/-- A write of a register by the thread in focus, if its mode reaches it. -/
def State.crStep (s : State) (sel : Nat) (v : Word) : State :=
  match crLowest sel with
  | none => s
  | some priv => if priv && !s.th.privileged then s else s.crEffect sel .write (s.readCr sel) v

/-- TVEC_WRITE (R315). -/
def execTvecWrite (v : Word) (s : State) : Host.Outcome State Fault Refusal := event (s.crStep 0x001 v)
/-- CRUMBBASE_WRITE: it takes effect once no entry of the tile holds a crumb (R331). -/
def execCrumbbaseWrite (v : Word) (s : State) : Host.Outcome State Fault Refusal :=
  event (if s.holdsCrumb then s else s.crStep 0x03A v)
/-- SPILLCTL_WRITE (R331). -/
def execSpillctlWrite (v : Word) (s : State) : Host.Outcome State Fault Refusal := event (s.crStep 0x039 v)
/-- MONCTL_WRITE (R416). -/
def execMonctlWrite (sel : Nat) (v : Word) (s : State) : Host.Outcome State Fault Refusal :=
  event (if (0x080 ≤ sel ∧ sel ≤ 0x083) ∨ sel = 0x085 then s.crStep sel v else s)
/-- REGISTER_WRITE: a register whose write has no step of its own (R382). -/
def execRegisterWrite (sel : Nat) (v : Word) (s : State) : Host.Outcome State Fault Refusal :=
  event (if [0x001, 0x008, 0x039, 0x03A, 0x080, 0x081, 0x082, 0x083, 0x085].contains sel then s else s.crStep sel v)

/-! Traps and returns (R386). -/

/-- TRAP: 0.8 with TVAL g[a]; the instruction is over, so its source is popped unless the thread freezes at it (R180, R385,
R386). -/
def execTrap (a : BitVec 5) (s : State) : Host.Outcome State Fault Refusal :=
  done (do
    useRegs [a] []
    let s ← get
    let x := s.rd a
    if !s.th.exl then modify fun s => s.popSources [a]
    fault 0 8 x) s
/-- BRKPT (R386). -/
def execBrkpt (s : State) : Host.Outcome State Fault Refusal := done (fault 0 9 0#64) s

/-- ERET (R386). -/
def execEret (b : BitVec 3) (s : State) : Host.Outcome State Fault Refusal :=
  done (do
    requireS
    escalate
    let s ← get
    let m : BitVec 2 := s.th.thstat.extractLsb' 10 2
    require (!(m == 3#2 && s.th.mode != 3#2)) 0 2 s.instrWord
    let cells ← takeWindow b m true
    modTh fun t =>
      let t := t.jumpTo ((get8 t.bt b).target.zeroExtend 64) cells
      { t with thstat := thstatReturn t.thstat }) s

/-- WFI: completes at once on an enabled pending interrupt, and otherwise waits for one or for an accepted message (R386). -/
def execWfi (s : State) : Host.Outcome State Fault Refusal :=
  done (do
    requireS
    escalate
    let s ← get
    let n := s.th.posted.getD s.th.inbox.length
    if (s.pendingInterrupt s.cur).isSome || decide (n < s.th.inbox.length) then finish 4 [] []
    else
      modTh fun t => { t with posted := some n }
      waitFor .wfi) s

/-! MONRD (R417). -/

/-- An item of a monitor: 0 MIN, 1 MAX, 2 COUNT, 32 to 63 the bins. -/
def Monitor.item (m : Monitor) (i : Nat) : Word :=
  match i with
  | 0 => m.min
  | 1 => m.max
  | 2 => m.count
  | i => (m.bins.toList.getD (i - 32) 0#32).zeroExtend 64

/-- Empties a monitor of the die or tile in focus (R417). -/
def State.emptyMonitor (s : State) (die : Bool) (n : Nat) : State :=
  if die then s.modDie (dieOf s.cur) (fun y => { y with dmonitors := assocErase n y.dmonitors })
  else s.modTileAt (tileOf s.cur) (fun t => { t with monitors := set4 t.monitors (BitVec.ofNat 2 n) Monitor.reset })

/-- MONRD (R417). -/
def execMonrd (d a : BitVec 5) (s : State) : Host.Outcome State Fault Refusal :=
  done (do
    requireS
    useRegs [a] [d]
    let s ← get
    let x := s.rd a
    let n := wfield x 5 0
    let die := x.getLsbD 7
    let item := wfield x 15 8
    require (wfield x 63 17 == 0 && !x.getLsbD 6 && (item < 3 || (32 ≤ item && item < 64)) && (die || n < 4)) 0 5 x
    escalate
    let s ← get
    let m := if die then assocGet Monitor.reset n s.myDie.dmonitors else get4 s.myTile.monitors (BitVec.ofNat 2 n)
    if x.getLsbD 16 then modify fun s => s.emptyMonitor die n
    finish 4 [a] [(d, m.item item)]) s

end Sys2Proof.Machine
end

