-- ==== Sys2Proof/Machine/VectorCtl.lean ====
section
/-! DEFINITION. The control instructions of the lane pool (R224 to R226, R254) and of the receiving unit (R253). -/

namespace Sys2Proof.Machine

/-- Waits until every earlier vector command of the thread has executed (R224, R226, R254). -/
def waitVector (w : Wait) : Act Unit := waitUntil w fun s => s.th.pend 2#2 == 0

/-- VCLAIM: Q, then Renegotiate; another value raises OPERAND (R225, R254). -/
def execVclaim (d a : BitVec 5) (s : State) : Host.Outcome State Fault Refusal :=
  done (do
    useRegs [a] [d]
    let s ← get
    let q := (s.rd a).toNat
    require (q == 8 || q == 16 || q == 32 || q == 64) 2 5 (s.rd a)
    modTh fun t => { t with laneReq := q }
    waitVector .memoryReply
    modify fun s => s.renegotiate s.cur
    let s ← get
    finish 4 [a] [(d, BitVec.ofNat 64 s.th.grant)]) s

/-- VRENEG (R254). -/
def execVreneg (d : BitVec 5) (s : State) : Host.Outcome State Fault Refusal :=
  done (do
    useRegs [] [d]
    waitVector .memoryReply
    modify fun s => s.renegotiate s.cur
    let s ← get
    finish 4 [] [(d, BitVec.ofNat 64 s.th.grant)]) s

/-- VREL (R226, R254). -/
def execVrel (s : State) : Host.Outcome State Fault Refusal :=
  done (do
    waitVector .memoryReply
    modify fun s => s.releaseLanes s.cur
    finish 4 [] []) s

/-- VSETW (R254). -/
def execVsetw (w : BitVec 2) (s : State) : Host.Outcome State Fault Refusal :=
  done (do
    modTh fun t => { t with vstat := setField t.vstat 49 48 w.toNat }
    finish 4 [] []) s

/-- VMVG: an element, zero-extended; 0 past the last one (R254). A streaming source pops a strip (R175). -/
def execVmvg (d a b : BitVec 5) (w : BitVec 2) (s : State) : Host.Outcome State Fault Refusal :=
  done (do
    useRegs [b] [d]
    let s ← get
    vectorEntry (s.rd b)
    waitVector .memoryReply
    waitUntil .memoryReply fun s => decide (s.myCore.vq.length < 16)
    let s ← get
    checkStrip (s.rd b) a
    let s ← get
    let (s, strip) := s.popStrip a
    let s := s.putStrips s.cur strip
    set s
    let e := elemBits w.toNat
    let j := (s.rd b).toNat
    finish 4 [b] [(d, if j < s.th.count e then BitVec.ofNat 64 (s.th.elem a e j) else 0#64)]) s

/-- VMVV: a command (R254). -/
def execVmvv (d a b : BitVec 5) (w : BitVec 2) (s : State) : Host.Outcome State Fault Refusal :=
  done (vectorIssue (.vmvv d a b w) 4 [a, b] [] [d]) s

/-- VFENCE: waits until every earlier command has performed, then delivers a held fault (R254). -/
def execVfence (s : State) : Host.Outcome State Fault Refusal :=
  done (do
    waitVector .vfence
    deliverHeld 2#2
    finish 4 [] []) s

/-- VBUSYQ (R254). -/
def execVbusyq (d : BitVec 5) (s : State) : Host.Outcome State Fault Refusal :=
  done (compute d [] fun s => BitVec.ofNat 64 (s.th.pend 2#2)) s

/-- KSET: a command (R254). -/
def execKset (k : BitVec 3) (a : BitVec 5) (s : State) : Host.Outcome State Fault Refusal :=
  done (vectorIssue (.kset k a) 4 [a] [] []) s

/-- KGET: a mask, zero-extended; k0 reads as all bits of the grant set (R228, R254). -/
def execKget (d : BitVec 5) (k : BitVec 3) (s : State) : Host.Outcome State Fault Refusal :=
  done (do
    useRegs [] [d]
    vectorEntry 0#64
    waitVector .memoryReply
    waitUntil .memoryReply fun s => decide (s.myCore.vq.length < 16)
    let s ← get
    let m := if k = 0#3 then laneMask s.th.grant else get8 s.th.k k
    finish 4 [] [(d, m &&& laneMask s.th.grant)]) s

/-- KBIN: the format first, then the limits; it waits until every element that has arrived is applied, and keeps DROP
(R253). A task escalates (R235). -/
def execKbin (a b : BitVec 5) (s : State) : Host.Outcome State Fault Refusal :=
  done (do
    useRegs [a, b] []
    let s ← get
    let x := s.rd a
    let y := s.rd b
    let fmt := wfield y 22 18
    require (!reservedFormat fmt) 2 6 x
    require (wfield x 63 18 == 0 && x.toNat % 4 == 0 && wfield y 63 25 == 0 && (fmt == 2 || fmt == 6 || fmt == 10) &&
      decide (x.toNat + 4 * (wfield y 15 0 + 1) ≤ 0x40000)) 2 5 x
    escalate
    waitUntil .memoryReply fun s => s.myCore.keys.isEmpty
    modify fun s => s.modCore fun c => { c with krcv := BitVec.ofNat 64 (
      wfield c.krcv 63 48 * 2 ^ 48 + wfield y 24 24 * 2 ^ 41 + wfield y 23 23 * 2 ^ 40 + wfield y 17 16 * 2 ^ 38 +
      fmt * 2 ^ 33 + wfield y 15 0 * 2 ^ 16 + x.toNat / 4) }
    finish 4 [a, b] []) s

/-- KDRAIN: waits until every element of the thread's earlier KSENDs has been applied or discarded (R253). -/
def execKdrain (s : State) : Host.Outcome State Fault Refusal :=
  done (do
    waitUntil .kdrain fun s =>
      !(s.myCore.vq.any fun c => c.slot == s.cur && (match c.instr with
        | .ksend .. => true
        | _ => false)) &&
      s.cores.all fun c => c.2.keys.all fun u => u.slot != s.cur
    finish 4 [] []) s

end Sys2Proof.Machine
end

