-- ==== Sys2Proof/Machine/Dispatch.lean ====
section
/-! DEFINITION. The dispatch of an instruction or event to its meaning, one arm per constructor. -/

namespace Sys2Proof.Machine

/-- The outcome of an instruction or event. -/
def exec (i : Instr) (s : State) : Host.Outcome State Fault Refusal :=
  match i with
  | .tvecWrite v => Sys2Proof.Machine.execTvecWrite v s
  | .crumbbaseWrite v => Sys2Proof.Machine.execCrumbbaseWrite v s
  | .spillctlWrite v => Sys2Proof.Machine.execSpillctlWrite v s
  | .thawMaster kind ch handle => Sys2Proof.Machine.execThawMaster kind ch handle s
  | .discardMaster kind ch handle => Sys2Proof.Machine.execDiscardMaster kind ch handle s
  | .monctlWrite sel v => Sys2Proof.Machine.execMonctlWrite sel v s
  | .registerWrite sel v => Sys2Proof.Machine.execRegisterWrite sel v s
  | .gets core line => Sys2Proof.Machine.execGets core line s
  | .getm core line => Sys2Proof.Machine.execGetm core line s
  | .upg core line => Sys2Proof.Machine.execUpg core line s
  | .pute core line => Sys2Proof.Machine.execPute core line s
  | .putm core line => Sys2Proof.Machine.execPutm core line s
  | .inv core line => Sys2Proof.Machine.execInv core line s
  | .fwd core line => Sys2Proof.Machine.execFwd core line s
  | .ack core line => Sys2Proof.Machine.execAck core line s
  | .dack core line => Sys2Proof.Machine.execDack core line s
  | .grant core line => Sys2Proof.Machine.execGrant core line s
  | .fill core line => Sys2Proof.Machine.execFill core line s
  | .wback core line => Sys2Proof.Machine.execWback core line s
  | .uncachedHomeAccess line write => Sys2Proof.Machine.execUncachedHomeAccess line write s
  | .bisnp line => Sys2Proof.Machine.execBisnp line s
  | .storeBufferDrain slot entry => Sys2Proof.Machine.execStoreBufferDrain slot entry s
  | .walkRequest die => Sys2Proof.Machine.execWalkRequest die s
  | .walkResult die => Sys2Proof.Machine.execWalkResult die s
  | .adUpdate die => Sys2Proof.Machine.execAdUpdate die s
  | .tlbiDrop index => Sys2Proof.Machine.execTlbiDrop index s
  | .tensorCacheDrop index => Sys2Proof.Machine.execTensorCacheDrop index s
  | .windowArrival slot win => Sys2Proof.Machine.execWindowArrival slot win s
  | .windowFetchFailure slot win => Sys2Proof.Machine.execWindowFetchFailure slot win s
  | .fetchBufferArrival slot => Sys2Proof.Machine.execFetchBufferArrival slot s
  | .interruptTake slot => Sys2Proof.Machine.execInterruptTake slot s
  | .timerExpiry slot => Sys2Proof.Machine.execTimerExpiry slot s
  | .frozenCommandReport slot => Sys2Proof.Machine.execFrozenCommandReport slot s
  | .transferStart tile ch => Sys2Proof.Machine.execTransferStart tile ch s
  | .lineReturn tile ch => Sys2Proof.Machine.execLineReturn tile ch s
  | .transferComplete tile ch => Sys2Proof.Machine.execTransferComplete tile ch s
  | .handlePush tile ch => Sys2Proof.Machine.execHandlePush tile ch s
  | .followOnPlacement tile ch => Sys2Proof.Machine.execFollowOnPlacement tile ch s
  | .streamRefill tile ch => Sys2Proof.Machine.execStreamRefill tile ch s
  | .streamDrain tile ch => Sys2Proof.Machine.execStreamDrain tile ch s
  | .remoteWriteAck tile ch nak => Sys2Proof.Machine.execRemoteWriteAck tile ch nak s
  | .inboundRdmaWrite key va data => Sys2Proof.Machine.execInboundRdmaWrite key va data s
  | .inboundRdmaRead key va len => Sys2Proof.Machine.execInboundRdmaRead key va len s
  | .unsupportedOperation port => Sys2Proof.Machine.execUnsupportedOperation port s
  | .queuePushArrival queue => Sys2Proof.Machine.execQueuePushArrival queue s
  | .queueCreditReturn queue => Sys2Proof.Machine.execQueueCreditReturn queue s
  | .stackSnapshot core => Sys2Proof.Machine.execStackSnapshot core s
  | .stackElement core => Sys2Proof.Machine.execStackElement core s
  | .stackCommandComplete core => Sys2Proof.Machine.execStackCommandComplete core s
  | .vectorCommandExecute slot => Sys2Proof.Machine.execVectorCommandExecute slot s
  | .binUpdate core => Sys2Proof.Machine.execBinUpdate core s
  | .matrixQueueHead core => Sys2Proof.Machine.execMatrixQueueHead core s
  | .arrayCommandStart tile => Sys2Proof.Machine.execArrayCommandStart tile s
  | .matrixCommandComplete core => Sys2Proof.Machine.execMatrixCommandComplete core s
  | .arrayRampupDone tile => Sys2Proof.Machine.execArrayRampupDone tile s
  | .arrayIdleTimeout tile => Sys2Proof.Machine.execArrayIdleTimeout tile s
  | .arrayHoldTimeout tile => Sys2Proof.Machine.execArrayHoldTimeout tile s
  | .arrayRampdownDone tile => Sys2Proof.Machine.execArrayRampdownDone tile s
  | .spawnArrival slot => Sys2Proof.Machine.execSpawnArrival slot s
  | .spawnAnswer slot => Sys2Proof.Machine.execSpawnAnswer slot s
  | .taskReload tile => Sys2Proof.Machine.execTaskReload tile s
  | .taskDispatch slot => Sys2Proof.Machine.execTaskDispatch slot s
  | .crumbRestore tile entry => Sys2Proof.Machine.execCrumbRestore tile entry s
  | .virtualTimeSample => Sys2Proof.Machine.execVirtualTimeSample s
  | .gvtPublish => Sys2Proof.Machine.execGvtPublish s
  | .domainAgeExpiry dom => Sys2Proof.Machine.execDomainAgeExpiry dom s
  | .messageArrival slot => Sys2Proof.Machine.execMessageArrival slot s
  | .messageAnswer slot => Sys2Proof.Machine.execMessageAnswer slot s
  | .launchExpansion queue => Sys2Proof.Machine.execLaunchExpansion queue s
  | .launchRecordRead queue => Sys2Proof.Machine.execLaunchRecordRead queue s
  | .pieceStart slot => Sys2Proof.Machine.execPieceStart slot s
  | .lmImageCopy slot => Sys2Proof.Machine.execLmImageCopy slot s
  | .launchCompletionUpdate launch => Sys2Proof.Machine.execLaunchCompletionUpdate launch s
  | .rotationBoundary => Sys2Proof.Machine.execRotationBoundary s
  | .preemptionRequest tile prio => Sys2Proof.Machine.execPreemptionRequest tile prio s
  | .slotHalt slot => Sys2Proof.Machine.execSlotHalt slot s
  | .answerWrite slot => Sys2Proof.Machine.execAnswerWrite slot s
  | .contextResume slot => Sys2Proof.Machine.execContextResume slot s
  | .migrationArrival slot => Sys2Proof.Machine.execMigrationArrival slot s
  | .idleTreeSample => Sys2Proof.Machine.execIdleTreeSample s
  | .powerControlSample watts => Sys2Proof.Machine.execPowerControlSample watts s
  | .correctedError tile => Sys2Proof.Machine.execCorrectedError tile s
  | .uncorrectableError cause tile addr => Sys2Proof.Machine.execUncorrectableError cause tile addr s
  | .takeoverComplete die cluster => Sys2Proof.Machine.execTakeoverComplete die cluster s
  | .flitCrcFailure link => Sys2Proof.Machine.execFlitCrcFailure link s
  | .linkDown link => Sys2Proof.Machine.execLinkDown link s
  | .linkDegraded link => Sys2Proof.Machine.execLinkDegraded link s
  | .cxlFailure port poison addr => Sys2Proof.Machine.execCxlFailure port poison addr s
  | .powerOn => Sys2Proof.Machine.execPowerOn s
  | .romchkComplete digestOk => Sys2Proof.Machine.execRomchkComplete digestOk s
  | .trainingComplete => Sys2Proof.Machine.execTrainingComplete s
  | .initComplete => Sys2Proof.Machine.execInitComplete s
  | .regionGating die cluster => Sys2Proof.Machine.execRegionGating die cluster s
  | .identity seq => Sys2Proof.Machine.execIdentity seq s
  | .attest seq nonce => Sys2Proof.Machine.execAttest seq nonce s
  | .bootcfg seq version rdcGiB powerCap portMask ownerKey sigR sigS => Sys2Proof.Machine.execBootcfg seq version rdcGiB powerCap portMask ownerKey sigR sigS s
  | .qcreate seq asid ptbase ttbase mode weight maxPrio first nt => Sys2Proof.Machine.execQcreate seq asid ptbase ttbase mode weight maxPrio first nt s
  | .qset seq queue weight maxPrio => Sys2Proof.Machine.execQset seq queue weight maxPrio s
  | .qdelete seq queue => Sys2Proof.Machine.execQdelete seq queue s
  | .launch seq queue desc => Sys2Proof.Machine.execLaunch seq queue desc s
  | .qstatus seq queue => Sys2Proof.Machine.execQstatus seq queue s
  | .epset seq index port peer qp rkey asid => Sys2Proof.Machine.execEpset seq index port peer qp rkey asid s
  | .mrreg seq asid base len r w => Sys2Proof.Machine.execMrreg seq asid base len r w s
  | .errlog seq count => Sys2Proof.Machine.execErrlog seq count s
  | .linkstat seq => Sys2Proof.Machine.execLinkstat seq s
  | .cxlinfo seq => Sys2Proof.Machine.execCxlinfo seq s
  | .power seq cap gates => Sys2Proof.Machine.execPower seq cap gates s
  | .sparemap seq => Sys2Proof.Machine.execSparemap seq s
  | .resetOrderly seq => Sys2Proof.Machine.execResetOrderly seq s
  | .resetFatal seq => Sys2Proof.Machine.execResetFatal seq s
  | .rationalOperationComplete slot => Sys2Proof.Machine.execRationalOperationComplete slot s
  | .groupAnswer slot => Sys2Proof.Machine.execGroupAnswer slot s
  | .lnchAnswer slot => Sys2Proof.Machine.execLnchAnswer slot s
  | .badop seq opcode => Sys2Proof.Machine.execBadop seq opcode s
  | .rdmaRetriesExhausted tile ch => Sys2Proof.Machine.execRdmaRetriesExhausted tile ch s
  | .keptConfigurationReapplied => Sys2Proof.Machine.execKeptConfigurationReapplied s
  | .vmov d b m => Sys2Proof.Machine.execVmov d b m s
  | .vaddShort d b m => Sys2Proof.Machine.execVaddShort d b m s
  | .vsubShort d b m => Sys2Proof.Machine.execVsubShort d b m s
  | .vmulShort d b m => Sys2Proof.Machine.execVmulShort d b m s
  | .vandShort d b m => Sys2Proof.Machine.execVandShort d b m s
  | .vorShort d b m => Sys2Proof.Machine.execVorShort d b m s
  | .vxorShort d b m => Sys2Proof.Machine.execVxorShort d b m s
  | .vminShort d b m => Sys2Proof.Machine.execVminShort d b m s
  | .vmaxShort d b m => Sys2Proof.Machine.execVmaxShort d b m s
  | .vfaddShort d b m => Sys2Proof.Machine.execVfaddShort d b m s
  | .vfsubShort d b m => Sys2Proof.Machine.execVfsubShort d b m s
  | .vfmulShort d b m => Sys2Proof.Machine.execVfmulShort d b m s
  | .vfminShort d b m => Sys2Proof.Machine.execVfminShort d b m s
  | .vfmaxShort d b m => Sys2Proof.Machine.execVfmaxShort d b m s
  | .vfneg d b m => Sys2Proof.Machine.execVfneg d b m s
  | .vabs d b m => Sys2Proof.Machine.execVabs d b m s
  | .vadd d a b k w => Sys2Proof.Machine.execVadd d a b k w s
  | .vsub d a b k w => Sys2Proof.Machine.execVsub d a b k w s
  | .vmul d a b k w => Sys2Proof.Machine.execVmul d a b k w s
  | .vmin d a b k w => Sys2Proof.Machine.execVmin d a b k w s
  | .vmax d a b k w => Sys2Proof.Machine.execVmax d a b k w s
  | .vand d a b k w => Sys2Proof.Machine.execVand d a b k w s
  | .vor d a b k w => Sys2Proof.Machine.execVor d a b k w s
  | .vxor d a b k w => Sys2Proof.Machine.execVxor d a b k w s
  | .vsll d a b k w => Sys2Proof.Machine.execVsll d a b k w s
  | .vsrl d a b k w => Sys2Proof.Machine.execVsrl d a b k w s
  | .vsra d a b k w => Sys2Proof.Machine.execVsra d a b k w s
  | .vaddsat d a b k w => Sys2Proof.Machine.execVaddsat d a b k w s
  | .vdot4 d a b k => Sys2Proof.Machine.execVdot4 d a b k s
  | .vfadd d a b k w => Sys2Proof.Machine.execVfadd d a b k w s
  | .vfsub d a b k w => Sys2Proof.Machine.execVfsub d a b k w s
  | .vfmul d a b k w => Sys2Proof.Machine.execVfmul d a b k w s
  | .vfma d a b k w => Sys2Proof.Machine.execVfma d a b k w s
  | .vfmin d a b k w => Sys2Proof.Machine.execVfmin d a b k w s
  | .vfmax d a b k w => Sys2Proof.Machine.execVfmax d a b k w s
  | .vrcp d a k w => Sys2Proof.Machine.execVrcp d a k w s
  | .vrsq d a k w => Sys2Proof.Machine.execVrsq d a k w s
  | .vrcps d a b k w => Sys2Proof.Machine.execVrcps d a b k w s
  | .vrsqs d a b k w => Sys2Proof.Machine.execVrsqs d a b k w s
  | .vcmpeq d a b k w => Sys2Proof.Machine.execVcmpeq d a b k w s
  | .vcmplt d a b k w => Sys2Proof.Machine.execVcmplt d a b k w s
  | .vcmpltn d a b k w => Sys2Proof.Machine.execVcmpltn d a b k w s
  | .vfcmpeq d a b k w => Sys2Proof.Machine.execVfcmpeq d a b k w s
  | .vfcmplt d a b k w => Sys2Proof.Machine.execVfcmplt d a b k w s
  | .vsel d a b k w => Sys2Proof.Machine.execVsel d a b k w s
  | .vcvt d a b xs => Sys2Proof.Machine.execVcvt d a b xs s
  | .vlut d a h k => Sys2Proof.Machine.execVlut d a h k s
  | .vbcast d a k w => Sys2Proof.Machine.execVbcast d a k w s
  | .vld d a k w => Sys2Proof.Machine.execVld d a k w s
  | .vst d a k w => Sys2Proof.Machine.execVst d a k w s
  | .vlds d a b k w => Sys2Proof.Machine.execVlds d a b k w s
  | .vsts d a b k w => Sys2Proof.Machine.execVsts d a b k w s
  | .vldx d a b k w => Sys2Proof.Machine.execVldx d a b k w s
  | .vstx d a b k w => Sys2Proof.Machine.execVstx d a b k w s
  | .vstxa d a b k w => Sys2Proof.Machine.execVstxa d a b k w s
  | .vldt d a k w => Sys2Proof.Machine.execVldt d a k w s
  | .vstt d a k w => Sys2Proof.Machine.execVstt d a k w s
  | .vperm d a b k w => Sys2Proof.Machine.execVperm d a b k w s
  | .vrotl d a b k w => Sys2Proof.Machine.execVrotl d a b k w s
  | .vtrans d w => Sys2Proof.Machine.execVtrans d w s
  | .vrsum d a k w => Sys2Proof.Machine.execVrsum d a k w s
  | .vrmin d a k w => Sys2Proof.Machine.execVrmin d a k w s
  | .vrmax d a k w => Sys2Proof.Machine.execVrmax d a k w s
  | .vfrsum d a k w => Sys2Proof.Machine.execVfrsum d a k w s
  | .vscan d a k w => Sys2Proof.Machine.execVscan d a k w s
  | .vcompress d a k w => Sys2Proof.Machine.execVcompress d a k w s
  | .vexpand d a k w => Sys2Proof.Machine.execVexpand d a k w s
  | .vselk d a b k w => Sys2Proof.Machine.execVselk d a b k w s
  | .viota d k w => Sys2Proof.Machine.execViota d k w s
  | .vpopk d k w => Sys2Proof.Machine.execVpopk d k w s
  | .ksend d a b k => Sys2Proof.Machine.execKsend d a b k s
  | .vclaim d a => Sys2Proof.Machine.execVclaim d a s
  | .vreneg d => Sys2Proof.Machine.execVreneg d s
  | .vrel => Sys2Proof.Machine.execVrel s
  | .vsetw w => Sys2Proof.Machine.execVsetw w s
  | .vmvg d a b w => Sys2Proof.Machine.execVmvg d a b w s
  | .vmvv d a b w => Sys2Proof.Machine.execVmvv d a b w s
  | .vfence => Sys2Proof.Machine.execVfence s
  | .vbusyq d => Sys2Proof.Machine.execVbusyq d s
  | .kset k a => Sys2Proof.Machine.execKset k a s
  | .kget d k => Sys2Proof.Machine.execKget d k s
  | .mma x m a b p => Sys2Proof.Machine.execMma x m a b p s
  | .mmas x m a b p => Sys2Proof.Machine.execMmas x m a b p s
  | .mspx x m a b p => Sys2Proof.Machine.execMspx x m a b p s
  | .mzero x p => Sys2Proof.Machine.execMzero x p s
  | .mldacc x m a b p => Sys2Proof.Machine.execMldacc x m a b p s
  | .mstacc x m a b p => Sys2Proof.Machine.execMstacc x m a b p s
  | .mwbld m a b p => Sys2Proof.Machine.execMwbld m a b p s
  | .tzset x a b c => Sys2Proof.Machine.execTzset x a b c s
  | .mburst a => Sys2Proof.Machine.execMburst a s
  | .mfence => Sys2Proof.Machine.execMfence s
  | .sgath x c a b => Sys2Proof.Machine.execSgath x c a b s
  | .sscat x a b => Sys2Proof.Machine.execSscat x a b s
  | .sred x a b o => Sys2Proof.Machine.execSred x a b o s
  | .sconv x a b => Sys2Proof.Machine.execSconv x a b s
  | .sfence => Sys2Proof.Machine.execSfence s
  | .sstat a => Sys2Proof.Machine.execSstat a s
  | .cpy x c a b => Sys2Proof.Machine.execCpy x c a b s
  | .cpya x c a => Sys2Proof.Machine.execCpya x c a s
  | .cpymx x c a b => Sys2Proof.Machine.execCpymx x c a b s
  | .cwm c a => Sys2Proof.Machine.execCwm c a s
  | .cwait c a => Sys2Proof.Machine.execCwait c a s
  | .cstrm x c a b => Sys2Proof.Machine.execCstrm x c a b s
  | .cstrmx x c a b => Sys2Proof.Machine.execCstrmx x c a b s
  | .cperm x c a b => Sys2Proof.Machine.execCperm x c a b s
  | .cstop c a => Sys2Proof.Machine.execCstop c a s
  | .add d a b => Sys2Proof.Machine.execAdd d a b s
  | .sub d a b => Sys2Proof.Machine.execSub d a b s
  | .and d a b => Sys2Proof.Machine.execAnd d a b s
  | .or d a b => Sys2Proof.Machine.execOr d a b s
  | .xor d a b => Sys2Proof.Machine.execXor d a b s
  | .andn d a b => Sys2Proof.Machine.execAndn d a b s
  | .sll d a b => Sys2Proof.Machine.execSll d a b s
  | .srl d a b => Sys2Proof.Machine.execSrl d a b s
  | .sra d a b => Sys2Proof.Machine.execSra d a b s
  | .rol d a b => Sys2Proof.Machine.execRol d a b s
  | .mul d a b => Sys2Proof.Machine.execMul d a b s
  | .mulh d a b => Sys2Proof.Machine.execMulh d a b s
  | .mulhn d a b => Sys2Proof.Machine.execMulhn d a b s
  | .div d a b => Sys2Proof.Machine.execDiv d a b s
  | .divn d a b => Sys2Proof.Machine.execDivn d a b s
  | .rem d a b => Sys2Proof.Machine.execRem d a b s
  | .remn d a b => Sys2Proof.Machine.execRemn d a b s
  | .min d a b => Sys2Proof.Machine.execMin d a b s
  | .max d a b => Sys2Proof.Machine.execMax d a b s
  | .minn d a b => Sys2Proof.Machine.execMinn d a b s
  | .maxn d a b => Sys2Proof.Machine.execMaxn d a b s
  | .clz d a => Sys2Proof.Machine.execClz d a s
  | .ctz d a => Sys2Proof.Machine.execCtz d a s
  | .popc d a => Sys2Proof.Machine.execPopc d a s
  | .brev d a => Sys2Proof.Machine.execBrev d a s
  | .bswap d a => Sys2Proof.Machine.execBswap d a s
  | .sext d a b => Sys2Proof.Machine.execSext d a b s
  | .bfx d a b => Sys2Proof.Machine.execBfx d a b s
  | .bfi d a b c => Sys2Proof.Machine.execBfi d a b c s
  | .sel d a b c => Sys2Proof.Machine.execSel d a b c s
  | .addsat d a b => Sys2Proof.Machine.execAddsat d a b s
  | .subsat d a b => Sys2Proof.Machine.execSubsat d a b s
  | .madd d a b c => Sys2Proof.Machine.execMadd d a b c s
  | .addx d a b c => Sys2Proof.Machine.execAddx d a b c s
  | .addi d a xi => Sys2Proof.Machine.execAddi d a xi s
  | .andi d a xi => Sys2Proof.Machine.execAndi d a xi s
  | .ori d a xi => Sys2Proof.Machine.execOri d a xi s
  | .xori d a xi => Sys2Proof.Machine.execXori d a xi s
  | .slli d a xi => Sys2Proof.Machine.execSlli d a xi s
  | .srli d a xi => Sys2Proof.Machine.execSrli d a xi s
  | .srai d a xi => Sys2Proof.Machine.execSrai d a xi s
  | .mini d a xi => Sys2Proof.Machine.execMini d a xi s
  | .maxi d a xi => Sys2Proof.Machine.execMaxi d a xi s
  | .bfxi d a xi => Sys2Proof.Machine.execBfxi d a xi s
  | .wimm d p xi => Sys2Proof.Machine.execWimm d p xi s
  | .wimmk d p xi => Sys2Proof.Machine.execWimmk d p xi s
  | .ceq q c a b => Sys2Proof.Machine.execCeq q c a b s
  | .cne q c a b => Sys2Proof.Machine.execCne q c a b s
  | .clt q c a b => Sys2Proof.Machine.execClt q c a b s
  | .cge q c a b => Sys2Proof.Machine.execCge q c a b s
  | .cltn q c a b => Sys2Proof.Machine.execCltn q c a b s
  | .cgen q c a b => Sys2Proof.Machine.execCgen q c a b s
  | .ctst q c a b => Sys2Proof.Machine.execCtst q c a b s
  | .cbit q c a b => Sys2Proof.Machine.execCbit q c a b s
  | .ceqi q c a xi => Sys2Proof.Machine.execCeqi q c a xi s
  | .cnei q c a xi => Sys2Proof.Machine.execCnei q c a xi s
  | .clti q c a xi => Sys2Proof.Machine.execClti q c a xi s
  | .cgei q c a xi => Sys2Proof.Machine.execCgei q c a xi s
  | .cltni q c a xi => Sys2Proof.Machine.execCltni q c a xi s
  | .cgeni q c a xi => Sys2Proof.Machine.execCgeni q c a xi s
  | .qand q c a b => Sys2Proof.Machine.execQand q c a b s
  | .qor q c a b => Sys2Proof.Machine.execQor q c a b s
  | .qnot q c a => Sys2Proof.Machine.execQnot q c a s
  | .qpack a => Sys2Proof.Machine.execQpack a s
  | .qunpack a => Sys2Proof.Machine.execQunpack a s
  | .prep b xi => Sys2Proof.Machine.execPrep b xi s
  | .prepc b xi => Sys2Proof.Machine.execPrepc b xi s
  | .prepr b a xi => Sys2Proof.Machine.execPrepr b a xi s
  | .preprc b a xi => Sys2Proof.Machine.execPreprc b a xi s
  | .btrd d b => Sys2Proof.Machine.execBtrd d b s
  | .btclr b => Sys2Proof.Machine.execBtclr b s
  | .jmp b q xs => Sys2Proof.Machine.execJmp b q xs s
  | .call b q xs => Sys2Proof.Machine.execCall b q xs s
  | .jmpx b q xs => Sys2Proof.Machine.execJmpx b q xs s
  | .lset xs a xi => Sys2Proof.Machine.execLset xs a xi s
  | .lseti xs n xi => Sys2Proof.Machine.execLseti xs n xi s
  | .lrd d r e => Sys2Proof.Machine.execLrd d r e s
  | .lwr a r e => Sys2Proof.Machine.execLwr a r e s
  | .lbrk e => Sys2Proof.Machine.execLbrk e s
  | .ldb d a m r o => Sys2Proof.Machine.execLdb d a m r o s
  | .ldh d a m r o => Sys2Proof.Machine.execLdh d a m r o s
  | .ldw d a m r o => Sys2Proof.Machine.execLdw d a m r o s
  | .ldd d a m r o => Sys2Proof.Machine.execLdd d a m r o s
  | .ldbn d a m r o => Sys2Proof.Machine.execLdbn d a m r o s
  | .ldhn d a m r o => Sys2Proof.Machine.execLdhn d a m r o s
  | .ldwn d a m r o => Sys2Proof.Machine.execLdwn d a m r o s
  | .ldq d a m r o => Sys2Proof.Machine.execLdq d a m r o s
  | .stb d a m r o => Sys2Proof.Machine.execStb d a m r o s
  | .sth d a m r o => Sys2Proof.Machine.execSth d a m r o s
  | .stw d a m r o => Sys2Proof.Machine.execStw d a m r o s
  | .std d a m r o => Sys2Proof.Machine.execStd d a m r o s
  | .stq d a m r o => Sys2Proof.Machine.execStq d a m r o s
  | .aadd d a b p xs => Sys2Proof.Machine.execAadd d a b p xs s
  | .aand d a b p xs => Sys2Proof.Machine.execAand d a b p xs s
  | .aor d a b p xs => Sys2Proof.Machine.execAor d a b p xs s
  | .axor d a b p xs => Sys2Proof.Machine.execAxor d a b p xs s
  | .amin d a b p xs => Sys2Proof.Machine.execAmin d a b p xs s
  | .amax d a b p xs => Sys2Proof.Machine.execAmax d a b p xs s
  | .aminn d a b p xs => Sys2Proof.Machine.execAminn d a b p xs s
  | .amaxn d a b p xs => Sys2Proof.Machine.execAmaxn d a b p xs s
  | .aswap d a b p xs => Sys2Proof.Machine.execAswap d a b p xs s
  | .acas d a b p xs => Sys2Proof.Machine.execAcas d a b p xs s
  | .afadds d a b p xs => Sys2Proof.Machine.execAfadds d a b p xs s
  | .afaddd d a b p xs => Sys2Proof.Machine.execAfaddd d a b p xs s
  | .aaddW d a b p xs => Sys2Proof.Machine.execAaddW d a b p xs s
  | .aandW d a b p xs => Sys2Proof.Machine.execAandW d a b p xs s
  | .aorW d a b p xs => Sys2Proof.Machine.execAorW d a b p xs s
  | .axorW d a b p xs => Sys2Proof.Machine.execAxorW d a b p xs s
  | .aminW d a b p xs => Sys2Proof.Machine.execAminW d a b p xs s
  | .amaxW d a b p xs => Sys2Proof.Machine.execAmaxW d a b p xs s
  | .aminnW d a b p xs => Sys2Proof.Machine.execAminnW d a b p xs s
  | .amaxnW d a b p xs => Sys2Proof.Machine.execAmaxnW d a b p xs s
  | .aswapW d a b p xs => Sys2Proof.Machine.execAswapW d a b p xs s
  | .acasW d a b p xs => Sys2Proof.Machine.execAcasW d a b p xs s
  | .fence k xs => Sys2Proof.Machine.execFence k xs s
  | .ifence => Sys2Proof.Machine.execIfence s
  | .qfence a => Sys2Proof.Machine.execQfence a s
  | .faddd d a b r o => Sys2Proof.Machine.execFaddd d a b r o s
  | .fsubd d a b r o => Sys2Proof.Machine.execFsubd d a b r o s
  | .fmuld d a b r o => Sys2Proof.Machine.execFmuld d a b r o s
  | .fdivd d a b r o => Sys2Proof.Machine.execFdivd d a b r o s
  | .fsqrtd d a r o => Sys2Proof.Machine.execFsqrtd d a r o s
  | .fmind d a b => Sys2Proof.Machine.execFmind d a b s
  | .fmaxd d a b => Sys2Proof.Machine.execFmaxd d a b s
  | .fmad d a b c => Sys2Proof.Machine.execFmad d a b c s
  | .fabsd d a => Sys2Proof.Machine.execFabsd d a s
  | .fnegd d a => Sys2Proof.Machine.execFnegd d a s
  | .fclassd d a => Sys2Proof.Machine.execFclassd d a s
  | .fceqd d a b => Sys2Proof.Machine.execFceqd d a b s
  | .fcltd d a b => Sys2Proof.Machine.execFcltd d a b s
  | .fcled d a b => Sys2Proof.Machine.execFcled d a b s
  | .fadds d a b r o => Sys2Proof.Machine.execFadds d a b r o s
  | .fsubs d a b r o => Sys2Proof.Machine.execFsubs d a b r o s
  | .fmuls d a b r o => Sys2Proof.Machine.execFmuls d a b r o s
  | .fdivs d a b r o => Sys2Proof.Machine.execFdivs d a b r o s
  | .fsqrts d a r o => Sys2Proof.Machine.execFsqrts d a r o s
  | .fmins d a b => Sys2Proof.Machine.execFmins d a b s
  | .fmaxs d a b => Sys2Proof.Machine.execFmaxs d a b s
  | .fmas d a b c => Sys2Proof.Machine.execFmas d a b c s
  | .fabss d a => Sys2Proof.Machine.execFabss d a s
  | .fnegs d a => Sys2Proof.Machine.execFnegs d a s
  | .fclasss d a => Sys2Proof.Machine.execFclasss d a s
  | .fceqs d a b => Sys2Proof.Machine.execFceqs d a b s
  | .fclts d a b => Sys2Proof.Machine.execFclts d a b s
  | .fcles d a b => Sys2Proof.Machine.execFcles d a b s
  | .fcvt d a b c => Sys2Proof.Machine.execFcvt d a b c s
  | .icvtf d a b c => Sys2Proof.Machine.execIcvtf d a b c s
  | .fcvti d a b c => Sys2Proof.Machine.execFcvti d a b c s
  | .rmode d a => Sys2Proof.Machine.execRmode d a s
  | .rmake d a b r o => Sys2Proof.Machine.execRmake d a b r o s
  | .rnumer d a => Sys2Proof.Machine.execRnumer d a s
  | .rdenom d a => Sys2Proof.Machine.execRdenom d a s
  | .rmed d a b r o => Sys2Proof.Machine.execRmed d a b r o s
  | .rcf d a => Sys2Proof.Machine.execRcf d a s
  | .rfromd d a r o => Sys2Proof.Machine.execRfromd d a r o s
  | .rtod d a r o => Sys2Proof.Machine.execRtod d a r o s
  | .tspawn q a b c => Sys2Proof.Machine.execTspawn q a b c s
  | .tspawnn q a b => Sys2Proof.Machine.execTspawnn q a b s
  | .tspawnu q a b => Sys2Proof.Machine.execTspawnu q a b s
  | .callat q a b => Sys2Proof.Machine.execCallat q a b s
  | .tdone => Sys2Proof.Machine.execTdone s
  | .tts d => Sys2Proof.Machine.execTts d s
  | .tgvt d a => Sys2Proof.Machine.execTgvt d a s
  | .lnch q a b => Sys2Proof.Machine.execLnch q a b s
  | .tidleq d a => Sys2Proof.Machine.execTidleq d a s
  | .msend q a b => Sys2Proof.Machine.execMsend q a b s
  | .msendt q a b => Sys2Proof.Machine.execMsendt q a b s
  | .mrecv d a b c => Sys2Proof.Machine.execMrecv d a b c s
  | .mwait => Sys2Proof.Machine.execMwait s
  | .marm a b => Sys2Proof.Machine.execMarm a b s
  | .rqput a b c => Sys2Proof.Machine.execRqput a b c s
  | .rqtake d c => Sys2Proof.Machine.execRqtake d c s
  | .kbin a b => Sys2Proof.Machine.execKbin a b s
  | .kdrain => Sys2Proof.Machine.execKdrain s
  | .gnew d c => Sys2Proof.Machine.execGnew d c s
  | .gjoin a c => Sys2Proof.Machine.execGjoin a c s
  | .gleave a => Sys2Proof.Machine.execGleave a s
  | .gbar a => Sys2Proof.Machine.execGbar a s
  | .gcount d a => Sys2Proof.Machine.execGcount d a s
  | .gfree a => Sys2Proof.Machine.execGfree a s
  | .qnew d a b c => Sys2Proof.Machine.execQnew d a b c s
  | .qbind a b => Sys2Proof.Machine.execQbind a b s
  | .qunbind a b => Sys2Proof.Machine.execQunbind a b s
  | .qcnt d a => Sys2Proof.Machine.execQcnt d a s
  | .qtry d a c => Sys2Proof.Machine.execQtry d a c s
  | .tdef a b => Sys2Proof.Machine.execTdef a b s
  | .trd d a b => Sys2Proof.Machine.execTrd d a b s
  | .tinv a xs => Sys2Proof.Machine.execTinv a xs s
  | .lutld a b => Sys2Proof.Machine.execLutld a b s
  | .lutrd d a => Sys2Proof.Machine.execLutrd d a s
  | .crr d b c => Sys2Proof.Machine.execCrr d b c s
  | .crw d a b c => Sys2Proof.Machine.execCrw d a b c s
  | .crs d a b c => Sys2Proof.Machine.execCrs d a b c s
  | .crc d a b c => Sys2Proof.Machine.execCrc d a b c s
  | .trap a => Sys2Proof.Machine.execTrap a s
  | .eret b => Sys2Proof.Machine.execEret b s
  | .wfi => Sys2Proof.Machine.execWfi s
  | .tlbi a b => Sys2Proof.Machine.execTlbi a b s
  | .tlbsync => Sys2Proof.Machine.execTlbsync s
  | .ctxpark a b => Sys2Proof.Machine.execCtxpark a b s
  | .ctxload q a => Sys2Proof.Machine.execCtxload q a s
  | .brkpt => Sys2Proof.Machine.execBrkpt s
  | .monrd d a => Sys2Proof.Machine.execMonrd d a s

end Sys2Proof.Machine
end

