-- ==== Sys2Proof/Machine/Due.lean ====
section
/-! DEFINITION. What the device may do next: the events that its parts ask for, the slots that may issue, the events that the
device time counter brings, and the fetch of the instruction that a slot issues (R19, R22, R184, R343, R369, R373, R413). -/

namespace Sys2Proof.Machine

open Host (Cell)

/-! The events that a state asks for. Each list holds candidates: an event whose condition does not hold changes nothing. -/

/-- The event that takes a miss register further (R134, R135). -/
def Miss.event (m : Miss) (core : Nat) : List Instr :=
  if m.granted.isSome then [.fill core m.line]
  else if m.sent then []
  else match m.want with
    | .gets => [.gets core m.line]
    | .getm => [.getm core m.line]
    | .upg => [.upg core m.line]

/-- The event that takes an entry of a writeback buffer further (R140). -/
def wbufEvent (core : Nat) (w : Nat × LineState × Bool) : Instr :=
  if w.2.2 then .wback core w.1 else match w.2.1 with
    | .m => .putm core w.1
    | _ => .pute core w.1

/-- The events of a core's caches, queues and receiving unit. -/
def Core.events (x : Core) (core : Nat) : List Instr :=
  x.misses.flatMap (fun m => m.event core) ++ x.wbuf.map (wbufEvent core) ++
  (x.vq.map (·.slot)).eraseDups.map Instr.vectorCommandExecute ++
  (if x.mq.isEmpty then [] else [.matrixQueueHead core, .matrixCommandComplete core]) ++
  (if x.sq.isEmpty then [] else [.stackSnapshot core, .stackElement core, .stackCommandComplete core]) ++
  (if x.keys.isEmpty then [] else [.binUpdate core])

/-- The events of a transaction that the directories serve (R135, R136, R139). -/
def Txn.events (t : Txn) : List Instr :=
  t.out.map (fun m => if m.fwd then .fwd m.core t.line else .inv m.core t.line) ++
  t.answers.map (fun a => if a.2 then .dack a.1 t.line else .ack a.1 t.line) ++
  (match t.kind with
    | .request c _ _ => if t.complete then [.grant c t.line] else []
    | .home _ w => if t.ready then [.uncachedHomeAccess t.line w] else []
    | _ => [])

/-- The events of a die's walk unit and of its takeovers (R93, R396). -/
def Die.events (x : Die) (die : Nat) : List Instr :=
  (if x.walks.isEmpty then [] else [.walkRequest die, .walkResult die, .adUpdate die]) ++ x.takeover.map (Instr.takeoverComplete die)

/-- The events of an open channel. -/
def channelEvents (tile ch : Nat) : List Instr :=
  [.transferStart tile ch, .lineReturn tile ch, .transferComplete tile ch, .handlePush tile ch, .followOnPlacement tile ch
   , .streamRefill tile ch, .streamDrain tile ch]

/-- The events of a tile: its channels, its array, its task unit, pre-emption and gating. -/
def State.tileEvents (s : State) (tile : Nat) (t : Tile) : List Instr :=
  (List.range 16).flatMap (fun ch => if (t.chan ch).transfers.isEmpty then [] else channelEvents tile ch) ++
  (if t.array = .off ∧ (tileCores tile).all (fun c => (s.core c).mq.isEmpty) then []
   else [.arrayCommandStart tile, .arrayRampupDone tile, .arrayIdleTimeout tile, .arrayHoldTimeout tile, .arrayRampdownDone tile]) ++
  (if t.spilled.isEmpty then [] else [.taskReload tile]) ++
  (t.commit.filterMap fun e => if e.2.stage = .aborting then some (.crumbRestore tile e.1) else none) ++
  ((s.heldWork tile).map (·.1)).eraseDups.map (Instr.preemptionRequest tile) ++
  (if t.gating then [.regionGating (tile / 128) (logicalTile tile / 4)] else [])

/-- The events of a thread's request. -/
def Thread.requestEvents (t : Thread) (h : Nat) : List Instr :=
  match t.outstanding with
  | none => []
  | some o =>
    let answer (i : Instr) : List Instr := [if t.park.isSome then .answerWrite h else i]
    match o.req with
    | .spawn _ _ none => [.spawnArrival h]
    | .spawn _ _ (some _) => answer (.spawnAnswer h)
    | .message _ _ none => [.messageArrival h]
    | .message _ _ (some _) => answer (.messageAnswer h)
    | .group _ => answer (.groupAnswer h)
    | .lnch _ => answer (.lnchAnswer h)
    | .atomic _ _ _ _ _ _ r => if r.isSome then [.answerWrite h] else []
    | .rational .. => [.rationalOperationComplete h]

/-- The events of a slot or saved context. -/
def State.threadEvents (s : State) (h : Nat) (t : Thread) : List Instr :=
  (List.range t.sb.length).map (Instr.storeBufferDrain h) ++ t.requestEvents h ++
  (if t.park.isSome then [.contextResume h]
   else
    (List.range 11).flatMap (fun w => match t.windowAt w with
      | (_, .inFlight _) => [.windowArrival h w, .windowFetchFailure h w]
      | _ => []) ++
    (if t.wait = some .fetch then [.fetchBufferArrival h] else []) ++
    (if s.takesReport h then [.frozenCommandReport h] else if s.takesInterrupt h then [.interruptTake h] else []) ++
    (if t.wait = some .wfi then [.timerExpiry h] else []) ++
    (if (t.kind != .empty && t.halt.isSome) || t.yields then [.slotHalt h] else []) ++
    (if t.lqV then [.taskDispatch h] ++ (if t.kind = .empty then [.pieceStart h, .lmImageCopy h] else []) else []))

/-- The events of a queue's words and credits between dies (R182). -/
def HwQueue.events (q : HwQueue) (id : Nat) : List Instr :=
  (if q.transit.isEmpty then [] else [.queuePushArrival id]) ++ (if q.returning = 0 then [] else [.queueCreditReturn id])

/-- The events of bring-up that need nothing from outside (R411, R412). -/
def State.phaseEvents (s : State) : List Instr :=
  match s.phase with
  | .train => [.trainingComplete]
  | .config => if s.warm then [.keptConfigurationReapplied] else []
  | .init => [.initComplete]
  | _ => []

/-- The event of a waiting inbound packet (R406). -/
def Inbound.event (p : Inbound) : Instr :=
  match p.data with
  | some bs => .inboundRdmaWrite ⟨p.via, p.key⟩ p.va bs
  | none => .inboundRdmaRead ⟨p.via, p.key⟩ p.va p.len

/-- Every event that the state may ask for. -/
def State.candidates (s : State) : List Instr :=
  s.cores.flatMap (fun c => c.2.events c.1) ++ s.txns.flatMap Txn.events ++
  s.homeReqs.map (fun r => .uncachedHomeAccess r.line r.write) ++
  s.dies.flatMap (fun d => d.2.events d.1) ++
  ((s.drops.zipIdx).filter fun d => !d.1.targets.isEmpty).map (fun d => if d.1.kind = 4 then .tensorCacheDrop d.2 else .tlbiDrop d.2) ++
  ((s.cur, s.th) :: s.threads).flatMap (fun t => s.threadEvents t.1 t.2) ++
  s.tiles.flatMap (fun t => s.tileEvents t.1 t.2) ++ s.queues.flatMap (fun q => q.2.events q.1) ++
  s.lqueues.flatMap (fun q => if q.2.launches.isEmpty then [] else [.launchExpansion q.1, .launchRecordRead q.1]) ++
  (s.launches.filter fun l => l.2.expanded).map (fun l => .launchCompletionUpdate l.1) ++
  s.migrating.map (fun m => .migrationArrival m.1) ++
  (s.domains.filter fun d => d.2.active && !d.2.stopped).map (fun d => .domainAgeExpiry d.1) ++
  s.inbound.map Inbound.event ++ s.commands.map (·.cmd) ++ s.phaseEvents

/-- A list from a place on, and then round to it. -/
def rotate (n : Nat) (l : List α) : List α := l.drop (n % l.length) ++ l.take (n % l.length)

/-! The events of the device time counter. -/

/-- What falls due at a value of TIME (R343, R369, R373, R413). The power that the controller reads is free. -/
def State.periodic (s : State) : State :=
  let every (n k : Nat) (i : Instr) : List Pick := if s.time % n = k then [.event i] else []
  let l := every 256 0 .virtualTimeSample ++ every 256 140 .gvtPublish ++ every 2048 0 .idleTreeSample ++ every 4096 0 .rotationBoundary
  if s.time % 1100 = 0 then
    let (w, s) := s.choose 4096
    { s with agenda := l ++ [.event (.powerControlSample w)] ++ s.agenda }
  else { s with agenda := l ++ s.agenda }

/-! Issue (R19, R22, R184). -/

/-- Whether a slot may issue now: it holds a thread that is out of every wait, or whose wait may have ended, and 4 clk have
passed since it last issued (R19, R184). -/
def Thread.canIssue (t : Thread) (now progress : Nat) : Bool :=
  t.kind != .empty && t.park.isNone && t.frozen.isNone && t.entering.isNone && t.outstanding.isNone && decide (t.issueAt ≤ now) &&
  (match t.wait with
    | none => true
    | some .fetch => false
    | some _ => decide (t.waitMark < progress))

/-- The slots that may issue now. -/
def State.issuable (s : State) : List (Nat × Thread) := ((s.cur, s.th) :: s.threads).filter fun t => t.2.canIssue s.time s.progress
/-- Those of them whose line a fill has just brought: their cores go first, so that an invalidation does not take it away unused
(log 2). -/
def State.served (s : State) : List (Nat × Thread) := s.issuable.filter fun t => t.2.wait.isSome && t.2.waitMark == 0

/-- The slot that a core issues from next: the first that may issue after the one that issued last, in ascending order (R184). -/
def State.coreNext (s : State) (c : Nat) : Option Nat :=
  leastBy (fun h => (h % 8 + 15 - (s.core c).lastSlot) % 8) ((s.issuable.map (·.1)).filter fun h => coreOf h == c)
/-- The slot that issues next: of the cores in rotation, those with a line that has just come first (log 2). -/
def State.nextSlot (s : State) : Option Nat :=
  (leastBy (fun c => (c + 8192 - coreOf s.cur - 1) % 4096)
    ((if s.served.isEmpty then s.issuable else s.served).map fun t => coreOf t.1)).bind s.coreNext

/-- What the fetch buffer gives for the instruction at the program counter (R21, R22, R313). -/
inductive Fetch where
  /-- The instruction's bytes. -/
  | bytes (bs : List Byte)
  /-- The bytes have not arrived. -/
  | missing
  /-- Their fetch failed. -/
  | failed (c : Cause)
  deriving DecidableEq, Repr

/-- The bytes of the instruction at the program counter. -/
def Thread.fetch (t : Thread) : Fetch :=
  let bs := (t.fbuf.from_ t.pc.toNat).map (·.2)
  let need := match bs with
    | b :: _ => instrLength b
    | [] => 2
  if need ≤ bs.length then .bytes (bs.take need)
  else match t.fbuf.failure t.pc.toNat with
    | some c => .failed c
    | none => .missing

/-- The fault or violation that is held for the task in focus (R345). -/
def State.heldCause (s : State) : Option (Nat × Nat × CommitEntry × Cause) :=
  match s.myEntry with
  | some (t, e, x) => x.held.map fun c => (t, e, x, c)
  | none => none

/-- The delivery of a held fault or violation to the earliest task, whose handler's stores log crumbs like any other; otherwise it stays
held (R326, R345, R428). -/
def State.deliverHeldCause (s : State) (t e : Nat) (x : CommitEntry) (c : Cause) : State :=
  if s.earliest x then
    let s := s.setEntry t e { x with held := none }
    { s with th := { s.th with wait := none } }.deliver c
  else s

/-- A poison fault that a store of the thread in focus met when it performed: a trap at this boundary, with EPC at the store and TVAL its
address, whatever the thread waits for; a speculative task waits for it as for the escalation (R147, R201, R345, R456; log 17). -/
def State.takeStoreFault (s : State) (va pc : Word) (rest : List (Word × Word)) : State :=
  let trap (s : State) : State := ({ s with th := { s.th.settle with storeFaults := rest } } : State).trapEntry false false 0 0 (code 1 13) va pc
  match s.myEntry with
  | some (_, _, x) =>
    if x.irrevocable || s.earliest x then trap s
    else { s with th := { s.th with wait := some .escalation } }
  | none => trap s

/-- Whether a slot's turn has issued no instruction: its wait has not ended, or its instruction's bytes have not arrived (R19, R22). -/
def State.stillWaits (s before : State) (h : Nat) : Bool :=
  (s.thread h).wait.isSome && ((s.thread h).wait == (before.thread h).wait || (s.thread h).wait == some .fetch)

/-- Whether the turn of the slot in focus is the issue of its next instruction: no event is taken at the boundary, and no instruction
that issued earlier ends its wait, nor goes on to another (R16, R19, R184). -/
def State.issuesNow (s : State) : Bool :=
  s.th.storeFaults.isEmpty && !s.takesReport s.cur && !s.takesInterrupt s.cur && s.heldCause.isNone &&
  !(s.renegotiateDue s.cur).th.reneg && (s.th.reneg || s.th.wait.isNone || s.th.wait == some .fetch)

/-- A slot after its turn. One that has issued an instruction may issue again 4 clk later, and its core goes on with the slots after it; a
wait is looked at again when anything else has happened; work of a quiescent domain is active again. A slot that still waits has done
nothing, and one whose wait has ended, or that has taken an event at the boundary, has taken no issue opportunity (R16, R19, R184, R373;
log 1). -/
def State.afterIssue (s before : State) (h : Nat) : State :=
  if s.stillWaits before h then s.modThread h fun t => { t with waitMark := s.progress }
  else
    let s := match (before.thread h).workDomain with
      | some d => if (s.domain d).quiescent then s.setDomain d { s.domain d with quiescent := false } else s
      | none => s
    let s : State := { s with progress := s.progress + 1 }
    let s := s.modThread h fun t => { t with waitMark := if t.wait.isSome then (if t.served.isSome then 0 else s.progress) else t.waitMark }
    if before.issuesNow then
      (s.modThread h fun t => { t with issueAt := before.time + 4 }).modCoreAt (coreOf h) fun c => { c with lastSlot := h % 8 }
    else s

/-- What a step leaves: saved contexts' images are up to date, slots that it has freed pass on, and the tiles' demand is known (R369,
R370, R391). -/
def State.tidy (s before : State) : State := ((s.syncContexts before).assignFreed before).watchDemand
/-- The clk ends: TIME counts, and what falls due at its new value is next (R5). -/
def State.endStep (s before : State) : State :=
  (({ s with time := s.time + 1 } : State).tidy before).periodic
/-- The end of a slot's turn, which began with the slot in focus: the clk ends where it has issued (R19, R184). -/
def State.endTurn (s focused before : State) (h : Nat) : State :=
  let t := s.afterIssue focused h
  if s.stillWaits focused h then t.tidy before else t.endStep before

end Sys2Proof.Machine
end

