-- ==== Sys2Proof/Machine/Step.lean ====
section
/-! DEFINITION. One step of the device: an event of the opcode table, or one slot's issue of its next instruction. -/

namespace Sys2Proof.Machine

/-- Applies a function to the state of an outcome. -/
def onNext (f : State → State) (o : Host.Outcome State Fault Refusal) : Host.Outcome State Fault Refusal :=
  match o with
  | .next s => .next (f s)
  | .fault r => .fault r
  | .refused r => .refused r

/-- Whether an event changes anything now. -/
def State.acts (s : State) (i : Instr) : Bool :=
  match exec i s with
  | .next t => t != s
  | _ => true

/-- The store-buffer entries that may drain, as events. -/
def State.drains (s : State) : List Instr :=
  ((s.cur, s.th) :: s.threads).flatMap fun t => (List.range t.2.sb.length).map (Instr.storeBufferDrain t.1)

/-- The event that the state asks for now: the first candidate, from a place that moves with TIME, that changes anything. Every
other time a store-buffer entry that may drain goes first (log 2). -/
def State.due (s : State) : Option Instr :=
  ((if s.time % 4 = 1 then s.drains else []) ++ rotate (s.time / 2) s.candidates).find? s.acts

/-- An event as a step: progress is counted (log 1). A command that has to wait is held (R403). An agenda that names no event of the
table, or an agent the device does not have, is refused as a fault. -/
def State.stepEvent (s before : State) (i : Instr) : Host.Outcome State Fault Refusal :=
  if i.encoded || !i.wf then .fault .noSuchAgent
  else if (commandHeader i).any s.commandWaits then .next ((s.holdCommand i).endStep before)
  else onNext (fun t => ({ t with progress := t.progress + 1 } : State).endStep before) (exec i s)

/-- The instruction at the program counter of the slot in focus, decoded and executed; bytes that have not arrived are waited for, and
bytes without a meaning raise illegal-instruction (R22, R32). -/
noncomputable def State.issueNext (s : State) : Host.Outcome State Fault Refusal :=
  match s.th.fetch with
  | .missing => .next { s with th := { s.th with wait := some .fetch } }
  | .failed c => .next (after (raise c) s)
  | .bytes bs => match decode bs with
    | .ok (i, _) => exec i { s with th := { s.th with wait := none } }
    | .error _ => .next (after (fault 0 1 s.instrWord) s)

/-- The turn of the slot in focus: at this boundary a store's fault, a report or an interrupt, or a held fault; then a renegotiation
that it owes, for which it waits until its vector commands have executed; and otherwise its instruction (R147, R225, R345, R384,
R389). -/
noncomputable def State.issueFocus (s : State) : Host.Outcome State Fault Refusal :=
  match s.th.storeFaults with
  | (va, pc) :: rest => .next (s.takeStoreFault va pc rest)
  | [] =>
    if s.takesReport s.cur then exec (.frozenCommandReport s.cur) s
    else if s.takesInterrupt s.cur then exec (.interruptTake s.cur) s
    else match s.heldCause with
      | some (t, e, x, c) => .next (s.deliverHeldCause t e x c)
      | none =>
        let u := s.renegotiateDue s.cur
        if u.th.reneg then .next { u with th := { u.th with wait := some .memoryReply } } else u.issueNext

/-- A slot's issue as a step; a slot that is not the next of its core to issue lets the clk pass (R184). -/
noncomputable def State.stepIssue (s before : State) (h : Nat) : Host.Outcome State Fault Refusal :=
  if !slotOk h then .fault .noSuchAgent
  else if s.coreNext (coreOf h) = some h then
    onNext (fun t => t.endTurn (s.focus h) before h) (s.focus h).issueFocus
  else .next (s.endStep before)

/-- One step: what the agenda prescribes; otherwise a slot's issue or an event that is due, taking turns, a slot whose line has just
arrived going first; and otherwise the clk passes (log 2). -/
noncomputable def step (s : State) : Host.Outcome State Fault Refusal :=
  match s.agenda with
  | .event i :: rest => ({ s with agenda := rest } : State).stepEvent s i
  | .issue h :: rest => ({ s with agenda := rest } : State).stepIssue s h
  | [] =>
    if s.time % 2 = 0 || !s.served.isEmpty then
      match s.nextSlot with
      | some h => s.stepIssue s h
      | none => match s.due with
        | some i => s.stepEvent s i
        | none => .next (s.endStep s)
    else
      match s.due with
      | some i => s.stepEvent s i
      | none => match s.nextSlot with
        | some h => s.stepIssue s h
        | none => .next (s.endStep s)

/-- The state with an instruction in the fetch buffer of the thread in focus, which is a persistent thread in S mode that issues
next (log 40). -/
def State.withFetchWord (s : State) (nbits w : Nat) : State :=
  let cells : List Host.Cell := ((tableBytes nbits w).zipIdx).map fun b => (2 ^ 60 + b.2, b.1)
  { s.modCore fun c => { c with lastSlot := (s.cur % 8 + 7) % 8 } with
    agenda := [.issue s.cur]
    th := { s.th with
      kind := .persistent, park := none, thstat := 0x108, frozen := none, halt := none, entering := none, outstanding := none, wait := none
      refetched := none, walkFail := [], posted := none, served := none, issueAt := 0, reports := [], entry := none, task := none
      storeFaults := [], reneg := false
      fbuf := { base := s.th.pc.toNat, cells := cells, fail := none } } }

end Sys2Proof.Machine
end

