-- ==== Sys2Proof/Safety.lean ====
section
/-! DEFINITION. The terms in which claims are stated: when a register operand can be used at once, what an instruction
leaves behind, and the canonical form of memory. -/

namespace Sys2Proof.Machine

/-! Memory. -/

/-- The memory is in its canonical form: addresses strictly rising and no entry that reads as an unlisted address does. -/
def Memory.wf (s : State) : Bool := cellsWf s.mem

/-- Every byte of the physical address space reads in the second state as in the first. -/
def sameMemory (s t : State) : Prop := ∀ a, t.byte a = s.byte a

/-- Every byte outside a range of n bytes at pa reads in the second state as in the first. -/
def sameMemoryBut (pa n : Nat) (s t : State) : Prop := ∀ a, a < pa ∨ pa + n ≤ a → t.byte a = s.byte a

/-! Register operands (R34, R175, R180, R194). -/

/-- A general register without a queue binding and without a stream: g0 to g23 always, g24 to g31 while unbound. -/
def Thread.plain (t : Thread) (r : Reg) : Bool := (t.gBind r).isNone && (t.gStream r).isNone

/-- The thread's own access of the place of an element in a stream's ring goes ahead now: no other transfer's watermark is below it, it
meets no speculative task, and no poison that it would take (R147, R159, R336, R337). -/
def State.ringReady (s : State) (x : Stream) (write : Bool) : Bool :=
  let pa := x.place s.myWindow x.used
  !s.unlanded pa x.esize 0 && (s.conflicts .nonSpec (some (coreOf s.cur)) pa x.esize write).isEmpty &&
  !(if write then s.poisonNarrow pa x.esize else s.poisoned pa x.esize)

/-- A source operand that an instruction can read now: a plain register; a consumer-bound one whose queue, of the thread's ASID, holds a
word, or an input-streaming one whose next element is in the ring and can be read, of a thread that is no speculative task (R175, R177,
R180, R183). -/
def State.sourceReady (s : State) (r : Reg) : Bool :=
  match s.th.gBind r with
  | some b => !s.speculative && !b.producer && (match s.queue b.queue with
    | some q => q.asid == wfield s.th.asid 13 0 && !q.words.isEmpty
    | none => true)
  | none => match s.th.gStream r with
    | some x => !s.speculative && !x.output && decide (x.used < x.moved) && s.ringReady x false
    | none => true

/-- A destination operand that an instruction can write now: a plain register; a producer-bound one whose queue, of the thread's ASID,
takes a word while the thread's stores have performed; an input-streaming one, whose stream the write ends; or an output-streaming one
with room in its ring that can be written, of a thread that is no speculative task (R175, R176, R177, R180, R182, R183). -/
def State.destReady (s : State) (r : Reg) : Bool :=
  match s.th.gBind r with
  | some b => !s.speculative && b.producer && (match s.queue b.queue with
    | some q => q.asid == wfield s.th.asid 13 0 && q.canPush && s.th.sb.isEmpty
    | none => true)
  | none => match s.th.gStream r with
    | some x => !s.speculative &&
        (!x.output || (decide (x.used < x.total) && decide (x.used - x.moved < x.capacity) && s.ringReady x true))
    | none => true

/-- Every source and destination operand of an instruction can be used now. -/
def State.ready (s : State) (srcs dsts : List Reg) : Bool := srcs.all s.sourceReady && dsts.all s.destReady

/-- The instruction at the program counter is the last of no active loop body (R319). -/
def Thread.noLoopEnd (t : Thread) : Bool :=
  [0#1, 1#1].all fun n => (get2 t.loops n).lc == 0#32 || (get2 t.loops n).le.zeroExtend 64 != t.pc

/-- The state after an instruction that wrote plain registers and set nothing else: general registers, the program counter
past the instruction, and the model's marks of an instruction in progress cleared. -/
def State.wrote (s : State) (len : Nat) (ws : List (Reg × Word)) : State :=
  let g := ws.foldl (fun g w => if w.1 = 0#5 then g else regSet g w.1 w.2) s.th.g
  { s with th := { s.th.settle with g := g, pc := s.th.pc + BitVec.ofNat 64 len } }

/-! What the rules give for the integer and compare instructions, read as numbers: sources, destination and result. -/

/-- The signed number of bits [63:0] clamped to 64 bits (R188). -/
def clampInt (v : Int) : Word := BitVec.ofInt 64 (max (-(2 ^ 63)) (min v (2 ^ 63 - 1)))

/-- The result of an IOP, IOPI or WIDE instruction that R188, R189, R191, R192 and R193 give as a number. -/
def arithRule (s : State) : Instr → Option (List Reg × Reg × Word)
  | .add d a b => some ([a, b], d, BitVec.ofNat 64 ((s.rd a).toNat + (s.rd b).toNat))
  | .sub d a b => some ([a, b], d, BitVec.ofInt 64 ((s.rd a).toNat - (s.rd b).toNat))
  | .and d a b => some ([a, b], d, s.rd a &&& s.rd b)
  | .or d a b => some ([a, b], d, s.rd a ||| s.rd b)
  | .xor d a b => some ([a, b], d, s.rd a ^^^ s.rd b)
  | .andn d a b => some ([a, b], d, s.rd a &&& ~~~s.rd b)
  | .sll d a b => some ([a, b], d, BitVec.ofNat 64 ((s.rd a).toNat * 2 ^ ((s.rd b).toNat % 64)))
  | .srl d a b => some ([a, b], d, BitVec.ofNat 64 ((s.rd a).toNat / 2 ^ ((s.rd b).toNat % 64)))
  | .sra d a b => some ([a, b], d, BitVec.ofInt 64 ((s.rd a).toInt / 2 ^ ((s.rd b).toNat % 64)))
  | .rol d a b => some ([a, b], d, (s.rd a).rotateLeft ((s.rd b).toNat % 64))
  | .mul d a b => some ([a, b], d, BitVec.ofInt 64 ((s.rd a).toInt * (s.rd b).toInt))
  | .mulh d a b => some ([a, b], d, (((s.rd a).signExtend 128 * (s.rd b).signExtend 128 : BitVec 128)).extractLsb' 64 64)
  | .mulhn d a b => some ([a, b], d, (((s.rd a).zeroExtend 128 * (s.rd b).zeroExtend 128 : BitVec 128)).extractLsb' 64 64)
  | .div d a b => some ([a, b], d, if s.rd b = 0#64 then BitVec.allOnes 64 else (s.rd a).sdiv (s.rd b))
  | .divn d a b => some ([a, b], d, if s.rd b = 0#64 then BitVec.allOnes 64 else (s.rd a).udiv (s.rd b))
  | .rem d a b => some ([a, b], d, (s.rd a).srem (s.rd b))
  | .remn d a b => some ([a, b], d, (s.rd a).umod (s.rd b))
  | .min d a b => some ([a, b], d, BitVec.ofInt 64 (min (s.rd a).toInt (s.rd b).toInt))
  | .max d a b => some ([a, b], d, BitVec.ofInt 64 (max (s.rd a).toInt (s.rd b).toInt))
  | .minn d a b => some ([a, b], d, BitVec.ofNat 64 (min (s.rd a).toNat (s.rd b).toNat))
  | .maxn d a b => some ([a, b], d, BitVec.ofNat 64 (max (s.rd a).toNat (s.rd b).toNat))
  | .addsat d a b => some ([a, b], d, clampInt ((s.rd a).toInt + (s.rd b).toInt))
  | .subsat d a b => some ([a, b], d, clampInt ((s.rd a).toInt - (s.rd b).toInt))
  | .sel d a b c => some ([a, b], d, if s.q c then s.rd a else s.rd b)
  | .madd d a b c => some ([a, b, c], d, BitVec.ofNat 64 ((s.rd a).toNat * (s.rd b).toNat + (s.rd c).toNat))
  | .addi d a i => some ([a], d, BitVec.ofInt 64 ((s.rd a).toNat + i.toInt))
  | .andi d a i => some ([a], d, s.rd a &&& BitVec.ofInt 64 i.toInt)
  | .ori d a i => some ([a], d, s.rd a ||| BitVec.ofInt 64 i.toInt)
  | .xori d a i => some ([a], d, s.rd a ^^^ BitVec.ofInt 64 i.toInt)
  | .slli d a i => some ([a], d, BitVec.ofNat 64 ((s.rd a).toNat * 2 ^ i.toNat))
  | .srli d a i => some ([a], d, BitVec.ofNat 64 ((s.rd a).toNat / 2 ^ i.toNat))
  | .srai d a i => some ([a], d, BitVec.ofInt 64 ((s.rd a).toInt / 2 ^ i.toNat))
  | .mini d a i => some ([a], d, BitVec.ofInt 64 (min (s.rd a).toInt i.toInt))
  | .maxi d a i => some ([a], d, BitVec.ofInt 64 (max (s.rd a).toInt i.toInt))
  | .wimm d p i => some ([], d, BitVec.ofNat 64 (i.toNat * 2 ^ (16 * p.toNat)))
  | _ => none

/-- Sources, destination and what R190, R192 and R193 say of each bit of the result of an instruction on bits. -/
def bitRule (s : State) : Instr → Option (List Reg × Reg × (Word → Prop))
  | .clz d a => some ([a], d, fun v => v.toNat ≤ 64 ∧ (∀ i < v.toNat, (s.rd a).getLsbD (63 - i) = false) ∧
      (v.toNat < 64 → (s.rd a).getLsbD (63 - v.toNat) = true))
  | .ctz d a => some ([a], d, fun v => v.toNat ≤ 64 ∧ (∀ i < v.toNat, (s.rd a).getLsbD i = false) ∧
      (v.toNat < 64 → (s.rd a).getLsbD v.toNat = true))
  | .popc d a => some ([a], d, fun v => v.toNat = ((List.range 64).map fun i => ((s.rd a).getLsbD i).toNat).sum)
  | .brev d a => some ([a], d, fun v => ∀ i < 64, v.getLsbD (63 - i) = (s.rd a).getLsbD i)
  | .bswap d a => some ([a], d, fun v => ∀ i < 8, v.extractLsb' (8 * (7 - i)) 8 = (s.rd a).extractLsb' (8 * i) 8)
  | .sext d a b => some ([a, b], d, fun v => ∀ i < 64, v.getLsbD i = (s.rd a).getLsbD (min i ((s.rd b).toNat % 64)))
  | .bfx d a b => some ([a, b], d, fun v =>
      let pos := wfield (s.rd b) 5 0
      let len := min (wfield (s.rd b) 12 6) (64 - pos)
      ∀ i < 64, v.getLsbD i =
        if i < len then (s.rd a).getLsbD (pos + i) else decide (0 < len) && (s.rd b).getLsbD 13 && (s.rd a).getLsbD (pos + len - 1))
  | .bfi d a b c => some ([a, b, c], d, fun v =>
      let pos := wfield (s.rd b) 5 0
      let len := min (wfield (s.rd b) 12 6) (64 - pos)
      ∀ i < 64, v.getLsbD i = if pos ≤ i ∧ i < pos + len then (s.rd a).getLsbD (i - pos) else (s.rd c).getLsbD i)
  | .bfxi d a m => some ([a], d, fun v =>
      let pos := wfield m 5 0
      let len := min (wfield m 11 6 + 1) (64 - pos)
      ∀ i < 64, v.getLsbD i = (decide (i < len) && (s.rd a).getLsbD (pos + i)))
  | .wimmk d p m => some ([d], d, fun v => ∀ i < 64, v.getLsbD i =
      if 16 * p.toNat ≤ i ∧ i < 16 * p.toNat + 16 then m.getLsbD (i - 16 * p.toNat) else (s.rd d).getLsbD i)
  | _ => none

/-- Condition register, combine field, sources and truth value of a compare, as R195 and R196 give them. -/
def truthRule (s : State) : Instr → Option (BitVec 3 × BitVec 2 × List Reg × Prop)
  | .ceq q c a b => some (q, c, [a, b], s.rd a = s.rd b)
  | .cne q c a b => some (q, c, [a, b], s.rd a ≠ s.rd b)
  | .clt q c a b => some (q, c, [a, b], (s.rd a).toInt < (s.rd b).toInt)
  | .cge q c a b => some (q, c, [a, b], (s.rd b).toInt ≤ (s.rd a).toInt)
  | .cltn q c a b => some (q, c, [a, b], (s.rd a).toNat < (s.rd b).toNat)
  | .cgen q c a b => some (q, c, [a, b], (s.rd b).toNat ≤ (s.rd a).toNat)
  | .ctst q c a b => some (q, c, [a, b], s.rd a &&& s.rd b ≠ 0#64)
  | .cbit q c a b => some (q, c, [a, b], (s.rd a).getLsbD ((s.rd b).toNat % 64) = true)
  | .ceqi q c a i => some (q, c, [a], (s.rd a).toInt = i.toInt)
  | .cnei q c a i => some (q, c, [a], (s.rd a).toInt ≠ i.toInt)
  | .clti q c a i => some (q, c, [a], (s.rd a).toInt < i.toInt)
  | .cgei q c a i => some (q, c, [a], i.toInt ≤ (s.rd a).toInt)
  | .cltni q c a i => some (q, c, [a], (s.rd a).toNat < (i.signExtend 64).toNat)
  | .cgeni q c a i => some (q, c, [a], (i.signExtend 64).toNat ≤ (s.rd a).toNat)
  | .qand q c a b => some (q, c, [], s.q a = true ∧ s.q b = true)
  | .qor q c a b => some (q, c, [], s.q a = true ∨ s.q b = true)
  | .qnot q c a => some (q, c, [], s.q a = false)
  | _ => none

/-! Exceptions (R385 to R389). -/

/-- The trap of the thread in focus for a fault of an instruction (R385). -/
def State.trapped (s : State) (src cause : Nat) (tval : Word) : State :=
  { s with th := (s.th.saveTrap false false 0 0 (src * 64 + cause) tval s.th.pc).enterHandler }

/-- The freeze of a slot's thread by a violation or by a fault while EXL = 1, with its report (R388, R389): the thread keeps its registers,
condition registers, status and program counter, no byte of memory changes, and the report enters the inbox that FRZTO names where that is
valid and takes it, and is recorded for the host otherwise. -/
def State.freezes (s : State) (c : Cause) (t : State) : Prop :=
  let d := s.forwarded (wfield s.th.frzto 14 0)
  let m : Message := { payload := c.tval, tsFlag := true, ch := 2#2, tag := 62#6, sender := BitVec.ofNat 15 s.cur
                       ts := BitVec.ofNat 64 (2 ^ 63 + c.code) }
  let told : Prop := s.th.frzto.getLsbD 15 = true ∧ s.accepts d = true
  (t.thread s.cur).frozen = some c ∧ (t.thread s.cur).g = s.th.g ∧ (t.thread s.cur).q = s.th.q ∧ (t.thread s.cur).pc = s.th.pc ∧
  (t.thread s.cur).thstat = s.th.thstat ∧ (t.thread s.cur).cause = s.th.cause ∧ sameMemory s t ∧
  (told → (t.thread d).inbox = (s.thread d).inbox ++ [m] ∧ t.fwlog = s.fwlog) ∧
  (¬told → t.fwlog = s.fwlog ++ [(s.cur, c.code, c.tval)] ∧ ∀ h, (t.thread h).inbox = (s.thread h).inbox)

/-! Loads and stores (R199 to R204). -/

/-- What the fields of a load say: destination registers, base register, mode, ord, offset, size in bytes, and the values that the n
bytes read, as a number, give the destinations (R199, R202). -/
def loadRule : Instr → Option (List Reg × Reg × BitVec 2 × BitVec 2 × BitVec 9 × Nat × (Nat → List (Reg × Word)))
  | .ldb d a m r o => some ([d], a, m, r, o, 1, fun v => [(d, (BitVec.ofNat 8 v).signExtend 64)])
  | .ldh d a m r o => some ([d], a, m, r, o, 2, fun v => [(d, (BitVec.ofNat 16 v).signExtend 64)])
  | .ldw d a m r o => some ([d], a, m, r, o, 4, fun v => [(d, (BitVec.ofNat 32 v).signExtend 64)])
  | .ldd d a m r o => some ([d], a, m, r, o, 8, fun v => [(d, BitVec.ofNat 64 v)])
  | .ldbn d a m r o => some ([d], a, m, r, o, 1, fun v => [(d, BitVec.ofNat 64 v)])
  | .ldhn d a m r o => some ([d], a, m, r, o, 2, fun v => [(d, BitVec.ofNat 64 v)])
  | .ldwn d a m r o => some ([d], a, m, r, o, 4, fun v => [(d, BitVec.ofNat 64 v)])
  | .ldq d a m r o => some ([d ++ 0#1, d ++ 1#1], a, m, r, o, 16,
      fun v => [(d ++ 0#1, BitVec.ofNat 64 v), (d ++ 1#1, BitVec.ofNat 64 (v / 2 ^ 64))])
  | _ => none

/-- What the fields of a store say: data registers, base register, mode, ord, offset, size in bytes, and the number stored (R199,
R203). -/
def storeRule (s : State) : Instr → Option (List Reg × Reg × BitVec 2 × BitVec 2 × BitVec 9 × Nat × Nat)
  | .stb d a m r o => some ([d], a, m, r, o, 1, (s.rd d).toNat)
  | .sth d a m r o => some ([d], a, m, r, o, 2, (s.rd d).toNat)
  | .stw d a m r o => some ([d], a, m, r, o, 4, (s.rd d).toNat)
  | .std d a m r o => some ([d], a, m, r, o, 8, (s.rd d).toNat)
  | .stq d a m r o => some ([d ++ 0#1, d ++ 1#1], a, m, r, o, 16, (s.rd (d ++ 0#1)).toNat + (s.rd (d ++ 1#1)).toNat * 2 ^ 64)
  | _ => none

/-- The effective address of R200. -/
def State.address (s : State) (a : Reg) (off : BitVec 9) (n : Nat) : Word :=
  BitVec.ofInt 64 ((s.rd a).toNat + off.toInt * n)

/-- The mode of an M-format instruction is allowed: .p requires S or M mode (R33). -/
def State.modeOk (s : State) (am : BitVec 2) : Bool := am != 3#2 || s.th.privileged

/-- Conditions under which a thread that is no ordered task reaches n bytes of its own local memory at once: aligned and inside
(R150, R201), below every watermark (R159), with no poison that a load would take (R147), touched by no vector command of the thread
(R246), met by no speculative task (R337) and not stopped by a takeover (R396). -/
def State.ownReady (s : State) (a : Word) (n : Nat) (write : Bool) : Bool :=
  let pa := s.myWindow + a.toNat
  slotOk s.cur && s.myEntry.isNone && a.toNat % n == 0 && decide (a.toNat + n ≤ 0x40000) &&
  !s.unlanded pa n 0 && (write || !s.loadPoisoned pa n) && !(s.myCore.vq.any fun c => c.slot == s.cur) &&
  (s.conflicts .nonSpec (some (coreOf s.cur)) pa n write).isEmpty && !s.stopped pa

/-- The checked forms of a prepare can fetch at an address now, with what the translation leaves in the caches (R309). -/
def State.fetchable (s : State) (va : Nat) (u : State) : Prop :=
  if romFetch s.issuer va = true then u = s else ∃ x, s.locateFor (.slot s.cur true) s.issuer va .fetch = (u, some (.ok x))

/-! Atomics (R300 to R302). -/

/-- What the fields of an atomic say: destination, base register, other sources, ordering and size; and, from the old number in
memory, the number written, if one is written, and the FSTAT flags (R301, R302). -/
def atomicRule (s : State) : Instr → Option (Reg × Reg × List Reg × BitVec 2 × Nat × (Nat → Option Nat × Word))
  | .aadd d a b p _ => some (d, a, [b], p, 8, fun x => (some ((x + (s.rd b).toNat) % 2 ^ 64), 0))
  | .aaddW d a b p _ => some (d, a, [b], p, 4, fun x => (some ((x + (s.rd b).toNat % 2 ^ 32) % 2 ^ 32), 0))
  | .aand d a b p _ => some (d, a, [b], p, 8, fun x => (some (x &&& (s.rd b).toNat), 0))
  | .aandW d a b p _ => some (d, a, [b], p, 4, fun x => (some (x &&& (s.rd b).toNat % 2 ^ 32), 0))
  | .aor d a b p _ => some (d, a, [b], p, 8, fun x => (some (x ||| (s.rd b).toNat), 0))
  | .aorW d a b p _ => some (d, a, [b], p, 4, fun x => (some (x ||| (s.rd b).toNat % 2 ^ 32), 0))
  | .axor d a b p _ => some (d, a, [b], p, 8, fun x => (some (x ^^^ (s.rd b).toNat), 0))
  | .axorW d a b p _ => some (d, a, [b], p, 4, fun x => (some (x ^^^ (s.rd b).toNat % 2 ^ 32), 0))
  | .amin d a b p _ => some (d, a, [b], p, 8, fun x => (some (if (BitVec.ofNat 64 x).toInt ≤ (s.rd b).toInt then x else (s.rd b).toNat), 0))
  | .aminW d a b p _ => some (d, a, [b], p, 4, fun x =>
      (some (if (BitVec.ofNat 32 x).toInt ≤ ((s.rd b).truncate 32 : BitVec 32).toInt then x else (s.rd b).toNat % 2 ^ 32), 0))
  | .amax d a b p _ => some (d, a, [b], p, 8, fun x => (some (if (BitVec.ofNat 64 x).toInt ≤ (s.rd b).toInt then (s.rd b).toNat else x), 0))
  | .amaxW d a b p _ => some (d, a, [b], p, 4, fun x =>
      (some (if (BitVec.ofNat 32 x).toInt ≤ ((s.rd b).truncate 32 : BitVec 32).toInt then (s.rd b).toNat % 2 ^ 32 else x), 0))
  | .aminn d a b p _ => some (d, a, [b], p, 8, fun x => (some (min x (s.rd b).toNat), 0))
  | .aminnW d a b p _ => some (d, a, [b], p, 4, fun x => (some (min x ((s.rd b).toNat % 2 ^ 32)), 0))
  | .amaxn d a b p _ => some (d, a, [b], p, 8, fun x => (some (max x (s.rd b).toNat), 0))
  | .amaxnW d a b p _ => some (d, a, [b], p, 4, fun x => (some (max x ((s.rd b).toNat % 2 ^ 32)), 0))
  | .aswap d a b p _ => some (d, a, [b], p, 8, fun _ => (some (s.rd b).toNat, 0))
  | .aswapW d a b p _ => some (d, a, [b], p, 4, fun _ => (some ((s.rd b).toNat % 2 ^ 32), 0))
  | .acas d a b p _ => some (d, a, [b, d], p, 8, fun x => (if x = (s.rd d).toNat then some (s.rd b).toNat else none, 0))
  | .acasW d a b p _ => some (d, a, [b, d], p, 4, fun x =>
      (if x = (s.rd d).toNat % 2 ^ 32 then some ((s.rd b).toNat % 2 ^ 32) else none, 0))
  | .afadds d a b p _ => some (d, a, [b], p, 4, fun x =>
      let r := arithF f32 s.th.rm s.th.ovs Num.add (f32.read x) (f32.read ((s.rd b).toNat % 2 ^ 32))
      (some r.1, r.2))
  | .afaddd d a b p _ => some (d, a, [b], p, 8, fun x =>
      let r := arithF f64 s.th.rm s.th.ovs Num.add (f64.read x) (f64.read (s.rd b).toNat)
      (some r.1, r.2))
  | _ => none

/-- The leaf through which a thread that is no ordered task reaches n bytes at a virtual address for reading or writing now: held
by a translation cache, permitted, dirty, and of a page of its own core's local memory without poison there (R83 to R97, R147,
R201). -/
def State.localLeaf (s : State) (a : Word) (n : Nat) (e : TlbEntry) : Prop :=
  a.toNat % n = 0 ∧ a.toNat < 2 ^ 56 ∧ s.th.ptbase.getLsbD 0 = true ∧
  s.th.walkFail = [] ∧ s.tlbLookup (coreOf s.cur) .load (wfield s.th.asid 13 0) a.toNat = some e ∧ leafPermits e.leaf s.th.mode .rmw = true ∧
  e.dirty = true ∧ e.migratory = false ∧
  s.poisoned (e.pa a.toNat) n = false ∧ ∃ off : Nat, e.pa a.toNat = s.myWindow + off ∧ s.ownReady (BitVec.ofNat 64 off) n true = true

/-- The leaf through which a thread that is no ordered task reaches n bytes of HBM at a virtual address for reading and writing now: held
by a translation cache, permitted and dirty, its page not migratory; nothing stops, aborts or poisons the access, and no vector command of
the thread is outstanding (R83 to R97, R147, R201, R246, R337, R396). -/
def State.hbmLeaf (s : State) (a : Word) (n : Nat) (e : TlbEntry) : Prop :=
  let pa := e.pa a.toNat
  slotOk s.cur = true ∧ s.myEntry = none ∧ a.toNat % n = 0 ∧ a.toNat < 2 ^ 56 ∧ s.th.ptbase.getLsbD 0 = true ∧ s.th.walkFail = [] ∧
  s.tlbLookup (coreOf s.cur) .load (wfield s.th.asid 13 0) a.toNat = some e ∧ leafPermits e.leaf s.th.mode .rmw = true ∧
  e.dirty = true ∧ e.migratory = false ∧ inHbm pa = true ∧ s.mapped pa = true ∧ s.stopped pa = false ∧ s.poisoned pa n = false ∧
  s.conflicts .nonSpec (some (coreOf s.cur)) pa n false = [] ∧ s.conflicts .nonSpec (some (coreOf s.cur)) pa n true = [] ∧
  (s.myCore.vq.any fun c => c.slot == s.cur) = false

/-- What the fields of a load or store say of its access: source and destination registers, mode, size, kind and effective address (R199 to
R203). -/
def accessRule (s : State) (i : Instr) : Option (List Reg × List Reg × BitVec 2 × Nat × AccessKind × Word) :=
  match loadRule i with
  | some (ds, a, am, _, off, n, _) => some ([a], ds, am, n, .load, s.address a off n)
  | none => (storeRule s i).map fun (ss, a, am, _, off, n, _) => (a :: ss, [], am, n, .store, s.address a off n)

/-- An access of another core's local memory in U or S mode fails the check of PERMR, or for a store of PERMW: the narrowest scope that contains
both cores is wider than SCOPE, the ASID differs where it is checked, or the offset lies below LIMIT (R153, R154). -/
def State.permFails (s : State) (pa : Nat) (store : Bool) : Prop :=
  let r := if store then (s.core (lmCore pa)).permw else (s.core (lmCore pa)).permr
  s.th.mode ≠ 3#2 ∧ lmCore pa ≠ coreOf s.cur ∧
  (wfield r 2 0 < scopeOf (coreOf s.cur) (lmCore pa) ∨ (r.getLsbD 31 = true ∧ wfield r 45 32 ≠ wfield s.th.asid 13 0) ∨
    lmOffset pa < 1024 * wfield r 23 16)

/-! Floating point and rational instructions (R207 to R222). -/

/-- What R210 to R213 give for a binary floating instruction: sources, destination, the result's bits and the FSTAT flags. -/
def floatRule (s : State) : Instr → Option (List Reg × Reg × Nat × Word)
  | .faddd d a b r o => some ([a, b], d, arithF f64 (s.th.rounding r) (o == 1#1) Num.add (s.rdD a) (s.rdD b))
  | .fadds d a b r o => some ([a, b], d, arithF f32 (s.th.rounding r) (o == 1#1) Num.add (s.rdS a) (s.rdS b))
  | .fsubd d a b r o => some ([a, b], d, arithF f64 (s.th.rounding r) (o == 1#1) Num.sub (s.rdD a) (s.rdD b))
  | .fsubs d a b r o => some ([a, b], d, arithF f32 (s.th.rounding r) (o == 1#1) Num.sub (s.rdS a) (s.rdS b))
  | .fmuld d a b r o => some ([a, b], d, arithF f64 (s.th.rounding r) (o == 1#1) Num.mulR (s.rdD a) (s.rdD b))
  | .fmuls d a b r o => some ([a, b], d, arithF f32 (s.th.rounding r) (o == 1#1) Num.mulR (s.rdS a) (s.rdS b))
  | .fdivd d a b r o => some ([a, b], d, divF f64 (s.th.rounding r) (o == 1#1) (s.rdD a) (s.rdD b))
  | .fdivs d a b r o => some ([a, b], d, divF f32 (s.th.rounding r) (o == 1#1) (s.rdS a) (s.rdS b))
  | .fsqrtd d a r o => some ([a], d, finishF f64 (s.th.rounding r) (o == 1#1) (s.rdD a).isNan (s.rdD a).sqrt)
  | .fsqrts d a r o => some ([a], d, finishF f32 (s.th.rounding r) (o == 1#1) (s.rdS a).isNan (s.rdS a).sqrt)
  | .fmad d a b c => some ([a, b, c], d, fmaF f64 s.th.rm s.th.ovs (s.rdD a) (s.rdD b) (s.rdD c))
  | .fmas d a b c => some ([a, b, c], d, fmaF f32 s.th.rm s.th.ovs (s.rdS a) (s.rdS b) (s.rdS c))
  | .fmind d a b => some ([a, b], d, minMaxF f64 false (s.rd a).toNat (s.rd b).toNat, 0)
  | .fmins d a b => some ([a, b], d, minMaxF f32 false ((s.rd a).toNat % 2 ^ 32) ((s.rd b).toNat % 2 ^ 32), 0)
  | .fmaxd d a b => some ([a, b], d, minMaxF f64 true (s.rd a).toNat (s.rd b).toNat, 0)
  | .fmaxs d a b => some ([a, b], d, minMaxF f32 true ((s.rd a).toNat % 2 ^ 32) ((s.rd b).toNat % 2 ^ 32), 0)
  | .fabsd d a => some ([a], d, if (s.rdD a).isNan then f64.nanBits else (s.rd a).toNat % 2 ^ 63, 0)
  | .fabss d a => some ([a], d, if (s.rdS a).isNan then f32.nanBits else (s.rd a).toNat % 2 ^ 31, 0)
  | .fnegd d a => some ([a], d, if (s.rdD a).isNan then f64.nanBits else ((s.rd a) ^^^ 0x8000000000000000#64).toNat, 0)
  | .fnegs d a => some ([a], d, if (s.rdS a).isNan then f32.nanBits else ((s.rd a) ^^^ 0x80000000#64).toNat % 2 ^ 32, 0)
  | .fclassd d a => some ([a], d, classF f64 (s.rd a).toNat, 0)
  | .fclasss d a => some ([a], d, classF f32 ((s.rd a).toNat % 2 ^ 32), 0)
  | .fceqd d a b => some ([a, b], d, ((s.rdD a).eq (s.rdD b)).toNat, 0)
  | .fceqs d a b => some ([a, b], d, ((s.rdS a).eq (s.rdS b)).toNat, 0)
  | .fcltd d a b => some ([a, b], d, ((s.rdD a).lt (s.rdD b)).toNat, 0)
  | .fclts d a b => some ([a, b], d, ((s.rdS a).lt (s.rdS b)).toNat, 0)
  | .fcled d a b => some ([a, b], d, ((s.rdD a).lt (s.rdD b) || (s.rdD a).eq (s.rdD b)).toNat, 0)
  | .fcles d a b => some ([a, b], d, ((s.rdS a).lt (s.rdS b) || (s.rdS a).eq (s.rdS b)).toNat, 0)
  | _ => none

/-- What R218, R221 and R222 give in rational mode: sources, the registers written with their values, and the FSTAT and RSTAT
flags. -/
def rationalRule (s : State) : Instr → Option (List Reg × List (Reg × Word) × Word × Word)
  | .faddd d a b r o => let x := arithQ (s.th.rounding r) (o == 1#1) Num.add (s.rdQ a) (s.rdQ b); some ([a, b], [(d, x.1)], 0, x.2)
  | .fsubd d a b r o => let x := arithQ (s.th.rounding r) (o == 1#1) Num.sub (s.rdQ a) (s.rdQ b); some ([a, b], [(d, x.1)], 0, x.2)
  | .fmuld d a b r o => let x := arithQ (s.th.rounding r) (o == 1#1) Num.mulR (s.rdQ a) (s.rdQ b); some ([a, b], [(d, x.1)], 0, x.2)
  | .fdivd d a b r o => let x := divQ (s.th.rounding r) (o == 1#1) (s.rdQ a) (s.rdQ b); some ([a, b], [(d, x.1)], 0, x.2)
  | .fmad d a b c => let x := fmaQ s.th.rm s.th.ovs (s.rdQ a) (s.rdQ b) (s.rdQ c); some ([a, b, c], [(d, x.1)], 0, x.2)
  | .fmind d a b => some ([a, b], [(d, minMaxQ false (s.rdQ a) (s.rdQ b))], 0, 0)
  | .fmaxd d a b => some ([a, b], [(d, minMaxQ true (s.rdQ a) (s.rdQ b))], 0, 0)
  | .fabsd d a => some ([a], [(d, fsEncode (s.rdQ a).abs)], 0, 0)
  | .fnegd d a => some ([a], [(d, fsEncode (s.rdQ a).negate)], 0, 0)
  | .fclassd d a => some ([a], [(d, BitVec.ofNat 64 (classQ (s.rd a)))], 0, 0)
  | .fceqd d a b => some ([a, b], [(d, if (s.rdQ a).eq (s.rdQ b) then 1 else 0)], 0, 0)
  | .fcltd d a b => some ([a, b], [(d, if (s.rdQ a).lt (s.rdQ b) then 1 else 0)], 0, 0)
  | .fcled d a b => some ([a, b], [(d, if (s.rdQ a).lt (s.rdQ b) || (s.rdQ a).eq (s.rdQ b) then 1 else 0)], 0, 0)
  | .rmake d a b r o =>
      let x := rmakeValue (s.th.rounding r) (o == 1#1) (s.rd a).toInt (s.rd b).toInt; some ([a, b], [(d, x.1)], 0, x.2)
  | .rnumer d a => some ([a], [(d, BitVec.ofInt 64 (numDen (s.rdQ a)).1)], 0, 0)
  | .rdenom d a => some ([a], [(d, BitVec.ofNat 64 (numDen (s.rdQ a)).2)], 0, 0)
  | .rmed d a b r o =>
      let x := rmedValue (s.th.rounding r) (o == 1#1) (s.rdQ a) (s.rdQ b); some ([a, b], [(d, x.1)], 0, x.2)
  | .rcf d a => let x := rcfValue (s.rdQ a); some ([a], [(d ++ 0#1, x.1), (d ++ 1#1, x.2.1)], 0, x.2.2)
  | .rfromd d a r o => let x := roundQ (s.th.rounding r) (o == 1#1) (s.rdD a); some ([a], [(d, x.1)], 0, x.2)
  | .rtod d a r o =>
      let x := roundF f64 (s.th.rounding r) (o == 1#1) (s.rdQ a); some ([a], [(d, BitVec.ofNat 64 x.1)], x.2, 0)
  | _ => none

/-- What R214 to R216 give for a conversion whose format codes its row lists: sources, destination, result, and the FSTAT and RSTAT
flags. -/
def convertRule (s : State) : Instr → Option (List Reg × Reg × Word × Word × Word)
  | .fcvt d a b c =>
      if isFloatCode b.toNat && isFloatCode c.toNat then
        let x := fcvtValue b.toNat c.toNat s.th.rm s.th.ovs (s.rd a).toNat; some ([a], d, BitVec.ofNat 64 x.1, x.2)
      else none
  | .icvtf d a b c =>
      if isFloatCode b.toNat && isIntCode c.toNat then
        let x := toFloat b.toNat s.th.rm s.th.ovs (elemValue c.toNat (s.rd a).toNat); some ([a], d, BitVec.ofNat 64 x.1, x.2)
      else none
  | .fcvti d a b c =>
      if isIntCode b.toNat && isFloatCode c.toNat then
        let x := fcvtiValue b.toNat c.toNat s.th.rm (s.rd a).toNat; some ([a], d, BitVec.ofInt 64 x.1, x.2)
      else none
  | _ => none

/-- Whether an exact value is finite. -/
def Num.finite : Num → Bool
  | .fin _ _ _ => true
  | _ => false

/-- A finite exact value as a rational number; 0 for any other. -/
def Num.toRat : Num → Rat
  | .fin s n d => (signed s n : Rat) / (d : Rat)
  | _ => 0

/-- A reduced fraction that FS64 represents (R49). -/
def fsMember (n d : Nat) : Prop := Nat.gcd n d = 1 ∧ inS n d = true

/-! Units: tensors, commands and their acceptance (R73, R107, R162, R233, R259). -/

/-- A tensor identifier that resolves now to an entry: TTBASE.EN is 1, and the tile's cache holds an entry with V = 1 that passes its
checks (R73). -/
def State.resolved (s : State) (tid : Nat) (e : BitVec 512) : Prop :=
  s.th.ttbase.getLsbD 0 = true ∧
  ((s.myTile.tcache.find? fun x => x.1 == wfield s.th.asid 13 0 && x.2.1 == tid).map (·.2.2)) = some e ∧
  e.getLsbD 319 = true ∧ tensorCheck e = none

/-- No transfer is open, nothing is poisoned, no ordered task runs and no takeover is under way: conditions under which every address of
a core's own local memory is free to be read and written. -/
def State.still (s : State) : Prop :=
  s.transfers = [] ∧ s.poison = [] ∧ s.entries = [] ∧ ∀ d, (s.die d).takeover = []

/-! Vector commands (R231, R233, R238 to R250). -/

/-- Length in bytes, general registers read, and vector registers read and written, of an instruction that the lane pool takes as a
command. -/
def vectorForm : Instr → Option (Nat × List Reg × List Reg × List Reg)
  | .vmov d b _ | .vfneg d b _ | .vabs d b _ => some (2, [], [b], [d])
  | .vaddShort d b _ | .vsubShort d b _ | .vmulShort d b _ | .vandShort d b _ | .vorShort d b _ | .vxorShort d b _ | .vminShort d b _
  | .vmaxShort d b _ | .vfaddShort d b _ | .vfsubShort d b _ | .vfmulShort d b _ | .vfminShort d b _ | .vfmaxShort d b _ =>
      some (2, [], [d, b], [d])
  | .vadd d a b _ _ | .vsub d a b _ _ | .vmul d a b _ _ | .vmin d a b _ _ | .vmax d a b _ _ | .vand d a b _ _ | .vor d a b _ _
  | .vxor d a b _ _ | .vsll d a b _ _ | .vsrl d a b _ _ | .vsra d a b _ _ | .vaddsat d a b _ _ | .vfadd d a b _ _ | .vfsub d a b _ _
  | .vfmul d a b _ _ | .vfmin d a b _ _ | .vfmax d a b _ _ | .vrcps d a b _ _ | .vrsqs d a b _ _ | .vsel d a b _ _ | .vperm d a b _ _ =>
      some (4, [], [a, b], [d])
  | .vdot4 d a b _ | .vfma d a b _ _ => some (4, [], [d, a, b], [d])
  | .vrcp d a _ _ | .vrsq d a _ _ | .vcvt d a _ _ | .vlut d a _ _ | .vrsum d a _ _ | .vrmin d a _ _ | .vrmax d a _ _ | .vfrsum d a _ _
  | .vscan d a _ _ | .vcompress d a _ _ | .vexpand d a _ _ => some (4, [], [a], [d])
  | .vcmpeq _ a b _ _ | .vcmplt _ a b _ _ | .vcmpltn _ a b _ _ | .vfcmpeq _ a b _ _ | .vfcmplt _ a b _ _ => some (4, [], [a, b], [])
  | .vbcast d a _ _ => some (4, [a], [], [d])
  | .vrotl d a b _ _ | .vselk d a b _ _ => some (4, [b], [a], [d])
  | .vtrans d _ => some (4, [], transRows d, transRows d)
  | .viota d _ _ | .vpopk d _ _ => some (4, [], [], [d])
  | .vld d a _ _ => some (4, [a], [], [d])
  | .vst d a _ _ => some (4, [a], [d], [])
  | .vlds d a b _ _ => some (4, [a, b], [], [d])
  | .vsts d a b _ _ => some (4, [a, b], [d], [])
  | .vldx d a b _ _ => some (4, [a], [b], [d])
  | .vstx d a b _ _ | .vstxa d a b _ _ => some (4, [a], [d, b], [])
  | .ksend d a b _ => some (4, [d], [a, b], [])
  | .vmvv d a b _ => some (4, [a, b], [], [d])
  | .kset _ a => some (4, [a], [], [])
  | _ => none

/-- The conditions of steps 4 and 6 of R233 on the operands of such an instruction. -/
def State.vectorOk (s : State) : Instr → Bool
  | .vfaddShort .. | .vfsubShort .. | .vfmulShort .. | .vfminShort .. | .vfmaxShort .. | .vfneg .. => wfield s.th.vstat 49 48 != 0
  | .vcvt _ _ b c => !reservedFormat b.toNat && !reservedFormat c.toNat && vcvtCode b.toNat && vcvtCode c.toNat
  | .vselk _ _ b _ w => wfield (s.rd b) 63 8 == 0 && decide (1 ≤ wfield (s.rd b) 6 0) &&
      decide (wfield (s.rd b) 6 0 ≤ 32 * s.th.grant / (8 * 2 ^ w.toNat))
  | .vld _ a _ _ | .vst _ a _ _ | .vldx _ a _ _ _ | .vstx _ a _ _ _ | .vstxa _ a _ _ _ =>
      (wfield (s.rd a) 63 62 != 3 || s.th.privileged) && wfield (s.rd a) 61 56 == 0
  | .vlds _ a b _ _ | .vsts _ a b _ _ =>
      (wfield (s.rd a) 63 62 != 3 || s.th.privileged) && wfield (s.rd a) 61 56 == 0 && wfield (s.rd b) 63 32 == 0
  | .ksend .. => !s.speculative
  | _ => true

/-- The lane pool takes a command of the thread now: no held fault, a grant, room, and no stream among the registers (R233). -/
def State.poolReady (s : State) (vs : List Reg) : Bool :=
  !s.th.flt 2#2 && decide (0 < s.th.grant) && decide (s.myCore.vq.length < 16) && vs.all fun r => (s.th.vStream r).isNone

/-- The state once the lane pool has taken a command with these captured values (R231). -/
def State.pooled (s : State) (i : Instr) (ga gb : Word) (es : List (BitVec 512)) : State :=
  let core := { s.myCore with vq := s.myCore.vq ++ [s.command i s.fresh ga gb es] }
  { s.setCore (coreOf s.cur) core with fresh := s.fresh + 1, th := s.th.pendUp 2#2 }

/-- An element of e bits read as two's complement. -/
def signedElem (e v : Nat) : Int := if v < 2 ^ (e - 1) then (v : Int) else (v : Int) - 2 ^ e
/-- A number modulo 2^e. -/
def wrapElem (e : Nat) (v : Int) : Nat := (v % 2 ^ e).toNat
/-- A number clamped to the signed range of e bits. -/
def clampElem (e : Nat) (v : Int) : Nat := wrapElem e (max (-(2 ^ (e - 1))) (min v (2 ^ (e - 1) - 1)))

/-- Destination, mask, bits of an element, and value and flags of each element, of a command that R25 and R237 to R247 give element by
element. -/
def laneRule (c : Command) (t : Thread) : Option (Reg × BitVec 3 × Nat × (Nat → Nat × Word)) :=
  let int (d a b : Reg) (k : BitVec 3) (w : Nat) (f : Nat → Nat → Nat → Nat) : Option (Reg × BitVec 3 × Nat × (Nat → Nat × Word)) :=
    some (d, k, 8 * 2 ^ w, fun j => (f (8 * 2 ^ w) (t.elem a (8 * 2 ^ w) j) (t.elem b (8 * 2 ^ w) j), 0))
  let flt (d a b : Reg) (k : BitVec 3) (w : Nat) (op : Bool → Num → Num → Option Num) : Option (Reg × BitVec 3 × Nat × (Nat → Nat × Word)) :=
    some (d, k, 8 * 2 ^ w, fun j => arithF (floatOf w) (wfield c.frm 2 0) (c.frm.getLsbD 3) op
      ((floatOf w).read (t.elem a (8 * 2 ^ w) j)) ((floatOf w).read (t.elem b (8 * 2 ^ w) j)))
  let m1 (m : BitVec 1) : BitVec 3 := if m = 1#1 then 1#3 else 0#3
  let rm := wfield c.frm 2 0
  let ovs := c.frm.getLsbD 3
  let bits (d a b : Reg) (k : BitVec 3) (w : Nat) (f : FFmt → Nat → Nat → Nat × Word) : Option (Reg × BitVec 3 × Nat × (Nat → Nat × Word)) :=
    some (d, k, 8 * 2 ^ w, fun j => f (floatOf w) (t.elem a (8 * 2 ^ w) j) (t.elem b (8 * 2 ^ w) j))
  match c.instr with
  | .vadd d a b k w => int d a b k w.toNat fun e x y => (x + y) % 2 ^ e
  | .vaddShort d b m => int d d b (m1 m) c.width fun e x y => (x + y) % 2 ^ e
  | .vsub d a b k w => int d a b k w.toNat fun e x y => wrapElem e (x - y)
  | .vsubShort d b m => int d d b (m1 m) c.width fun e x y => wrapElem e (x - y)
  | .vmul d a b k w => int d a b k w.toNat fun e x y => x * y % 2 ^ e
  | .vmulShort d b m => int d d b (m1 m) c.width fun e x y => x * y % 2 ^ e
  | .vmin d a b k w => int d a b k w.toNat fun e x y => wrapElem e (min (signedElem e x) (signedElem e y))
  | .vminShort d b m => int d d b (m1 m) c.width fun e x y => wrapElem e (min (signedElem e x) (signedElem e y))
  | .vmax d a b k w => int d a b k w.toNat fun e x y => wrapElem e (max (signedElem e x) (signedElem e y))
  | .vmaxShort d b m => int d d b (m1 m) c.width fun e x y => wrapElem e (max (signedElem e x) (signedElem e y))
  | .vand d a b k w => int d a b k w.toNat fun _ x y => x &&& y
  | .vandShort d b m => int d d b (m1 m) c.width fun _ x y => x &&& y
  | .vor d a b k w => int d a b k w.toNat fun _ x y => x ||| y
  | .vorShort d b m => int d d b (m1 m) c.width fun _ x y => x ||| y
  | .vxor d a b k w => int d a b k w.toNat fun _ x y => x ^^^ y
  | .vxorShort d b m => int d d b (m1 m) c.width fun _ x y => x ^^^ y
  | .vsll d a b k w => int d a b k w.toNat fun e x y => x * 2 ^ (y % e) % 2 ^ e
  | .vsrl d a b k w => int d a b k w.toNat fun e x y => x / 2 ^ (y % e)
  | .vsra d a b k w => int d a b k w.toNat fun e x y => wrapElem e (signedElem e x / 2 ^ (y % e))
  | .vaddsat d a b k w => int d a b k w.toNat fun e x y => clampElem e (signedElem e x + signedElem e y)
  | .vdot4 d a b k => some (d, k, 32, fun j =>
      let dot (i : Nat) : Int := signedElem 8 (t.elem a 8 (4 * j + i)) * signedElem 8 (t.elem b 8 (4 * j + i))
      (clampElem 32 (signedElem 32 (t.elem d 32 j) + dot 0 + dot 1 + dot 2 + dot 3), 0))
  | .vabs d b m => int d b b (m1 m) c.width fun e x _ => wrapElem e (signedElem e x).natAbs
  | .vfneg d b m => bits d b b (m1 m) c.width fun f x _ =>
      (if (f.read x).isNan then f.nanBits else x ^^^ 2 ^ (8 * 2 ^ c.width - 1), 0)
  | .vfadd d a b k w => flt d a b k w.toNat Num.add
  | .vfaddShort d b m => flt d d b (m1 m) c.width Num.add
  | .vfsub d a b k w => flt d a b k w.toNat Num.sub
  | .vfsubShort d b m => flt d d b (m1 m) c.width Num.sub
  | .vfmul d a b k w => flt d a b k w.toNat Num.mulR
  | .vfmulShort d b m => flt d d b (m1 m) c.width Num.mulR
  | .vfmin d a b k w => bits d a b k w.toNat fun f x y => (minMaxF f false x y, 0)
  | .vfminShort d b m => bits d d b (m1 m) c.width fun f x y => (minMaxF f false x y, 0)
  | .vfmax d a b k w => bits d a b k w.toNat fun f x y => (minMaxF f true x y, 0)
  | .vfmaxShort d b m => bits d d b (m1 m) c.width fun f x y => (minMaxF f true x y, 0)
  | .vfma d a b k w => some (d, k, 8 * 2 ^ w.toNat, fun j =>
      let x (r : Reg) : Num := (floatOf w.toNat).read (t.elem r (8 * 2 ^ w.toNat) j)
      fmaF (floatOf w.toNat) rm ovs (x a) (x b) (x d))
  | .vrcp d a k w => bits d a a k w.toNat fun f x _ => rcpElem f rm ovs x
  | .vrsq d a k w => bits d a a k w.toNat fun f x _ => rsqElem f rm ovs x
  | .vrcps d a b k w => bits d a b k w.toNat fun f x y => refineElem false f rm ovs x y
  | .vrsqs d a b k w => bits d a b k w.toNat fun f x y => refineElem true f rm ovs x y
  | .vsel d a b k w => some (d, 0#3, 8 * 2 ^ w.toNat, fun j => (t.elem (if t.admits k (8 * 2 ^ w.toNat) j then a else b) (8 * 2 ^ w.toNat) j, 0))
  | .vlut d a h k => some (d, k, 8, fun j => (c.codes.toNat / 2 ^ (8 * t.elem a 4 (4 * t.grant * h.toNat + j)) % 256, 0))
  | .vrotl d a _ k w =>
      let n := t.count (8 * 2 ^ w.toNat)
      some (d, k, 8 * 2 ^ w.toNat, fun j => (t.elem a (8 * 2 ^ w.toNat) ((j + (n - c.ga.toNat % n)) % n), 0))
  | .vexpand d a k w =>
      some (d, k, 8 * 2 ^ w.toNat, fun j => (t.elem a (8 * 2 ^ w.toNat) ((List.range j).countP fun i => t.admits k (8 * 2 ^ w.toNat) i), 0))
  | .vmvv d _ _ w => some (d, 0#3, 8 * 2 ^ w.toNat, fun j =>
      (if j = c.gb.toNat then c.ga.toNat % 2 ^ (8 * 2 ^ w.toNat) else t.elem d (8 * 2 ^ w.toNat) j, 0))
  | .vmov d b m => some (d, m1 m, 8 * 2 ^ c.width, fun j => (t.elem b (8 * 2 ^ c.width) j, 0))
  | .vbcast d _ k w => some (d, k, 8 * 2 ^ w.toNat, fun _ => (c.ga.toNat % 2 ^ (8 * 2 ^ w.toNat), 0))
  | .viota d k w => some (d, k, 8 * 2 ^ w.toNat, fun j => (j, 0))
  | .vperm d a b k w =>
      some (d, k, 8 * 2 ^ w.toNat, fun j => (t.elem a (8 * 2 ^ w.toNat) (t.elem b (8 * 2 ^ w.toNat) j % t.count (8 * 2 ^ w.toNat)), 0))
  | .vscan d a k w =>
      let e := 8 * 2 ^ w.toNat
      some (d, k, e, fun j => (((List.range (j + 1)).map fun i => if t.admits k e i then t.elem a e i else 0).sum % 2 ^ e, 0))
  | _ => none

/-- Destination, mask, sources and relation of a compare into a mask, and the bits of its elements (R243). -/
def maskRule (c : Command) : Option (BitVec 3 × BitVec 3 × Reg × Reg × Nat × (Nat → Nat → Prop)) :=
  let f (w : BitVec 1) (x : Nat) : Num := (floatOf (2 + w.toNat)).read x
  match c.instr with
  | .vcmpeq d a b k w => some (d, k, a, b, 32 * 2 ^ w.toNat, fun x y => x = y)
  | .vcmplt d a b k w => some (d, k, a, b, 32 * 2 ^ w.toNat, fun x y => signedElem (32 * 2 ^ w.toNat) x < signedElem (32 * 2 ^ w.toNat) y)
  | .vcmpltn d a b k w => some (d, k, a, b, 32 * 2 ^ w.toNat, fun x y => x < y)
  | .vfcmpeq d a b k w => some (d, k, a, b, 32 * 2 ^ w.toNat, fun x y => (f w x).eq (f w y) = true)
  | .vfcmplt d a b k w => some (d, k, a, b, 32 * 2 ^ w.toNat, fun x y => (f w x).lt (f w y) = true)
  | _ => none

/-- Destination, bits of an element, the elements in order, zeros following, and the flags, of a command whose result is not merged
(R244, R247, R249). -/
def fillRule (c : Command) (t : Thread) : Option (Reg × Nat × List Nat × Word) :=
  let chosen (a : Reg) (k : BitVec 3) (e : Nat) : List Nat :=
    ((List.range (t.count e)).filter fun j => t.admits k e j).map fun j => t.elem a e j
  match c.instr with
  | .vrsum d a k w => some (d, 8 * 2 ^ w.toNat, [(chosen a k (8 * 2 ^ w.toNat)).sum % 2 ^ (8 * 2 ^ w.toNat)], 0)
  | .vrmin d a k w =>
      let e := 8 * 2 ^ w.toNat
      some (d, e, [wrapElem e (((chosen a k e).map (signedElem e)).foldl min (2 ^ (e - 1) - 1))], 0)
  | .vrmax d a k w =>
      let e := 8 * 2 ^ w.toNat
      some (d, e, [wrapElem e (((chosen a k e).map (signedElem e)).foldl max (-(2 ^ (e - 1))))], 0)
  | .vfrsum d a k w =>
      let e := 8 * 2 ^ w.toNat
      let one : Num := .fin false 1 1
      let r := if w = 1#2 then narrowAccumulate 0 ((List.range (t.count e)).map fun j =>
          (if t.admits k e j then f16.read (t.elem a e j) else .fin false 0 1, one)) (c.frm.getLsbD 3)
        else sumFloat (floatOf w.toNat) (wfield c.frm 2 0) (c.frm.getLsbD 3) ((chosen a k e).map (floatOf w.toNat).read)
      some (d, if w = 1#2 then 32 else e, [r.1], r.2)
  | .vcvt d a b x =>
      let rs := (List.range (t.count (max (fmtWidth x.toNat) (fmtWidth b.toNat)))).map fun j =>
        cvtElem b.toNat x.toNat (wfield c.frm 2 0) (c.frm.getLsbD 3) (t.elem a (fmtWidth x.toNat) j)
      some (d, fmtWidth b.toNat, rs.map (·.1), rs.foldl (fun f r => f ||| r.2) 0)
  | .vcompress d a k w => some (d, 8 * 2 ^ w.toNat, chosen a k (8 * 2 ^ w.toNat), 0)
  | .vpopk d k w => some (d, 8 * 2 ^ w.toNat, [((List.range t.grant).countP fun i => t.laneSet k i) % 2 ^ (8 * 2 ^ w.toNat)], 0)
  | _ => none

/-- A row of VSELK, with its score, ranks above another: NaN ranks below every number, and equal scores rank by the smaller index
(R250). -/
def ranksAbove (smallest : Bool) (x y : Nat × Num) : Prop :=
  (x.2.isNan = false ∧ y.2.isNan = true) ∨
  (x.2.isNan = false ∧ y.2.isNan = false ∧ (if smallest then x.2.lt y.2 else y.2.lt x.2) = true) ∨
  (x.1 < y.1 ∧ ((x.2.isNan = true ∧ y.2.isNan = true) ∨ (x.2.isNan = false ∧ y.2.isNan = false ∧ x.2.eq y.2 = true)))

/-- A value is the one nearest the square root of a positive number with at most 12 significant bits, with ties to an even last bit:
Near12 of R241, for a value given by its square. -/
def nearest12 (square y : Rat) : Prop :=
  ∃ (m : Nat) (e : Int), 2048 ≤ m ∧ m ≤ 4096 ∧ y = (m : Rat) * 2 ^ e ∧
    ((2048 : Rat) * 2 ^ e) ^ 2 ≤ square ∧ square < ((4096 : Rat) * 2 ^ e) ^ 2 ∧
    (((m : Rat) - 1 / 2) * 2 ^ e) ^ 2 ≤ square ∧ square ≤ (((m : Rat) + 1 / 2) * 2 ^ e) ^ 2 ∧
    ((((m : Rat) - 1 / 2) * 2 ^ e) ^ 2 = square ∨ square = (((m : Rat) + 1 / 2) * 2 ^ e) ^ 2 → m % 2 = 0)

/-- The oldest vector command of a slot, which nothing holds back and no stream serves (R232). -/
def State.poolHead (s : State) (slot : Nat) (c : Command) : Prop :=
  ((s.core (coreOf slot)).vq.find? fun y => y.slot == slot) = some c ∧ c.slot = slot ∧ c.frozen = none ∧ c.extra = [] ∧
  s.joinHeld slot c.seq 0 = false ∧ (s.tile (coreOf slot / 8)).delayed = false ∧ (s.thread slot).grant ≤ 64

/-- Kind of access, mode, data register, mask, bits of an element, and the address of element j, none where its tensor has no such element, of
a VMEM command (R245). -/
def memRule (c : Command) (t : Thread) : Option (AccessKind × Nat × Reg × BitVec 3 × Nat × (Nat → Option Nat)) :=
  let base (off : Int) : Option Nat := some (((wfield c.ga 55 0 : Int) + off) % 2 ^ 56).toNat
  let stride : Int := (c.gb.truncate 32 : BitVec 32).toInt
  let am := wfield c.ga 63 62
  let x := Tensor.ofEntry (c.tensors.headD 0)
  let cell (j : Nat) : Option Nat :=
    if x.has (wfield c.ga 31 12) (wfield c.ga 51 32 + j) then some (x.elemBit (wfield c.ga 31 12) (wfield c.ga 51 32 + j) / 8) else none
  match c.instr with
  | .vld d _ k w => some (.load, am, d, k, 8 * 2 ^ w.toNat, fun j => base (j * 2 ^ w.toNat))
  | .vst d _ k w => some (.store, am, d, k, 8 * 2 ^ w.toNat, fun j => base (j * 2 ^ w.toNat))
  | .vlds d _ _ k w => some (.load, am, d, k, 8 * 2 ^ w.toNat, fun j => base (j * stride))
  | .vsts d _ _ k w => some (.store, am, d, k, 8 * 2 ^ w.toNat, fun j => base (j * stride))
  | .vldx d _ b k w => some (.load, am, d, k, 32 * 2 ^ w.toNat, fun j => base (t.elem b (32 * 2 ^ w.toNat) j))
  | .vstx d _ b k w => some (.store, am, d, k, 32 * 2 ^ w.toNat, fun j => base (t.elem b (32 * 2 ^ w.toNat) j))
  | .vstxa d _ b k w => some (.rmw, am, d, k, 32 * 2 ^ w.toNat, fun j => base (t.elem b (32 * 2 ^ w.toNat) j))
  | .vldt d _ k w => some (.load, 0, d, k, 8 * 2 ^ w.toNat, cell)
  | .vstt d _ k w => some (.store, 0, d, k, 8 * 2 ^ w.toNat, cell)
  | _ => none

/-- The physical address of an element at an address of a mode, for .g through a leaf (R90, R150 to R152). -/
def elemPa (core am : Nat) (leaf : Option TlbEntry) (a : Nat) : Nat :=
  match am, leaf with
  | 0, some e => e.pa a
  | 1, _ => window (globalCore core) + a
  | 2, _ => clusterPa core a
  | _, _ => a

/-- An element of n bytes at an address of a mode is aligned and in local memory, and its command may access it; a .g address has its leaf in
a TLB of the core (R82 to R91, R154, R201, R245). -/
def State.elemOk (s : State) (c : Command) (core am : Nat) (leaf : Option TlbEntry) (n : Nat) (k : AccessKind) (a : Nat) : Prop :=
  let pa := elemPa core am leaf a
  a % n = 0 ∧ pa % n = 0 ∧ inLm pa = true ∧ inLm (pa + n - 1) = true ∧ s.mapCheck pa c.mode k (BitVec.ofNat 64 a) = none ∧
  s.lmPermits (c.issuer core) pa k = true ∧
  (match am with
    | 0 => a < 2 ^ 56 ∧ c.ptbase.getLsbD 0 = true ∧ ∃ e, leaf = some e ∧ s.tlbLookup core .load c.asid a = some e ∧
        leafPermits e.leaf c.mode k = true ∧ (k = .load ∨ e.dirty = true)
    | 1 => a + n ≤ 0x40000
    | 2 => a + n ≤ 0x800000
    | _ => a < 2 ^ 52)

/-! Lane grants (R223, R224). -/

/-- The lanes that the claims of a tile hold. -/
def State.granted (s : State) (tile : Nat) : Nat := ((s.claimants tile).map fun x => x.2.grant).sum

/-- The grant that Renegotiate gives the thread in focus for a request: the largest size that neither its request, nor the fair share where the
tile is under pressure for it, nor the lanes that the other claimants leave exceeds; 0 where none is (R224). -/
def State.grantRule (s : State) (q g : Nat) : Prop :=
  let others := s.threads.filter fun x => tileOf x.1 == tileOf s.cur && x.2.laneReq != 0
  let c := others.length + 1
  let share := if c ≤ 32 then 64 else if c ≤ 64 then 32 else if c ≤ 128 then 16 else 8
  let fits (x : Nat) : Prop :=
    x ≤ q ∧ ((∃ o ∈ others, o.2.grant < min o.2.laneReq share) → x ≤ share) ∧ x + (others.map fun o => o.2.grant).sum ≤ 2048
  (g = 0 ∨ (g ∈ [8, 16, 32, 64] ∧ fits g)) ∧ ∀ x ∈ [8, 16, 32, 64], fits x → x ≤ g

/-! Matrix commands (R259 to R269, R273). -/

/-- The state once the matrix queue has taken a command with these captured values (R260). -/
def State.queued (s : State) (i : Instr) (ga gb : Word) (es : List (BitVec 512)) : State :=
  let core := { s.myCore with mq := s.myCore.mq ++ [s.command i s.fresh ga gb es] }
  { s.setCore (coreOf s.cur) core with fresh := s.fresh + 1, th := s.th.pendUp 3#2 }

/-- The matrix unit takes a command of the thread now: it is no speculative task, no fault is held, and the queue has room (R259, R261). -/
def State.matrixFree (s : State) : Bool := !s.speculative && !s.th.flt 3#2 && decide (s.myCore.mq.length < 16)

/-- Every existing element of a window of a tensor ends inside a core's local memory. -/
def Tensor.windowFits (t : Tensor) (row0 col0 nr nc : Nat) : Bool :=
  (List.range nr).all fun i => (List.range nc).all fun j =>
    !t.has (row0 + i) (col0 + j) || decide ((t.elemBit (row0 + i) (col0 + j) + t.w + 7) / 8 ≤ 0x40000)

/-- The limits of MMA and MMAS of modes .g and .l on tensors that are not in block form (R267 to R269). -/
def mmaFits (sparse : Bool) (x : BitVec 3) (ga gb : Word) (a b : Tensor) : Bool :=
  let rows := if wfield ga 56 52 = 0 then 32 else wfield ga 56 52
  let k := 32 * 2 ^ wfield ga 58 57
  (if sparse then mmasPair a.format b.format else mmaPair a.format b.format) &&
  (sxbOf a.format).isNone && (sxbOf b.format).isNone && wfield ga 58 57 != 3 && wfield ga 63 59 == 0 && wfield gb 63 40 == 0 &&
  (a.format != 11 || !x.getLsbD 0) && a.skind == 0 && (b.skind == 0 || (!floatFmt b.format && b.skind == 2)) &&
  a.windowFits (wfield ga 31 12) (wfield ga 51 32) rows k && decide (2048 * wfield gb 7 0 + imageSize b.format k sparse ≤ 0x80000)

/-- The limits of MLDACC and MSTACC of modes .g and .l (R273). -/
def windowOk (x : BitVec 3) (m : BitVec 2) (ga gb : Word) (t : Tensor) : Bool :=
  let rows := if wfield ga 56 52 = 0 then 32 else wfield ga 56 52
  floatFmt t.format && t.skind == 0 && wfield ga 63 57 == 0 && wfield gb 63 1 == 0 && !(gb.getLsbD 0 && x.getLsbD 0) &&
  (m == 0#2 || t.windowFits (wfield ga 31 12) (wfield ga 51 32) rows 32)

/-- A command at the head of its core's matrix queue that nothing holds back (R262, R280, R295, R304). -/
def State.matrixHead (s : State) (core : Nat) (c : Command) : Prop :=
  (∃ l, (s.core core).mq = c :: l) ∧ c.frozen = none ∧ c.started = false ∧ s.joinHeld c.slot c.seq 1 = false ∧
  s.storesBefore c.slot c.seq = true

/-- The n bits from bit b of a core's own local memory. -/
def State.localBits (s : State) (core b n : Nat) : Nat :=
  leNat (s.bytes (window (globalCore core) + b / 8) ((b % 8 + n + 7) / 8)) / 2 ^ (b % 8) % 2 ^ n

/-- The n bytes from an offset of a tile's weight buffer, as a number. -/
def State.weightsAt (s : State) (tile off n : Nat) : Nat := leNat ((List.range n).map fun i => cellGet (off + i) (s.tile tile).weights)

/-- The n bits from bit p of a number. -/
def cut (x p n : Nat) : Nat := x / 2 ^ p % 2 ^ n

/-- A matrix command of a core's own slot finds its local memory and its tile's weight buffer free to be read and written. -/
def State.unitCalm (s : State) (core : Nat) (c : Command) : Prop :=
  s.still ∧ slotOk c.slot = true ∧ coreOf c.slot = core ∧ (s.tile (core / 8)).weightPoison = []

/-- The value of element (k, j) of a B image of kk rows that is not in block form: raw or coded, or expanded from the sparse 2:4 form
(R265). -/
def imageRule (fmt kk : Nat) (sparse : Bool) (table : BitVec 128) (img k j : Nat) : Num :=
  let w := fmtWidth fmt
  if sparse then
    let places := cut img (16 * w * kk + 4 * (32 * (k / 4) + j)) 4
    if k % 4 = places % 4 then elemValue fmt (cut img (32 * w * (2 * (k / 4)) + w * j) w)
    else if k % 4 = places / 4 then elemValue fmt (cut img (32 * w * (2 * (k / 4) + 1) + w * j) w)
    else .fin false 0 1
  else
    let v := cut img (32 * w * k + w * j) w
    if floatFmt fmt then elemValue fmt v
    else product (if fmt = 14 then k4Value table v else elemValue fmt v) (f32.read (cut img (32 * w * kk + 32 * j) 32))

/-- The coordinates and values of a fibre whose descriptor stands at an offset, in a space given by how it is read (R271). -/
def fibreAt (read : Nat → Nat → Nat) (fmt off : Nat) : List (Nat × Num) :=
  let d := read off 16
  (List.range (cut d 64 13)).map fun u =>
    (read (cut d 0 32 + 2 * u) 2, elemValue fmt (read (cut d 32 32 + fmtWidth fmt / 8 * u) (fmtWidth fmt / 8)))

/-- The conditions of R271 on a fibre: its descriptor's fields, its lists inside a space of a size, and ascending coordinates. -/
def fibreFits (read : Nat → Nat → Nat) (size fmt off : Nat) : Prop :=
  let d := read off 16
  let w := fmtWidth fmt / 8
  d / 2 ^ 77 = 0 ∧ cut d 64 13 ≤ 4096 ∧ cut d 0 32 % 2 = 0 ∧ cut d 32 32 % w = 0 ∧ cut d 0 32 + 2 * cut d 64 13 ≤ size ∧
  cut d 32 32 + w * cut d 64 13 ≤ size ∧ ((fibreAt read fmt off).map (·.1)).Pairwise (· < ·)

/-! Stack commands and copies (R105 to R109, R157 to R164). -/

/-- The limits of SGATH, SSCAT and SRED on their lists (R108). -/
def listsFit (t : Tensor) (ga gb : Word) : Bool :=
  let n := wfield gb 63 32
  decide (8 ≤ t.w) && decide (n ≤ 4096) && wfield ga 63 12 % 4 == 0 && decide (wfield ga 63 12 + 4 * n ≤ 0x40000) &&
  wfield gb 31 0 % (t.w / 8) == 0 && decide (wfield gb 31 0 + n * (t.w / 8) ≤ 0x40000)

/-- The serving die of a command, plus one, is known now: the home of the frame of element 0, which a TLB of the core holds; 0 where that is not
in HBM or BASE is no address that translates (R102). -/
def State.servedBy (s : State) (e : BitVec 512) (die : Nat) : Prop :=
  let va := (Tensor.ofEntry e).base
  (vaCheck s.issuer va).isSome = true ∧ die = 0 ∨
  (vaCheck s.issuer va).isSome = false ∧ s.th.walkFail = [] ∧
    ∃ x, s.tlbLookup (coreOf s.cur) .load (wfield s.th.asid 13 0) va = some x ∧ die = if inHbm (x.pa va) then hbmDie (x.pa va) + 1 else 0

/-- The state once the stack queue has taken a command with its serving die: q[x] set, PEND raised, and for an SGATH its transfer opened
(R102, R107, R109, R115). -/
def State.stacked (s : State) (i : Instr) (x : BitVec 3) (ch : Option Nat) (ga gb : Word) (es : List (BitVec 512)) (die : Nat) : State :=
  let p : State := { s.setQ x true with fresh := s.fresh + 1 }
  let c := { p.command i s.fresh ga gb es with extra := [BitVec.ofNat 2048 die, 0, 0, 0] }
  let p := ({ p with th := p.th.pendUp 0#2 } : State).modCore fun k => { k with sq := k.sq ++ [c] }
  match ch with
  | some q => p.openTransfer q (p.gatherTransfer s.fresh (wfield gb 31 0) (wfield gb 63 32 * ((Tensor.ofEntry (es.headD 0)).w / 8)))
  | none => p

/-- The stack queue, and the channel of an SGATH, have room (R109). -/
def State.stackRoom (s : State) (ch : Option Nat) : Bool :=
  decide (s.myCore.sq.length < 32) && (match ch with
    | some c => (s.myTile.chan c).room
    | none => true)

/-- An access of n bytes of one line of HBM at a virtual address finds its leaf among the walk unit's answers to its command, and neither a
copy, an access of the line, a speculative task nor a takeover in its way (R93, R103, R114). -/
def State.stackFree (s : State) (c : Command) (va n : Nat) (k : AccessKind) (pa : Nat) : Prop :=
  va < 2 ^ 56 ∧ c.ptbase.getLsbD 0 = true ∧
  (∃ e, (s.walkAnswers.find? fun x => x.num == c.seq && x.page == va / 65536).map (·.result) = some (.leaf e) ∧
    leafPermits e.leaf c.mode k = true ∧ (k.writes = true → e.dirty = true) ∧ pa = e.pa va) ∧
  s.mapCheck pa c.mode k (BitVec.ofNat 64 va) = none ∧ inHbm pa = true ∧ pa / 128 = (pa + n - 1) / 128 ∧ s.poison = [] ∧ s.entries = [] ∧
  (∀ d, (s.die d).takeover = []) ∧ s.txns = [] ∧ s.homeReqs = [] ∧ s.holders (pa / 128) = [] ∧ s.owners (pa / 128) = []

/-- Combine of R116 on the stored bits of an element and a value: the result, and the FSTAT flags of its one rounding. -/
def combineRule (fmt op : Nat) (ovs : Bool) (old v : Nat) : Nat × Word :=
  match ffmtOf fmt, op with
  | some f, 0 =>
    if (f.read old).isNan || (f.read v).isNan then (f.nanBits, 0)
    else match (f.read old).add false (f.read v) with
      | none => (f.nanBits, 16)
      | some x => roundF f 0 ovs x
  | some f, _ =>
    let x := f.read old
    let y := f.read v
    let below := x.lt y || (x.isZero && y.isZero && x.neg && !y.neg)
    (if x.isNan || y.isNan then f.nanBits else if below = (op == 1) then old else v, 0)
  | none, 0 => ((old + v) % 2 ^ fmtWidth fmt, 0)
  | none, _ =>
    let below := if fmt < 4 then decide (toSigned (fmtWidth fmt) old < toSigned (fmtWidth fmt) v) else decide (old < v)
    (if below = (op == 1) then old else v, 0)

/-- The state once a channel has taken a transfer (R162). -/
def State.copying (s : State) (x : BitVec 3) (ch : Nat) (d : CopyDesc) : State :=
  let p : State := { s with fresh := s.fresh + 1 }
  (p.openTransfer ch (p.newTransfer s.fresh d)).setQ x true

/-- The transfer at the head of a channel, started and not frozen, complete or serving a stream (R164). -/
def State.channelHead (s : State) (tile ch : Nat) (t : Transfer) : Prop :=
  s.performing tile ch = some t ∧ t.stream = none

/-- The physical address of an address of space 1, 2 or 3 of a transfer (R149, R156). -/
def Transfer.place (t : Transfer) (sp a : Nat) : Nat :=
  match sp with
  | 1 => window (globalCore t.core) + a
  | 2 => clusterPa t.core a
  | _ => a

/-- A transfer's bytes from its watermark on lie, in a space, in local memory. -/
def Transfer.within (t : Transfer) (sp a : Nat) : Prop :=
  (sp = 1 ∧ a + t.len ≤ 0x40000 ∨ sp = 2 ∧ a + t.len ≤ 0x800000 ∨ sp = 3) ∧ ∀ k < t.len, inLm (t.place sp (a + k)) = true

/-- A transfer that its thread may stop: it neither has completed nor is being stopped; once its CSTOP has begun, those it stops (R169). -/
def Transfer.stoppable (ts : List Transfer) (slot : Nat) (t : Transfer) : Bool :=
  if ts.any (fun y => y.stopped == some slot) then t.stopped == some slot else t.slot == slot && !t.finishing && t.stopped.isNone

/-! Coherence (R134 to R143). -/

/-- The three levels of directories agree on a line: a die lists the clusters that have an entry, an entry names a core, the package lists a die that
has one unless it is the home, an exclusive cluster is alone, and its die owns the line (R131, R135). -/
def State.agreed (s : State) (line : Nat) : Prop :=
  let entry (d k : Nat) := mruFind (clusterKey line k) (s.die d).cdir
  let die (d : Nat) := mruFind line (s.die d).ddir
  let owned (d : Nat) : Prop := ∃ p, mruFind line s.pdir = some p ∧ p.st = 2 ∧ p.owner = d
  (∀ d < 4, ∀ k < 18, (entry d k).isSome = (die d).any fun x => x.clusters.getLsbD k) ∧
  (∀ d < 4, ∀ k < 18, ∀ e, entry d k = some e → e.cores ≠ []) ∧
  (∀ d < 4, lineDie line ≠ some d → (die d).isSome = true →
    owned d ∨ ∃ p, mruFind line s.pdir = some p ∧ p.st ≠ 2 ∧ p.dies.getLsbD d = true) ∧
  (∀ d < 4, ∀ o, owned o → d ≠ o → die d = none) ∧
  (∀ d < 4, ∀ k < 18, ∀ e, entry d k = some e → e.excl = true → (lineDie line = some d ∨ owned d) ∧
    ∀ d' < 4, (∀ k' < 18, (d', k') ≠ (d, k) → entry d' k' = none) ∧ (d' ≠ d → ∀ r ∈ (s.die d').rdc, r.2.1 ≠ line))

/-- No directory can go on with a line now (R135). -/
def State.settled (s : State) (line : Nat) : Prop :=
  let ts := s.txns.zipIdx.filter fun x => x.1.line == line
  ts.findSome? (fun x => s.moveTxn ts x.1 x.2) = none

/-- Nothing but a core's own data cache keeps a line: no other cache of the device, its own instruction cache with its fills included, and its die's
remote-data cache does not have it in S (R126, R134). -/
def State.alone (s : State) (core line : Nat) : Prop :=
  (∀ h ∈ s.holders line, h = core) ∧ (∀ d < 4, d ≠ core / 1024 → ∀ r ∈ (s.die d).rdc, r.2.1 ≠ line) ∧ line ∉ (s.core core).l1i ∧
  (∀ m ∈ (s.core core).misses, m.line = line → m.instr = true → m.granted = none) ∧ ∀ r ∈ (s.die (core / 1024)).rdc, r.2.1 = line → r.2.2 ≠ .s

/-! Frames (R402, R403). -/

/-- A command frame that the command processor serves now: from a host port, well-formed, with nothing to wait for. -/
def State.hears (s : State) (h : CmdHeader) : Prop :=
  h.port < 4 ∧ h.reserved = 0 ∧ h.len = h.received ∧ s.commandWaits h = false

/-- The state in which a command's frame, if it was held, is held no more. -/
def State.taken (s : State) (h : CmdHeader) : State := { s with commands := s.commands.filter fun c => c.header != h }

/-- The state in which a command has been answered. -/
def State.answering (s : State) (op : Nat) (h : CmdHeader) (status codeNo : Nat) (body : List Byte) : State :=
  { s.taken h with sent := s.sent ++ [.answer op h status codeNo body] }

/-- No packet of a queue pair waits. -/
def State.quietPair (s : State) (via : Via) : Prop := ∀ x ∈ s.inbound, ¬(x.via.port = via.port ∧ x.via.qp = via.qp)

end Sys2Proof.Machine
end

