-- ==== Sys2Proof/Certificates/Slice0/Obligations.lean ====
section
/-! DEFINITION. The statements about the machine, one definition each. -/

open Sys2Proof Sys2Proof.Machine

/-! Encoding. -/

/-- R21 to R29: decoding the bytes of an instruction's encoding gives the instruction back and leaves the bytes after it. -/
def Obligations.DecodeOfEncode : Prop :=
  ∀ (i : Instr) (rest : List Byte), i.encoded = true → i.wf = true → decode (encode i ++ rest) = .ok (i, rest)

/-- R22, R32: the decoder answers nothing but well-formed instructions of the opcode table, never an event, and no bit of
their words is dropped: encoding the answer gives the bytes that were read. -/
def Obligations.DecodeIsExact : Prop :=
  ∀ (bs rest : List Byte) (i : Instr), decode bs = .ok (i, rest) →
    i.encoded = true ∧ i.wf = true ∧ encode i ++ rest = bs

/-- Words that the manual works out decode to the instructions they stand for (R187, R192, R195, R199, R317). -/
def Obligations.WordsOfTheManual : Prop :=
  decode32 0x000A4A03#32 = .ok (.add 8#5 9#5 10#5) ∧
  decode32 0x340A4A03#32 = .ok (.div 8#5 9#5 10#5) ∧
  decode32 0x81EE6B03#32 = .ok (.madd 12#5 13#5 14#5 15#5) ∧
  decode32 0x746A4A03#32 = .ok (.sel 8#5 9#5 10#5 3#3) ∧
  decode32 0xFC001085#32 = .ok (.addi 2#5 2#5 (-64)) ∧
  decode32 0x00364A05#32 = .ok (.srai 8#5 9#5 3#6) ∧
  decode32 0x08094049#32 = .ok (.clt 1#3 0#2 8#5 9#5) ∧
  decode32 0x23FF2849#32 = .ok (.ceqi 1#3 0#2 5#5 (-1)) ∧
  decode32 0x01322213#32 = .ok (.ldw 8#5 4#5 2#2 1#2 2#9) ∧
  decode32 0x01071313#32 = .ok (.ldq 6#4 2#5 0#2 0#2 2#9) ∧
  decode32 0x0023A255#32 = .ok (.std 9#5 20#5 0#2 1#2 0#9) ∧
  decode32 0x01891A15#32 = .ok (.sth 8#5 3#5 1#2 0#2 3#9) ∧
  decode32 0x00403051#32 = .ok (.lset 1#1 6#5 4#12) ∧
  decode32 0x00440011#32 = .ok (.lbrk 1#1)

/-! A step. -/

/-- R19, R22, R184: where it is a slot's turn, as its core's next to issue, and no store's fault, report, interrupt, held cause or
renegotiation comes first, the step executes the instruction that the bytes at the program counter decode to, and then ends the turn:
the clk ends where the instruction has issued, and a slot that still waits takes none. -/
def Sys2Proof.Claim.stepRunsDecodedInstruction : Prop :=
  ∀ (s : State) (h : Nat) (bs rest : List Byte) (i : Instr),
    (∃ l, s.agenda = .issue h :: l ∧ s.coreNext (coreOf h) = some h) ∨ (s.agenda = [] ∧ s.time % 2 = 0 ∧ s.nextSlot = some h) →
    slotOk h = true →
    let f := ({ s with agenda := s.agenda.tail } : State).focus h
    f.th.storeFaults = [] → f.th.reneg = false → f.takesReport h = false → f.takesInterrupt h = false → f.heldCause = none →
    f.th.fetch = .bytes bs → decode bs = .ok (i, rest) →
    step s = onNext (fun t => t.endTurn f s h) (exec i { f with th := { f.th with wait := none } })

/-- R19, R184: the slot that issues next from a core can issue, and no slot of that core that can comes before it in ascending order
from the slot after the one that issued last. -/
def Sys2Proof.Claim.nextSlotInOrder : Prop :=
  ∀ (s : State) (c h : Nat), s.coreNext c = some h →
    coreOf h = c ∧ (∃ t, (h, t) ∈ s.issuable) ∧
    ∀ x ∈ s.issuable, coreOf x.1 = c →
      (h % 8 + 15 - (s.core c).lastSlot) % 8 ≤ (x.1 % 8 + 15 - (s.core c).lastSlot) % 8

/-- R32: bytes that are no instruction raise illegal-instruction 0.1 at their address, with TVAL the word: the thread takes the
trap. -/
def Sys2Proof.Claim.undecodableBytesTrap : Prop :=
  ∀ (s : State) (bs : List Byte) (e : DecodeError),
    s.th.storeFaults = [] → s.th.reneg = false → s.takesReport s.cur = false → s.takesInterrupt s.cur = false → s.heldCause = none →
    s.myEntry = none → s.th.fetch = .bytes bs → decode bs = .error e → s.th.exl = false →
    s.issueFocus = .next { s with th := (s.th.saveTrap false false 0 0 1 s.instrWord s.th.pc).enterHandler }

/-- R19, R22, R32, R184: a slot's issue runs the instruction its bytes decode to, slots issue in ascending order, and bytes that are no
instruction raise 0.1. Where it goes beyond the manual's words it rests on the model's choices of logs 1 and 2. -/
def Obligations.IssueResults : Prop :=
  Claim.stepRunsDecodedInstruction ∧ Claim.nextSlotInOrder ∧ Claim.undecodableBytesTrap

/-! The end of an instruction. -/

/-- R34, R194: on plain registers, away from the end of a loop body, an instruction ends with its results in their registers,
those for g0 discarded, with the program counter past it, and with nothing else changed. -/
def Obligations.FinishWritesRegisters : Prop :=
  ∀ (s : State) (len : Nat) (srcs : List Reg) (ws : List (Reg × Word)),
    (∀ r ∈ srcs, s.th.plain r = true) → (∀ w ∈ ws, s.th.plain w.1 = true) → s.th.noLoopEnd = true →
    s.finish len srcs ws = s.wrote len ws

/-- R319: the end-of-body decision. Set 1 decides first; a count above 1 falls by one and execution goes on at ls; a count of 1
falls to 0 and the decision goes on; where neither set repeats, execution continues in sequence. -/
def Obligations.EndOfBody : Prop :=
  ∀ (t : Thread) (next : Word),
    let l1 := get2 t.loops 1#1
    let l0 := get2 t.loops 0#1
    let ends1 : Prop := l1.lc ≠ 0#32 ∧ l1.le.zeroExtend 64 = t.pc
    let ends0 : Prop := l0.lc ≠ 0#32 ∧ l0.le.zeroExtend 64 = t.pc
    let u := t.advanceTo next
    (ends1 → l1.lc ≠ 1#32 →
      u.pc = l1.ls.zeroExtend 64 ∧ (get2 u.loops 1#1).lc = l1.lc - 1#32 ∧ get2 u.loops 0#1 = l0) ∧
    ((¬ends1 ∨ l1.lc = 1#32) → ends0 → l0.lc ≠ 1#32 →
      u.pc = l0.ls.zeroExtend 64 ∧ (get2 u.loops 0#1).lc = l0.lc - 1#32 ∧ (ends1 → (get2 u.loops 1#1).lc = 0#32) ∧
      (¬ends1 → get2 u.loops 1#1 = l1)) ∧
    ((¬ends1 ∨ l1.lc = 1#32) → (¬ends0 ∨ l0.lc = 1#32) →
      u.pc = next ∧ (ends1 → (get2 u.loops 1#1).lc = 0#32) ∧ (ends0 → (get2 u.loops 0#1).lc = 0#32) ∧
      (¬ends1 → get2 u.loops 1#1 = l1) ∧ (¬ends0 → get2 u.loops 0#1 = l0))

/-- R180: an instruction that reads a register bound to a queue's consumer end, and none else, takes the queue's oldest word
once, however often it names the register; one that writes a register bound to a producer end on the same die pushes its result.
No general register changes. -/
def Obligations.QueueOperands : Prop :=
  (∀ (s : State) (r : Reg) (b : Binding) (q : HwQueue) (len : Nat),
    r ≠ 0#5 → s.th.gBind r = some b → b.producer = false → s.queue b.queue = some q → q.local_ = true →
    s.th.noLoopEnd = true →
    (s.rd r = q.words.headD 0#64) ∧
    (s.finish len [r, r] [] =
      { s.wrote len [] with queues := assocSet b.queue.toNat { q with words := q.words.tail } s.queues })) ∧
  (∀ (s : State) (r : Reg) (b : Binding) (q : HwQueue) (len : Nat) (v : Word),
    r ≠ 0#5 → s.th.gBind r = some b → b.producer = true → s.queue b.queue = some q → q.local_ = true →
    s.th.noLoopEnd = true →
    s.finish len [] [(r, v)] =
      { s.wrote len [] with queues := assocSet b.queue.toNat { q with words := q.words ++ [v] } s.queues })

/-! Integer instructions. -/

/-- R188, R189, R191, R192, R193: on operands that can be used, an arithmetic, logical, shift, multiply, divide, select or wide
instruction ends with the result that its row gives, the operands read as the numbers the row says. -/
def Obligations.ArithmeticResults : Prop :=
  ∀ (i : Instr) (s : State) (srcs : List Reg) (d : Reg) (v : Word),
    arithRule s i = some (srcs, d, v) → s.ready srcs [d] = true → exec i s = .next (s.finish 4 srcs [(d, v)])

/-- R190, R192, R193: the bit instructions end with a result whose every bit is as their rows say. -/
def Obligations.BitResults : Prop :=
  ∀ (i : Instr) (s : State) (srcs : List Reg) (d : Reg) (p : Word → Prop),
    bitRule s i = some (srcs, d, p) → s.ready srcs [d] = true → ∃ v, p v ∧ exec i s = .next (s.finish 4 srcs [(d, v)])

/-- R195 to R197: a compare writes its truth value, combined with the old value of its condition register as the field says,
and nothing else. -/
def Obligations.CompareResults : Prop :=
  ∀ (i : Instr) (s : State) (q : BitVec 3) (c : BitVec 2) (srcs : List Reg) (p : Prop),
    i.wf = true → truthRule s i = some (q, c, srcs, p) → s.ready srcs [] = true →
    ∃ t : Bool, (t = true ↔ p) ∧
      exec i s = .next ((s.setQ q (if c = 0#2 then t else if c = 1#2 then s.q q && t else s.q q || t)).finish 4 srcs [])

/-- R36, R191, R198: ADDX, QPACK and QUNPACK move the carry and the condition registers; q0 reads true whatever is written. -/
def Obligations.ConditionImages : Prop :=
  (∀ (s : State) (d a b : Reg) (c : BitVec 3), s.ready [a, b] [d] = true →
    let t := (s.rd a).toNat + (s.rd b).toNat + (if s.q c then 1 else 0)
    exec (.addx d a b c) s = .next ((s.setQ c (decide (2 ^ 64 ≤ t))).finish 4 [a, b] [(d, BitVec.ofNat 64 t)])) ∧
  (∀ (s : State) (a : Reg), s.ready [] [a] = true →
    ∃ v : Word, exec (.qpack a) s = .next (s.finish 4 [] [(a, v)]) ∧
      (∀ i : BitVec 3, v.getLsbD i.toNat = s.q i) ∧ v.toNat < 256) ∧
  (∀ (s : State) (a : Reg), s.ready [a] [] = true →
    ∃ q : BitVec 8, exec (.qunpack a) s = .next (({ s with th := { s.th with q := q } } : State).finish 4 [a] []) ∧
      (∀ i : BitVec 3, ({ s with th := { s.th with q := q } } : State).q i = (i == 0#3 || (s.rd a).getLsbD i.toNat))) ∧
  (∀ (s : State) (b : Bool), (s.setQ 0#3 b).q 0#3 = true ∧ s.setQ 0#3 b = s)

/-- R187 to R198: what an integer or compare instruction on plain registers leaves unchanged: every general register but its
destination, every condition register but the one it names, every other register of the thread, every other slot, core, tile and
die, every queue, and every byte of memory. -/
def Obligations.IntegerFrame : Prop :=
  (∀ (i : Instr) (s t : State) (srcs : List Reg) (d : Reg),
    ((∃ v, arithRule s i = some (srcs, d, v)) ∨ (∃ p, bitRule s i = some (srcs, d, p))) →
    (∀ r ∈ d :: srcs, s.th.plain r = true) → s.th.noLoopEnd = true → exec i s = .next t →
    sameMemory s t ∧ (∀ r, r ≠ d → regGet t.th.g r = regGet s.th.g r) ∧
    (∃ g, t = { s with th := { s.th.settle with g := g, pc := s.th.pc + 4#64 } })) ∧
  (∀ (i : Instr) (s t : State) (q : BitVec 3) (c : BitVec 2) (srcs : List Reg) (p : Prop),
    i.wf = true → truthRule s i = some (q, c, srcs, p) →
    (∀ r ∈ srcs, s.th.plain r = true) → s.th.noLoopEnd = true → exec i s = .next t →
    sameMemory s t ∧ (∀ j, j ≠ q → t.q j = s.q j) ∧
    (∃ y, t = { s with th := { s.th.settle with q := y, pc := s.th.pc + 4#64 } }))

/-! Loads, stores and atomics. -/

/-- R199, R200, R202: where the access of R201 gives the n bytes at the effective address, a load of any mode ends with their
value in its destination, extended as its row says. -/
def Sys2Proof.Claim.loadsAnyMode : Prop :=
  ∀ (i : Instr) (s u : State) (dsts : List Reg) (a : Reg) (am r : BitVec 2) (off : BitVec 9) (n : Nat)
    (ws : Nat → List (Reg × Word)) (bs : List Byte),
    loadRule i = some (dsts, a, am, r, off, n, ws) → s.modeOk am = true → s.ready [a] dsts = true →
    readMem (s.address a off n) am n (r == 2#2) s = .ok (bs, u) →
    exec i s = .next ((u.sampleLatency (coreOf u.cur) 1 none).finish 4 [a] (ws (leNat bs)))

/-- R148 to R150, R202: a load of the thread's own local memory (.l) ends at once with the bytes its own stores and memory hold
there, little-endian. -/
def Sys2Proof.Claim.ownLoads : Prop :=
  ∀ (i : Instr) (s : State) (dsts : List Reg) (a : Reg) (r : BitVec 2) (off : BitVec 9) (n : Nat) (ws : Nat → List (Reg × Word)),
    loadRule i = some (dsts, a, 1#2, r, off, n, ws) → s.ready [a] dsts = true →
    s.ownReady (s.address a off n) n false = true →
    exec i s = .next ((s.sampleLatency (coreOf s.cur) 1 none).finish 4 [a]
      (ws (leNat (s.loadBytes (s.myWindow + (s.address a off n).toNat) n))))

/-- R148 to R150, R199 to R202: loads end with the value of the bytes read, of any mode where the access succeeds, and of own local
memory at once. -/
def Obligations.LoadResults : Prop :=
  Claim.loadsAnyMode ∧ Claim.ownLoads

/-- R186, R199 to R204, R288, R289, R314: a store of any mode whose access passes the checks of R201 enters the store buffer with the low n
bytes of its data at the address found, or, where an earlier release holds its bytes, that entry takes them instead (the model's free
choice of log 4), and the thread goes on, its own windows and fetch buffer marked. -/
def Sys2Proof.Claim.storesAnyMode : Prop :=
  ∀ (i : Instr) (s u : State) (srcs : List Reg) (a : Reg) (am r : BitVec 2) (off : BitVec 9) (n v : Nat) (l : Loc),
    i.wf = true → storeRule s i = some (srcs, a, am, r, off, n, v) → s.modeOk am = true → s.ready (a :: srcs) [] = true →
    locate (s.address a off n) am n .store s = .ok (l, u) → (u.myCore.vq.any fun c => c.slot == u.cur) = false → u.th.sb.length < 8 →
    let e : StoreEntry := { pa := l.pa, bytes := leBytes n v, cacheable := l.cacheable, epoch := u.th.epoch, seq := u.fresh
                            asid := wfield u.th.asid 13 0, va := s.address a off n, pc := u.th.pc
                            kind := if r = 1#2 then .release else if r = 2#2 then .nonTemporal else .plain }
    let enter (x : State) : State := { x with th := { x.th with sb := x.th.sb ++ [e] }, fresh := x.fresh + 1 }
    let merge (x : State) (j : Nat) : State := { x with th := { x.th with sb := x.th.sb.modify j fun y => y.merge l.pa (leBytes n v) } }
    let ends (x : State) : State := (x.storeStales x.cur l.pa n).finish 4 (a :: srcs) []
    let p : State := { u with free := u.free + 1 }
    (r = 1#2 ∨ u.th.mergePlace l.pa n = none → exec i s = .next (ends (enter u))) ∧
    (∀ j, r ≠ 1#2 → u.th.mergePlace l.pa n = some j → exec i s = .next (ends (enter p)) ∨ exec i s = .next (ends (merge p j)))

/-- R186, R203, R204, R288, R289, R314: a store to the thread's own local memory (.l) enters the store buffer with the low n bytes of its
data, or, where an earlier release holds its bytes, that entry takes them instead (the model's free choice of log 4), and the thread
goes on, its own windows and fetch buffer marked; no byte of memory changes. -/
def Sys2Proof.Claim.ownStores : Prop :=
  ∀ (i : Instr) (s : State) (srcs : List Reg) (a : Reg) (r : BitVec 2) (off : BitVec 9) (n v : Nat),
    i.wf = true → storeRule s i = some (srcs, a, 1#2, r, off, n, v) → s.ready (a :: srcs) [] = true →
    s.ownReady (s.address a off n) n true = true → s.th.sb.length < 8 →
    let pa := s.myWindow + (s.address a off n).toNat
    let e : StoreEntry := { pa := pa, bytes := leBytes n v, cacheable := false, epoch := s.th.epoch, seq := s.fresh
                            asid := wfield s.th.asid 13 0, va := s.address a off n, pc := s.th.pc
                            kind := if r = 1#2 then .release else if r = 2#2 then .nonTemporal else .plain }
    let enter (s : State) : State := { s with th := { s.th with sb := s.th.sb ++ [e] }, fresh := s.fresh + 1 }
    let merge (s : State) (j : Nat) : State := { s with th := { s.th with sb := s.th.sb.modify j fun x => x.merge pa (leBytes n v) } }
    let ends (s : State) : State := (s.storeStales s.cur pa n).finish 4 (a :: srcs) []
    let p : State := { s with free := s.free + 1 }
    (r = 1#2 ∨ s.th.mergePlace pa n = none → exec i s = .next (ends (enter s))) ∧
    (∀ j, r ≠ 1#2 → s.th.mergePlace pa n = some j → exec i s = .next (ends (enter p)) ∨ exec i s = .next (ends (merge p j))) ∧
    ((∀ q ∈ a :: srcs, s.th.plain q = true) → s.th.noLoopEnd = true → ∀ t, exec i s = .next t → sameMemory s t)

/-- R186, R199 to R204, R288, R289, R314: stores of every mode enter the store buffer, those to own local memory at once. -/
def Obligations.OwnStoreResults : Prop := Claim.storesAnyMode ∧ Claim.ownStores

/-- R90, R134, R139, R147, R286, R288, R336, R337: a store-buffer entry that may perform and meets no conflict writes its bytes, clears the poison of
the units it covers and of no other, and leaves the buffer, every other byte of memory unchanged: one of local memory at once, one of a cached
line that its core's L1 holds in E or M with the line left in M, and one of a C = 0 page whose line no core holds and nothing asks for, at
its home. A cached one whose L1 holds the line in S or not at all asks for it and stays. One that meets conflicts begins their aborts and
stays; one narrower than a poisoned unit leaves memory unchanged, and its fault is kept for the thread. -/
def Sys2Proof.Claim.storeBufferDrains : Prop :=
  ∀ (s : State) (h k : Nat) (e : StoreEntry),
    (s.thread h).sb[k]? = some e → (s.thread h).mayDrain k = true →
    let l := s.conflicts (s.requesterOf h) (some (coreOf h)) e.pa e.bytes.length true
    let drains (t : State) : Prop :=
      (t.thread h).sb = (s.thread h).sb.eraseIdx k ∧ (Memory.wf s = true → t.bytes e.pa e.bytes.length = e.bytes) ∧
      sameMemoryBut e.pa e.bytes.length s t ∧
      (∀ x, x ∈ t.poison ↔ x ∈ s.poison ∧ ¬(e.pa ≤ x.1 ∧ x.1 + x.2 ≤ e.pa + e.bytes.length)) ∧ t.th.g = s.th.g ∧ t.th.pc = s.th.pc
    let held := mruFind (lineOf e.pa) (s.core (coreOf h)).l1d
    (l = [] → s.stopped e.pa = false → s.poisonNarrow e.pa e.bytes.length = false → inLm e.pa = true →
      inLm (e.pa + e.bytes.length - 1) = true → ∃ t, exec (.storeBufferDrain h k) s = .next t ∧ drains t) ∧
    (l = [] → s.stopped e.pa = false → s.poisonNarrow e.pa e.bytes.length = false → inHbm e.pa = true →
      lineOf (e.pa + e.bytes.length - 1) = lineOf e.pa →
      (e.cacheable = true → held = some .e ∨ held = some .m → ∃ t, exec (.storeBufferDrain h k) s = .next t ∧ drains t ∧
        mruFind (lineOf e.pa) (t.core (coreOf h)).l1d = some .m) ∧
      (e.cacheable = false → s.busy (lineOf e.pa) = false → (∀ r ∈ s.homeReqs, r.line ≠ lineOf e.pa) → s.holders (lineOf e.pa) = [] →
        ∃ t, exec (.storeBufferDrain h k) s = .next t ∧ drains t) ∧
      (e.cacheable = true → held = some .s ∨ (held = none ∧ e.kind ≠ .nonTemporal) →
        ∃ t, exec (.storeBufferDrain h k) s = .next t ∧ (t.thread h).sb = (s.thread h).sb ∧ t.mem = s.mem ∧
          ∃ m ∈ (t.core (coreOf h)).misses, m.line = lineOf e.pa ∧ m.instr = false)) ∧
    (l = [] → s.stopped e.pa = false → s.poisonNarrow e.pa e.bytes.length = true → inLm e.pa = true →
      ∃ t, exec (.storeBufferDrain h k) s = .next t ∧ (t.thread h).sb = (s.thread h).sb.eraseIdx k ∧
        (t.thread h).storeFaults = (s.thread h).storeFaults ++ [(e.va, e.pc)] ∧ t.mem = s.mem ∧ t.poison = s.poison) ∧
    (l ≠ [] → exec (.storeBufferDrain h k) s = .next (s.abort l))

/-- R288: an entry of the store buffer may perform when no earlier entry overlaps it, every earlier entry is of its fence epoch, and,
for a release, no earlier entry is left. -/
def Sys2Proof.Claim.storeBufferOrder : Prop :=
  ∀ (t : Thread) (k : Nat), t.mayDrain k = true ↔
    ∃ e, t.sb[k]? = some e ∧ (e.kind = .release → k = 0) ∧
      ∀ j < k, ∀ x, t.sb[j]? = some x → x.epoch = e.epoch ∧
        (e.pa + e.bytes.length ≤ x.pa ∨ x.pa + x.bytes.length ≤ e.pa)

/-- R202: a load returns for each byte the value of the thread's latest store to it that is still in the store buffer, and
otherwise the byte in memory. -/
def Sys2Proof.Claim.loadForwarding : Prop :=
  ∀ (s : State) (pa n i : Nat), i < n →
    ((∀ e ∈ s.th.sb, pa + i < e.pa ∨ e.pa + e.bytes.length ≤ pa + i) → (s.loadBytes pa n)[i]? = some (s.byte (pa + i))) ∧
    (∀ (l r : List StoreEntry) (e : StoreEntry), s.th.sb = l ++ e :: r →
      e.pa ≤ pa + i → pa + i < e.pa + e.bytes.length →
      (∀ x ∈ r, pa + i < x.pa ∨ x.pa + x.bytes.length ≤ pa + i) → (s.loadBytes pa n)[i]? = e.bytes[pa + i - e.pa]?)

/-- R90, R134, R139, R147, R202, R286, R288, R336, R337: how store-buffer entries perform, in what order they may, and what loads of the same thread see. Where it
goes beyond the manual's words it rests on the model's choices of logs 17, 21 and 85. -/
def Obligations.StoreBufferRules : Prop :=
  Claim.storeBufferDrains ∧ Claim.storeBufferOrder ∧ Claim.loadForwarding

/-- R77, R83, R84, R150, R201: a load or store that is misaligned raises 1.1; beyond the range of its mode 1.11 (.l and .c), 1.12 (16 bytes of
.c), 1.2 (.g) or 1.7 (.p); of .g while EN of PTBASE is 0 1.3; at an address that the map does not list 1.7; and with a failed walk of its page
that walk's fault: each with TVAL the address. The thread takes the trap. -/
def Sys2Proof.Claim.accessTraps : Prop :=
  ∀ (i : Instr) (s : State) (srcs dsts : List Reg) (am : BitVec 2) (n : Nat) (k : AccessKind) (a : Word),
    accessRule s i = some (srcs, dsts, am, n, k, a) → s.modeOk am = true → s.ready srcs dsts = true → s.myEntry = none → s.th.exl = false →
    (a.toNat % n ≠ 0 → exec i s = .next (s.trapped 1 1 a)) ∧
    (a.toNat % n = 0 →
      (am = 1#2 → 0x40000 ≤ a.toNat → exec i s = .next (s.trapped 1 11 a)) ∧
      (am = 2#2 → 0x800000 ≤ a.toNat → exec i s = .next (s.trapped 1 11 a)) ∧
      (am = 2#2 → a.toNat < 0x800000 → n = 16 → exec i s = .next (s.trapped 1 12 a)) ∧
      (am = 3#2 → 2 ^ 52 ≤ a.toNat ∨ s.mapped a.toNat = false → exec i s = .next (s.trapped 1 7 a)) ∧
      (am = 0#2 → 2 ^ 56 ≤ a.toNat → exec i s = .next (s.trapped 1 2 a)) ∧
      (am = 0#2 → a.toNat < 2 ^ 56 → s.th.ptbase.getLsbD 0 = false → exec i s = .next (s.trapped 1 3 a)) ∧
      (am = 0#2 → a.toNat < 2 ^ 56 → s.th.ptbase.getLsbD 0 = true →
        (∀ cause old, s.th.walkFail = [(a.toNat / 65536, { code := 64 + cause, tval := old, violation := false })] →
          exec i s = .next (({ s with th := { s.th with walkFail := [] } } : State).trapped 1 cause a)) ∧
        (∀ e, s.th.walkFail = [] → s.tlbLookup (coreOf s.cur) .load (wfield s.th.asid 13 0) a.toNat = some e →
          leafPermits e.leaf s.th.mode k = true → s.mapped (e.pa a.toNat) = false →
          exec i s = .next ((s.installCore (coreOf s.cur) .load e).trapped 1 7 a))))

/-- R89, R82, R154, R201, R388: a load or store that the leaf of its page does not permit freezes the thread with 1.9, a .p one of the ROM that
is no read in M mode with 1.8, and a .p one of another core's local memory that PERMR or PERMW does not admit with 1.10; TVAL is the
address, and the freeze is reported. -/
def Sys2Proof.Claim.accessViolations : Prop :=
  ∀ (i : Instr) (s : State) (srcs dsts : List Reg) (am : BitVec 2) (n : Nat) (k : AccessKind) (a : Word),
    accessRule s i = some (srcs, dsts, am, n, k, a) → s.modeOk am = true → s.ready srcs dsts = true → s.myEntry = none →
    a.toNat % n = 0 →
    let stops (cause : Nat) : Prop := ∃ t : State, exec i s = .next t ∧ s.freezes { code := 64 + cause, tval := a, violation := true } t ∧
      (t.thread s.cur).tval = a ∧ (t.thread s.cur).epc = s.th.pc &&& ~~~1#64
    (∀ e, am = 0#2 → a.toNat < 2 ^ 56 → s.th.ptbase.getLsbD 0 = true → s.th.walkFail = [] →
      s.tlbLookup (coreOf s.cur) .load (wfield s.th.asid 13 0) a.toNat = some e → leafPermits e.leaf s.th.mode k = false → stops 9) ∧
    (am = 3#2 → inRom a.toNat = true → s.th.mode ≠ 3#2 ∨ k = .store → stops 8) ∧
    (am = 3#2 → inLm a.toNat = true → s.permFails a.toNat (k == .store) → stops 10)

/-- R33, R201: a .p load or store in U mode raises 0.2, with TVAL the instruction; the thread takes the trap. -/
def Sys2Proof.Claim.privilegedAccess : Prop :=
  ∀ (i : Instr) (s : State), s.myEntry = none → s.th.exl = false → s.th.privileged = false →
    ((∃ ds a r o n ws, loadRule i = some (ds, a, 3#2, r, o, n, ws)) ∨ (∃ ds a r o n v, storeRule s i = some (ds, a, 3#2, r, o, n, v))) →
    exec i s = .next (s.trapped 0 2 s.instrWord)

/-- R33, R77, R82 to R84, R89, R150, R154, R201, R388: the loads and stores that trap or freeze. -/
def Obligations.AccessFaults : Prop := Claim.accessTraps ∧ Claim.accessViolations ∧ Claim.privilegedAccess

/-- R301, R302: an atomic on own local memory through a cached leaf, with no store of the thread waiting, reads the old number,
writes the new one where its row writes, and returns the old one in g[d]; every byte outside the n bytes is unchanged. -/
def Sys2Proof.Claim.ownAtomics : Prop :=
  ∀ (i : Instr) (s : State) (d a : Reg) (srcs : List Reg) (p : BitVec 2) (n : Nat) (f : Nat → Option Nat × Word) (e : TlbEntry),
    atomicRule s i = some (d, a, srcs, p, n, f) → s.ready (a :: srcs) [d] = true →
    s.localLeaf (s.rd a) n e → s.th.sb = [] →
    let pa := e.pa (s.rd a).toNat
    let old := leNat (s.bytes pa n)
    let u := s.installCore (coreOf s.cur) .load e
    let w := match (f old).1 with
      | some v => u.perform pa (leBytes n v)
      | none => u
    let m := w.storeStales s.cur pa n
    exec i s = .next (({ m with th := { m.th with fstat := m.th.fstat ||| (f old).2 } } : State).finish 4 (a :: srcs)
      [(d, BitVec.ofNat 64 old)]) ∧ sameMemoryBut pa n s m

/-- R134, R301, R302: an atomic on HBM in a cached page whose line its core's L1 holds in E or M does the same there, the line being left
in M. -/
def Sys2Proof.Claim.cachedAtomics : Prop :=
  ∀ (i : Instr) (s : State) (d a : Reg) (srcs : List Reg) (p : BitVec 2) (n : Nat) (f : Nat → Option Nat × Word) (e : TlbEntry),
    atomicRule s i = some (d, a, srcs, p, n, f) → s.ready (a :: srcs) [d] = true → s.hbmLeaf (s.rd a) n e → e.cacheable = true →
    s.th.sb = [] → s.unlanded (e.pa (s.rd a).toNat) n 0 = false →
    let pa := e.pa (s.rd a).toNat
    let held := mruFind (lineOf pa) (s.core (coreOf s.cur)).l1d
    held = some .e ∨ held = some .m →
    let old := leNat (s.bytes pa n)
    ∃ t : State, exec i s = .next (t.finish 4 (a :: srcs) [(d, BitVec.ofNat 64 old)]) ∧ sameMemoryBut pa n s t ∧
      (Memory.wf s = true → t.bytes pa n = match (f old).1 with
        | some v => leBytes n v
        | none => s.bytes pa n) ∧
      mruFind (lineOf pa) (t.core (coreOf s.cur)).l1d = some .m ∧ t.th.g = s.th.g ∧ t.th.pc = s.th.pc ∧ t.th.fstat = s.th.fstat ||| (f old).2

/-- R19, R90, R139, R152, R301, R302, R395: an atomic on a C = 0 page of HBM is sent to its home with its operands, and the slot waits; one that has been
sent to another core's local memory performs there as one step, and its answer ends the instruction with the old number in g[d]. -/
def Sys2Proof.Claim.homeAtomics : Prop :=
  (∀ (i : Instr) (s : State) (d a : Reg) (srcs : List Reg) (p : BitVec 2) (n : Nat) (f : Nat → Option Nat × Word) (e : TlbEntry),
    atomicRule s i = some (d, a, srcs, p, n, f) → s.ready (a :: srcs) [d] = true → s.hbmLeaf (s.rd a) n e → e.cacheable = false →
    s.th.sb = [] → s.unlanded (e.pa (s.rd a).toNat) n 0 = false →
    let pa := e.pa (s.rd a).toNat
    ∃ (t : State) (k : AtomicKind) (v x : Word), exec i s = .next t ∧ t.mem = s.mem ∧ t.th.pc = s.th.pc ∧ t.th.g = s.th.g ∧
      t.th.wait = some .memoryReply ∧ (∀ old < 2 ^ (8 * n), k.op n s.th old v.toNat x.toNat = f old) ∧
      (∃ o, t.th.outstanding = some o ∧ o.req = .atomic k d n v x pa none) ∧
      ∃ r, t.homeReqs = s.homeReqs ++ [r] ∧ r.who = .slot s.cur ∧ r.line = lineOf pa ∧ r.write = true) ∧
  (∀ (s : State) (k : AtomicKind) (d : Reg) (n pa : Nat) (v x : Word) (o : Outstanding) (r : HomeReq), s.th.outstanding = some o →
    o.req = .atomic k d n v x pa none → s.th.park = none → s.homeReqs = [r] → r.who = .slot s.cur → r.line = lineOf pa → r.write = true →
    inLm pa = true → inLm (128 * lineOf pa) = true → inLm (pa + n - 1) = true → s.stopped pa = false → s.unlanded pa n 0 = false →
    s.poisoned pa n = false →
    (∀ w, s.conflicts (s.requesterOf s.cur) (some (coreOf s.cur)) pa n w = []) →
    let old := leNat (s.bytes pa n)
    let y := k.op n s.th old v.toNat x.toNat
    ∃ t : State, exec (.uncachedHomeAccess (lineOf pa) true) s = .next (t.finish 4 o.srcs [(d, BitVec.ofNat 64 old)]) ∧
      sameMemoryBut pa n s t ∧ (Memory.wf s = true → t.bytes pa n = match y.1 with
        | some z => leBytes n z
        | none => s.bytes pa n) ∧ t.th.fstat = s.th.fstat ||| y.2 ∧ t.th.g = s.th.g ∧ t.th.pc = s.th.pc)

/-- R19, R90, R134, R139, R152, R301, R302, R395: atomics on own local memory, on cached HBM and at their homes. -/
def Obligations.AtomicResults : Prop := Claim.ownAtomics ∧ Claim.cachedAtomics ∧ Claim.homeAtomics

/-! Fences. -/

/-- R288, R303: FENCE completes, of every kind and scope and in every state, but that .ar (k = 3) does once every store has performed: it
ends with a new epoch for .rel (k = 2) where stores wait, and with nothing else changed. -/
def Sys2Proof.Claim.fenceCompletes : Prop :=
  ∀ (s : State) (k : BitVec 2) (x : BitVec 3), (k = 3#2 → s.th.sb = []) →
    exec (.fence k x) s = .next (({ s with th := { s.th with
      epoch := if k = 2#2 ∧ s.th.sb ≠ [] then s.th.epoch + 1 else s.th.epoch } } : State).finish 4 [] [])

/-- R305, R314: IFENCE completes once every store has performed: it ends with the fetch buffer empty beyond it and every window stale. -/
def Sys2Proof.Claim.ifenceCompletes : Prop :=
  ∀ (s : State), s.th.sb = [] →
    exec .ifence s = .next (({ s with th := { s.th.staleAll with fbuf := emptyFbuf (s.th.pc + 4#64) } } : State).finish 4 [] [])

/-- R304: QFENCE of an operand that names queues only completes while fewer than four joins of the thread are unresolved, and for an
operand of 0 always: the resolved joins are forgotten, and for a nonzero operand the join of the named queues is added, which the
thread's commands accepted so far come before. -/
def Sys2Proof.Claim.qfenceCompletes : Prop :=
  ∀ (s : State) (a : Reg), s.ready [a] [] = true → s.rd a &&& ~~~0xFFFF0007#64 = 0#64 →
    let live := s.th.joins.filter (s.unresolved s.cur)
    let joined (l : List Join) : State := { s with th := { s.th with joins := live ++ l } }
    s.rd a = 0#64 ∨ live.length < 4 →
    exec (.qfence a) s = .next ((joined (if s.rd a = 0#64 then []
      else [{ set := s.rd a, before := s.namedCommands (s.rd a), from_ := s.fresh }])).finish 4 [a] [])

/-- R19, R304: while stores wait, FENCE .ar and IFENCE wait as for a memory reply, and so does a QFENCE beyond four unresolved joins; an
operand of QFENCE with another bit set raises 0.5. -/
def Sys2Proof.Claim.fenceWaits : Prop :=
  (∀ (s : State) (i : Instr), s.th.sb ≠ [] → (∃ x, i = .fence 3#2 x) ∨ i = .ifence →
    exec i s = .next { s with th := { s.th with wait := some .memoryReply } }) ∧
  (∀ (s : State) (a : Reg), s.ready [a] [] = true → s.rd a &&& ~~~0xFFFF0007#64 = 0#64 → s.rd a ≠ 0#64 →
    4 ≤ (s.th.joins.filter (s.unresolved s.cur)).length →
    exec (.qfence a) s =
      .next { s with th := { s.th with joins := s.th.joins.filter (s.unresolved s.cur), wait := some .memoryReply } }) ∧
  (∀ (s : State) (a : Reg), s.ready [a] [] = true → s.rd a &&& ~~~0xFFFF0007#64 ≠ 0#64 → s.myEntry = none → s.th.exl = false →
    exec (.qfence a) s = .next (s.trapped 0 5 (s.rd a)))

/-- R288, R303 to R305, R314: FENCE, IFENCE and QFENCE complete, with what each changes, and where they wait or trap instead. Where it
goes beyond the manual's words it rests on the model's choices of log 52. -/
def Obligations.FenceResults : Prop :=
  Claim.fenceCompletes ∧ Claim.ifenceCompletes ∧ Claim.qfenceCompletes ∧ Claim.fenceWaits

/-! Branch targets, transfers and loops. -/

/-- R306 to R309: a prepare whose target is even and below 2^56 sets its register to the target, prepared and not stale, with the window
on its way under the current mode; the checked forms do so after the translations of t and t + 63 succeed. -/
def Sys2Proof.Claim.prepareResults : Prop :=
  let put (s : State) (b : BitVec 3) (t : Word) : State :=
    { s with th := { s.th with bt := set8 s.th.bt b { target := t.truncate 56, v := true, s := false, win := .inFlight (s.th.fetchId s.th.mode) } } }
  let good (t : Word) : Prop := t.getLsbD 0 = false ∧ t.toNat < 2 ^ 56
  let checked (s u : State) (t : Word) : Prop := ∃ w, s.fetchable t.toNat w ∧ w.fetchable (t.toNat + 63) u
  (∀ (s : State) (b : BitVec 3) (i : BitVec 21), good (BitVec.ofInt 64 (s.th.pc.toNat + 2 * i.toInt)) →
    exec (.prep b i) s = .next ((put s b (BitVec.ofInt 64 (s.th.pc.toNat + 2 * i.toInt))).finish 4 [] [])) ∧
  (∀ (s u : State) (b : BitVec 3) (i : BitVec 21), good (BitVec.ofInt 64 (s.th.pc.toNat + 2 * i.toInt)) →
    checked s u (BitVec.ofInt 64 (s.th.pc.toNat + 2 * i.toInt)) →
    exec (.prepc b i) s = .next ((put u b (BitVec.ofInt 64 (s.th.pc.toNat + 2 * i.toInt))).finish 4 [] [])) ∧
  (∀ (s : State) (b : BitVec 3) (a : Reg) (i : BitVec 12), s.ready [a] [] = true →
    good (BitVec.ofInt 64 ((s.rd a).toNat + 2 * i.toInt)) →
    exec (.prepr b a i) s = .next ((put s b (BitVec.ofInt 64 ((s.rd a).toNat + 2 * i.toInt))).finish 4 [a] [])) ∧
  (∀ (s u : State) (b : BitVec 3) (a : Reg) (i : BitVec 12), s.ready [a] [] = true →
    good (BitVec.ofInt 64 ((s.rd a).toNat + 2 * i.toInt)) → checked s u (BitVec.ofInt 64 ((s.rd a).toNat + 2 * i.toInt)) →
    exec (.preprc b a i) s = .next ((put u b (BitVec.ofInt 64 ((s.rd a).toNat + 2 * i.toInt))).finish 4 [a] []))

/-- R35, R307: BTRD gives V, S and TARGET at bits 63, 62 and [55:0]; BTCLR makes the register invalid and keeps its TARGET. -/
def Sys2Proof.Claim.branchTargetImages : Prop :=
  (∀ (s : State) (d : Reg) (b : BitVec 3), s.ready [] [d] = true →
    ∃ v : Word, exec (.btrd d b) s = .next (s.finish 4 [] [(d, v)]) ∧ v.getLsbD 63 = (get8 s.th.bt b).v ∧
      v.getLsbD 62 = (get8 s.th.bt b).s ∧ v.extractLsb' 0 56 = (get8 s.th.bt b).target ∧ v.extractLsb' 56 6 = 0#6) ∧
  (∀ (s : State) (b : BitVec 3), ∃ t : State, exec (.btclr b) s = .next (t.finish 4 [] []) ∧
    (get8 t.th.bt b).v = false ∧ (get8 t.th.bt b).s = false ∧ (get8 t.th.bt b).target = (get8 s.th.bt b).target ∧
    (∀ c, c ≠ b → get8 t.th.bt c = get8 s.th.bt c) ∧ { t with th := { t.th with bt := s.th.bt } } = s)

/-- R35, R306 to R309: prepares, and the images of the branch-target registers. -/
def Obligations.BranchTargets : Prop :=
  Claim.prepareResults ∧ Claim.branchTargetImages

/-- R311: a transfer whose condition does not hold only retires; one whose condition holds, through a prepared register that is not
stale and whose window has arrived under the current mode, continues at the target with the window's bytes. CALL leaves the
address after it in g1, and JMPX leaves the register invalid. The end-of-body decision is not made. -/
def Sys2Proof.Claim.transferResults : Prop :=
  (∀ (s : State) (b q : BitVec 3) (n : BitVec 1), s.q q = (n == 1#1) →
    exec (.jmp b q n) s = .next (s.finish 4 [] []) ∧ exec (.call b q n) s = .next (s.finish 4 [] []) ∧
    exec (.jmpx b q n) s = .next (s.finish 4 [] [])) ∧
  (∀ (s : State) (b q : BitVec 3) (n : BitVec 1) (cells : List Host.Cell), s.q q = (n == 0#1) →
    (get8 s.th.bt b).v = true → (get8 s.th.bt b).s = false → (get8 s.th.bt b).win = .ready s.th.mode cells →
    let target := (get8 s.th.bt b).target.zeroExtend 64
    exec (.jmp b q n) s = .next { s with th := s.th.jumpTo target cells } ∧
    let gone : BtReg := { get8 s.th.bt b with v := false, s := false, win := .none }
    exec (.call b q n) s =
      .next { s with th := { s.th.jumpTo target cells with g := regSet s.th.g 1#5 (s.th.pc + 4#64) } } ∧
    exec (.jmpx b q n) s = .next { s with th := { s.th.jumpTo target cells with bt := set8 s.th.bt b gone } })

/-- R311: a taken transfer through an invalid register raises 0.4 with TVAL the instruction, and the thread takes the trap. -/
def Sys2Proof.Claim.invalidTargetTraps : Prop :=
  ∀ (s : State) (b q : BitVec 3) (n : BitVec 1) (i : Instr), i = .jmp b q n ∨ i = .call b q n ∨ i = .jmpx b q n →
    s.q q = (n == 0#1) → (get8 s.th.bt b).v = false → s.myEntry = none → s.th.exl = false →
    exec i s = .next { s with th := (s.th.saveTrap false false 0 0 4 s.instrWord s.th.pc).enterHandler }

/-- R311: transfers taken, not taken, and through an invalid register. -/
def Obligations.Transfers : Prop :=
  Claim.transferResults ∧ Claim.invalidTargetTraps

/-- R317, R318: LSET and LSETI set lc, ls and le of their set and go on in sequence; for a count of 0 they go on after the body's last
instruction, whose first byte says its length; LRD, LWR and LBRK read, write and end a set. -/
def Obligations.LoopResults : Prop :=
  let put (s : State) (n : BitVec 1) (c : Word) (i : BitVec 12) : State :=
    let l : LoopSet :=
      { lc := c.truncate 32, ls := (s.th.pc + 4#64).truncate 56, le := (s.th.pc + 4#64 + 2#64 * i.zeroExtend 64).truncate 56
        stale := false, win := .inFlight (s.th.fetchId s.th.mode) }
    { s with th := { s.th with loops := set2 s.th.loops n l } }
  let write (s : State) (e : BitVec 1) (l : LoopSet) : State := { s with th := { s.th with loops := set2 s.th.loops e l } }
  (∀ (s : State) (n : BitVec 1) (a : Reg) (i : BitVec 12), s.ready [a] [] = true → s.rd a ≠ 0#64 → (s.rd a).toNat < 2 ^ 32 →
    exec (.lset n a i) s = .next ((put s n (s.rd a) i).finish 4 [a] [])) ∧
  (∀ (s : State) (n : BitVec 1) (c : BitVec 9) (i : BitVec 12), c ≠ 0#9 →
    exec (.lseti n c i) s = .next ((put s n (c.zeroExtend 64) i).finish 4 [] [])) ∧
  (∀ (s : State) (n : BitVec 1) (i : BitVec 12) (x : Host.Cell) (l : List Host.Cell),
    let le := s.th.pc + 4#64 + 2#64 * i.zeroExtend 64
    let skip : State :=
      { put s n 0#64 i with th := (put s n 0#64 i).th.advanceTo (le + (if x.2.getLsbD 0 then 4#64 else 2#64)) }
    s.th.fbuf.from_ le.toNat = x :: l → le.toNat < 2 ^ 56 →
    exec (.lseti n 0#9 i) s = .next skip ∧
    (∀ a, s.th.plain a = true → s.rd a = 0#64 → exec (.lset n a i) s = .next skip)) ∧
  (∀ (s : State) (d : Reg) (r : BitVec 2) (e : BitVec 1), r ≠ 3#2 → s.ready [] [d] = true →
    let l := get2 s.th.loops e
    exec (.lrd d r e) s = .next (s.finish 4 [] [(d, if r = 0#2 then l.lc.zeroExtend 64 else if r = 1#2 then l.ls.zeroExtend 64
      else l.le.zeroExtend 64)])) ∧
  (∀ (s : State) (a : Reg) (e : BitVec 1), s.ready [a] [] = true → (s.rd a).toNat < 2 ^ 32 →
    exec (.lwr a 0#2 e) s = .next ((write s e { get2 s.th.loops e with lc := (s.rd a).truncate 32 }).finish 4 [a] [])) ∧
  (∀ (s : State) (a : Reg) (e : BitVec 1), s.ready [a] [] = true → (s.rd a).toNat < 2 ^ 56 →
    let x : BitVec 56 := (s.rd a).truncate 56 &&& ~~~1#56
    let ls : LoopSet := { get2 s.th.loops e with ls := x, win := .inFlight (s.th.fetchId s.th.mode), stale := false }
    exec (.lwr a 1#2 e) s = .next ((write s e ls).finish 4 [a] []) ∧
    exec (.lwr a 2#2 e) s = .next ((write s e { get2 s.th.loops e with le := x }).finish 4 [a] [])) ∧
  (∀ (s : State) (e : BitVec 1),
    exec (.lbrk e) s = .next ((write s e { get2 s.th.loops e with lc := 0#32 }).finish 4 [] []))

/-! Floating point and rationals. -/

/-- R51, R52: every finite value of a binary format rounds to its own encoding under every rounding code, and raises no flag. -/
def Sys2Proof.Claim.formatsAreExact : Prop :=
  ∀ (c : Nat) (f : FFmt) (rm : Nat) (ovs : Bool) (bits : Nat),
    ffmtOf c = some f → bits < 2 ^ f.width → (f.read bits).finite = true → roundF f rm ovs (f.read bits) = (bits, 0)

/-- R49, R61: every finite value of a canonical FS64 word rounds to that word under every rounding code, and raises no flag. -/
def Sys2Proof.Claim.rationalsAreExact : Prop :=
  ∀ (w : Word) (rm : Nat) (ovs : Bool),
    fsCanonical w = true → (fsRead w).finite = true → roundQ rm ovs (fsRead w) = (w, 0)

/-- R48, R51, R52, R54: RoundF of a finite value that does not overflow gives a finite value of the format: under code 1 the greatest
magnitude not above it, under 2 the greatest value not above it, under 3 the least not below it, under 0 and 4 a nearest one, of two nearest
ones the one whose last bit is 0 under code 0, and the one further from zero under code 4. It reports inexact where the value has changed, and
underflow with it where the result lies below the smallest normal magnitude. -/
def Sys2Proof.Claim.roundingF : Prop :=
  ∀ (c : Nat) (f : FFmt) (rm : Nat) (ovs s : Bool) (n d : Nat), ffmtOf c = some f → rm ≤ 4 → 0 < n → 0 < d →
    let x : Rat := (Machine.Num.fin s n d).toRat
    let r := roundF f rm ovs (.fin s n d)
    let y : Rat := (f.read r.1).toRat
    r.2.getLsbD 2 = false →
    (f.read r.1).finite = true ∧ r.1 < 2 ^ f.width ∧ (rm = 1 → y.abs ≤ x.abs) ∧ (rm = 2 → y ≤ x) ∧ (rm = 3 → x ≤ y) ∧
    (∀ z < 2 ^ f.width, (f.read z).finite = true →
      let w : Rat := (f.read z).toRat
      (rm = 1 → w.abs ≤ x.abs → w.abs ≤ y.abs) ∧ (rm = 2 → w ≤ x → w ≤ y) ∧ (rm = 3 → x ≤ w → y ≤ w) ∧
      (rm = 0 ∨ rm = 4 → (y - x).abs ≤ (w - x).abs) ∧
      ((y - x).abs = (w - x).abs → w ≠ y → (rm = 0 → r.1 % 2 = 0) ∧ (rm = 4 → w.abs ≤ y.abs))) ∧
    r.2 = (if y = x then 0 else if y.abs < (2 : Rat) ^ (1 - (f.bias : Int)) then 3 else 1)

/-- R48, R52, R55: RoundF of a finite value overflows only where its magnitude exceeds the largest finite one, and always where it exceeds that by
the spacing of the highest values or more. It then reports overflow and inexact, and gives that largest finite value under a code that
rounds toward zero there, and with OVS = 1, and otherwise an infinity, or for E4M3 the NaN. -/
def Sys2Proof.Claim.overflowF : Prop :=
  ∀ (c : Nat) (f : FFmt) (rm : Nat) (ovs s : Bool) (n d : Nat), ffmtOf c = some f → rm ≤ 4 → 0 < n → 0 < d →
    let x : Rat := (Machine.Num.fin s n d).toRat
    let r := roundF f rm ovs (.fin s n d)
    let top : Rat := (f.read f.maxBits).toRat
    (r.2.getLsbD 2 = true → top < x.abs ∧ r.2 = 5 ∧
      r.1 = if (rm = 1 ∨ (rm = 2 ∧ s = false) ∨ (rm = 3 ∧ s = true)) ∨ ovs = true then f.withSign s f.maxBits
        else if f.e4m3 = true then f.nanBits else f.withSign s f.infBits) ∧
    (2 * top - (f.read (f.maxBits - 1)).toRat ≤ x.abs → r.2.getLsbD 2 = true)

/-- R49, R54: RoundQ of a fraction that lies strictly between two members of S, with none between those, gives the lower magnitude under code 1
and the higher or lower one under 2 and 3 as its sign asks; under 0 it compares with their mediant and under 4 with their midpoint, and at that
point takes the smaller denominator, or of equal ones the even numerator. It reports inexact, and underflow below the smallest
member; above the largest member it overflows. -/
def Sys2Proof.Claim.roundingQ : Prop :=
  (∀ (rm : Nat) (ovs s : Bool) (n d ln ld hn hd : Nat), rm ≤ 4 → 0 < n → 0 < d → fsMember ln ld → fsMember hn hd → 0 < ld → 0 < hd →
    ln * d < n * ld → n * hd < hn * d → (∀ a b, fsMember a b → 0 < b → a * ld ≤ ln * b ∨ hn * b ≤ a * hd) →
    let p : Nat × Nat := if rm = 0 then (ln + hn, ld + hd) else (ln * hd + hn * ld, 2 * ld * hd)
    let low : Prop := rm = 1 ∨ (rm = 2 ∧ s = false) ∨ (rm = 3 ∧ s = true) ∨
      ((rm = 0 ∨ rm = 4) ∧ (n * p.2 < p.1 * d ∨ (n * p.2 = p.1 * d ∧ (ld < hd ∨ (ld = hd ∧ ln % 2 = 0)))))
    (low → (roundQ rm ovs (.fin s n d)).1 = fsWord s ln ld) ∧ (¬low → (roundQ rm ovs (.fin s n d)).1 = fsWord s hn hd) ∧
    (roundQ rm ovs (.fin s n d)).2 = (if ln = 0 then 3 else 1)) ∧
  (∀ (rm : Nat) (ovs s : Bool) (n d : Nat), rm ≤ 4 → 0 < d → (2 ^ 56 - 1) * d < n →
    roundQ rm ovs (.fin s n d) =
      (if (rm = 1 ∨ (rm = 2 ∧ s = false) ∨ (rm = 3 ∧ s = true)) ∨ ovs = true then fsWord s (2 ^ 56 - 1) 1 else fsInf s, 5))

/-- R48, R49, R51, R52, R54, R55, R61: values of a format round to themselves, and any other as its rounding code says. -/
def Obligations.ExactValues : Prop :=
  Claim.formatsAreExact ∧ Claim.rationalsAreExact ∧ Claim.roundingF ∧ Claim.overflowF ∧ Claim.roundingQ

/-- R208, R210 to R213: outside rational mode every instruction of binary floating point ends with its row's result in g[d], and its
flags are or-ed into FSTAT; the S forms do so in either mode. -/
def Sys2Proof.Claim.floatResults : Prop :=
  ∀ (i : Instr) (s : State) (srcs : List Reg) (d : Reg) (v : Nat) (fl : Word),
    floatRule s i = some (srcs, d, v, fl) → s.th.rat = false ∨ rationalRule s i = none ∧ (∀ a b c e, i ≠ .fsqrtd a b c e) →
    s.ready srcs [d] = true →
    exec i s = .next (({ s with th := { s.th with fstat := s.th.fstat ||| fl } } : State).finish 4 srcs [(d, BitVec.ofNat 64 v)])

/-- R214 to R216: a conversion between listed formats ends with its result in g[d] and its flags in FSTAT or RSTAT. -/
def Sys2Proof.Claim.conversionResults : Prop :=
  ∀ (i : Instr) (s : State) (srcs : List Reg) (d : Reg) (v fs rs : Word),
    convertRule s i = some (srcs, d, v, fs, rs) → s.ready srcs [d] = true →
    exec i s = .next (({ s with th := { s.th with fstat := s.th.fstat ||| fs, rstat := s.th.rstat ||| rs } } : State).finish 4 srcs [(d, v)])

/-- R208 to R216: binary floating point and conversions. Where it goes beyond the manual's words it rests on
the model's choices of log 44. -/
def Obligations.FloatingPoint : Prop :=
  Claim.floatResults ∧ Claim.conversionResults

/-- R217 to R222: in rational mode a rational operation takes its slot out of rotation, with its results formed; when it completes they
are written, its flags are or-ed into FSTAT and RSTAT, and the instruction ends. -/
def Sys2Proof.Claim.rationalResults : Prop :=
  ∀ (i : Instr) (s : State) (srcs : List Reg) (ws : List (Reg × Word)) (fs rs : Word),
    rationalRule s i = some (srcs, ws, fs, rs) → s.th.rat = true → s.ready srcs (ws.map (·.1)) = true →
    let o : Outstanding := { req := .rational ws fs rs, srcs := srcs, ga := 0, qd := 0 }
    let t : State := { s with th := { s.th with outstanding := some o, wait := some .rational } }
    exec i s = .next t ∧
    exec (.rationalOperationComplete s.cur) t =
      .next (({ t with th := { t.th with fstat := t.th.fstat ||| fs, rstat := t.th.rstat ||| rs } } : State).finish 4 srcs ws)

/-- R32, R217, R221: RMODE enters or leaves rational mode and gives the old mode in g[d]; outside rational mode the rational instructions,
and in it FSQRTD, raise illegal-in-mode 0.3 with TVAL the instruction. -/
def Sys2Proof.Claim.rationalMode : Prop :=
  (∀ (s : State) (d a : Reg), s.ready [a] [d] = true →
    ∃ t : State, exec (.rmode d a) s = .next (t.finish 4 [a] [(d, if s.th.rat then 1#64 else 0#64)]) ∧
      t.th.rat = (s.rd a).getLsbD 0 ∧ (∀ i, i ≠ 8 → t.th.rstat.getLsbD i = s.th.rstat.getLsbD i) ∧
      { t with th := { t.th with rstat := s.th.rstat } } = s) ∧
  (∀ (i : Instr) (s : State), s.myEntry = none → s.th.exl = false →
    (s.th.rat = false ∧ floatRule s i = none ∧ (rationalRule s i).isSome = true) ∨ (s.th.rat = true ∧ ∃ d a r o, i = .fsqrtd d a r o) →
    exec i s = .next { s with th := (s.th.saveTrap false false 0 0 3 s.instrWord s.th.pc).enterHandler })

/-- R32, R217 to R222: rational mode and its instructions. -/
def Obligations.Rationals : Prop :=
  Claim.rationalResults ∧ Claim.rationalMode

/-! Messages and the ready queue. -/

/-- R297, R347: MSEND and MSENDT of a thread that is no speculative task, with no store waiting and an address word that names a slot,
send the payload and take the slot out of rotation until the answer; the answer's truth goes to the condition register. -/
def Sys2Proof.Claim.sendResults : Prop :=
  (∀ (s : State) (q : BitVec 3) (a b : Reg), s.ready [a, b] [] = true → s.speculative = false → s.th.sb = [] →
    (s.rd a).toNat < 2 ^ 24 → (s.rd a).getLsbD 15 = false → wfield (s.rd a) 12 6 < 72 →
    let m (timed : Bool) : Message :=
      { payload := s.rd b, tsFlag := timed, ch := (s.rd a).extractLsb' 22 2, tag := (s.rd a).extractLsb' 16 6
        sender := BitVec.ofNat 15 s.cur, ts := if timed then s.th.vtime else 0#64 }
    let sent (timed : Bool) : State :=
      let o : Outstanding := { req := .message ((s.rd a).toNat % 2 ^ 15) (m timed) none, srcs := [a, b], ga := s.rd a, qd := q }
      { s with th := { s.th with outstanding := some o, wait := some .memoryReply } }
    exec (.msend q a b) s = .next (sent false) ∧ exec (.msendt q a b) s = .next (sent true)) ∧
  (∀ (s : State) (h dst : Nat) (o : Outstanding) (m : Message) (ok : Bool),
    ((s.focus h).th.outstanding = some o) → o.req = .message dst m (some ok) → (s.focus h).th.park = none →
    (ok = true ∨ o.qd ≠ 0#3) →
    exec (.messageAnswer h) s = .next ((((s.focus h).setQ o.qd ok).finish 4 o.srcs []).focus s.cur))

/-- R347, R348, R376, R383: a message that arrives at a slot that holds a thread and has room is appended to its inbox, and channel 3
sets the thread's IPI; at any other slot it is refused; either way the sender learns which, and no other inbox changes. -/
def Sys2Proof.Claim.messageArrival : Prop :=
  ∀ (s : State) (h dst : Nat) (o : Outstanding) (m : Message),
    (s.thread h).outstanding = some o → o.req = .message dst m none →
    let d := s.forwarded dst
    ∃ t, exec (.messageArrival h) s = .next t ∧
      (t.thread h).outstanding = some { o with req := .message dst m (some (s.accepts d)) } ∧
      (t.thread d).inbox = (if s.accepts d then (s.thread d).inbox ++ [m] else (s.thread d).inbox) ∧
      (s.accepts d = true → m.ch = 3#2 → (t.thread d).thstat.getLsbD 18 = true) ∧
      (∀ x, x ≠ d → (t.thread x).inbox = (s.thread x).inbox) ∧ sameMemory s t

/-- R297, R347, R348, R376, R383: messages sent, arriving and answered. -/
def Obligations.Sends : Prop :=
  Claim.sendResults ∧ Claim.messageArrival

/-- R348: MRECV takes the message of the lowest timestamp, and among equal timestamps the earliest. -/
def Sys2Proof.Claim.messageOrder : Prop :=
  ∀ (l : List Message) (m : Message), firstMessage l = some m →
    ∃ a b, l = a ++ m :: b ∧ (∀ x ∈ a, m.ts.toNat < x.ts.toNat) ∧ (∀ x ∈ b, m.ts.toNat ≤ x.ts.toNat)

/-- R348, R349: MRECV gives payload, meta word and timestamp of the message it takes and sets q[c]; with an empty inbox it clears q[c], or
with q0 raises 5.29; MWAIT retires if the inbox holds a message and otherwise waits. -/
def Sys2Proof.Claim.receiveResults : Prop :=
  (∀ (s : State) (d a b : Reg) (c : BitVec 3) (m : Message), s.speculative = false → s.ready [] [d, a, b] = true →
    firstMessage s.th.inbox = some m →
    ∃ w : Word, w.extractLsb' 0 15 = m.sender ∧ w.extractLsb' 16 6 = m.tag ∧ w.extractLsb' 22 2 = m.ch ∧ w.getLsbD 24 = m.tsFlag ∧
      exec (.mrecv d a b c) s =
        .next ((({ s with th := { s.th with inbox := s.th.inbox.erase m } } : State).setQ c true).finish 4 []
          [(d, m.payload), (a, w), (b, m.ts)])) ∧
  (∀ (s : State) (d a b : Reg) (c : BitVec 3), s.speculative = false → s.th.inbox = [] → c ≠ 0#3 →
    exec (.mrecv d a b c) s = .next ((s.setQ c false).finish 4 [] [])) ∧
  (∀ (s : State) (d a b : Reg), s.myEntry = none → s.th.exl = false → s.th.inbox = [] →
    exec (.mrecv d a b 0#3) s =
      .next { s with th := (s.th.saveTrap false false 0 0 (5 * 64 + 29) (s.rd a) s.th.pc).enterHandler }) ∧
  (∀ (s : State), s.speculative = false → s.th.inbox ≠ [] → exec .mwait s = .next (s.finish 4 [] [])) ∧
  (∀ (s : State), s.speculative = false → s.th.inbox = [] →
    exec .mwait s = .next { s with th := { s.th with wait := some .mwait } })

/-- R348, R349: the message taken, MRECV and MWAIT. Where it goes beyond the manual's words it rests on
the model's choices of log 50. -/
def Obligations.Receives : Prop :=
  Claim.messageOrder ∧ Claim.receiveResults

/-- R350 to R352: in S or M mode MARM arms or disarms a tag of the core's wake table, RQPUT appends a handle to a level of the ready queue
that has room, and RQTAKE takes the oldest handle of the highest level that holds one out of it, with its level above it; the lowest pending
tag of that level enters the place, and the other levels stay. RQTAKE of an empty ready queue clears q[c], or with q0 raises 5.29. In U mode
all three raise 0.2. -/
def Obligations.ReadyQueueResults : Prop :=
  (∀ (s : State) (a b : Reg), s.th.privileged = true → s.ready [a, b] [] = true → s.speculative = false →
    (s.rd a).toNat < 64 → wfield (s.rd b) 62 34 = 0 →
    ∃ t : State, exec (.marm a b) s = .next (t.finish 4 [a, b] []) ∧
      assocFind (s.rd a).toNat t.myCore.wake =
        (if (s.rd b).getLsbD 63 then some ((s.rd b).truncate 32, wfield (s.rd b) 33 32, false) else none) ∧ t.th = s.th ∧ t.mem = s.mem) ∧
  (∀ (s : State) (a b : Reg) (c : BitVec 3), s.th.privileged = true → s.ready [a, b] [] = true → s.speculative = false →
    (s.rd a).toNat < 2 ^ 32 → (s.rd b).toNat < 4 →
    let lvl := get4 s.myCore.ready ((s.rd b).truncate 2)
    (lvl.length < 16 → ∃ t : State, exec (.rqput a b c) s = .next ((t.setQ c true).finish 4 [a, b] []) ∧
      get4 t.myCore.ready ((s.rd b).truncate 2) = lvl ++ [(s.rd a).truncate 32] ∧
      (∀ p : BitVec 2, p ≠ (s.rd b).truncate 2 → get4 t.myCore.ready p = get4 s.myCore.ready p) ∧ t.th = s.th ∧ t.mem = s.mem) ∧
    (16 ≤ lvl.length → c ≠ 0#3 → exec (.rqput a b c) s = .next ((s.setQ c false).finish 4 [a, b] []))) ∧
  (∀ (s : State) (d : Reg) (c : BitVec 3) (p : BitVec 2) (x : BitVec 32) (l : List (BitVec 32)), s.th.privileged = true →
    s.ready [] [d] = true → s.speculative = false → get4 s.myCore.ready p = x :: l →
    (∀ p' : BitVec 2, p < p' → get4 s.myCore.ready p' = []) →
    ∃ t : State, exec (.rqtake d c) s = .next ((t.setQ c true).finish 4 [] [(d, (0#30 ++ p ++ x : BitVec 64))]) ∧
      (∀ p' : BitVec 2, p' ≠ p → get4 t.myCore.ready p' = get4 s.myCore.ready p') ∧
      ((∀ w ∈ s.myCore.wake, ¬(w.2.2.2 = true ∧ w.2.2.1 = p.toNat)) → get4 t.myCore.ready p = l ∧ t.myCore.wake = s.myCore.wake) ∧
      (∀ tag y, (s.myCore.wake.find? fun w => w.2.2.2 && w.2.2.1 == p.toNat) = some (tag, y, p.toNat, true) →
        get4 t.myCore.ready p = l ++ [y] ∧ assocFind tag t.myCore.wake = none) ∧
      t.th = s.th ∧ t.mem = s.mem) ∧
  (∀ (s : State) (d : Reg) (c : BitVec 3), s.th.privileged = true → s.speculative = false → (∀ p : BitVec 2, get4 s.myCore.ready p = []) →
    (c ≠ 0#3 → exec (.rqtake d c) s = .next ((s.setQ c false).finish 4 [] [])) ∧
    (c = 0#3 → s.myEntry = none → s.th.exl = false → exec (.rqtake d c) s = .next (s.trapped 5 29 0#64))) ∧
  (∀ (i : Instr) (s : State), s.myEntry = none → s.th.exl = false → s.th.privileged = false →
    (∃ a b, i = .marm a b) ∨ (∃ a b c, i = .rqput a b c) ∨ (∃ d c, i = .rqtake d c) →
    exec i s = .next { s with th := (s.th.saveTrap false false 0 0 2 s.instrWord s.th.pc).enterHandler })

/-! Groups. -/

/-- R353, R453: a group instruction of a thread that is no speculative task goes to its die and takes the slot out of rotation until the
answer. -/
def Sys2Proof.Claim.groupRequests : Prop :=
  let sent (s : State) (op : GroupOp) (srcs : List Reg) (ga : Word) (qd : BitVec 3) : State :=
    let o : Outstanding := { req := .group op, srcs := srcs, ga := ga, qd := qd }
    { s with th := { s.th with outstanding := some o, wait := some .memoryReply } }
  (∀ (s : State) (d : Reg) (c : BitVec 3), s.ready [] [d] = true → s.speculative = false →
    exec (.gnew d c) s = .next (sent s (.new d) [] 0#64 c)) ∧
  (∀ (s : State) (a : Reg) (c : BitVec 3), s.ready [a] [] = true → s.speculative = false → (s.rd a).toNat < 1024 →
    exec (.gjoin a c) s = .next (sent s .join [a] (s.rd a) c) ∧
    exec (.gleave a) s = .next (sent s .leave [a] (s.rd a) 0#3) ∧
    exec (.gfree a) s = .next (sent s .free [a] (s.rd a) 0#3)) ∧
  (∀ (s : State) (d a : Reg), s.ready [a] [d] = true → s.speculative = false → (s.rd a).toNat < 1024 →
    exec (.gcount d a) s = .next (sent s (.count d) [a] (s.rd a) 0#3))

/-- R353: the answers of group instructions on a group of the thread's ASID: GNEW gives the lowest free identifier of the thread's die and
makes an empty group; GJOIN adds the thread once, up to 1,024 members; GLEAVE removes it; GCOUNT counts the members; GFREE ends
a group without members. -/
def Sys2Proof.Claim.groupAnswers : Prop :=
  ∀ (s : State) (o : Outstanding) (op : GroupOp) (g : Group), s.th.outstanding = some o → o.req = .group op → s.th.park = none →
    let u : State := { s with th := { s.th with outstanding := none, wait := none } }
    let named : Prop := o.ga.toNat < 1024 ∧ s.group o.ga.toNat = some g ∧ g.asid = wfield s.th.asid 13 0
    (∀ d i, op = .new d → lowestFree 256 ((s.die (dieOf s.cur)).groups.map (·.1)) = some i →
      let n : Group := { asid := wfield s.th.asid 13 0, members := [], arrived := [], released := [] }
      exec (.groupAnswer s.cur) s = .next (((u.setGroup (256 * dieOf s.cur + i) n).setQ o.qd true).finish 4 o.srcs
        [(d, BitVec.ofNat 64 (256 * dieOf s.cur + i))])) ∧
    (named → op = .join → g.members.length < 1024 → g.members.contains s.cur = false →
      exec (.groupAnswer s.cur) s =
        .next (((u.setGroup o.ga.toNat { g with members := g.members ++ [s.cur] }).setQ o.qd true).finish 4 o.srcs [])) ∧
    (named → op = .join → g.members.contains s.cur = true →
      exec (.groupAnswer s.cur) s = .next ((u.setQ o.qd true).finish 4 o.srcs [])) ∧
    (named → op = .leave → g.members.contains s.cur = true →
      exec (.groupAnswer s.cur) s = .next ((u.setGroup o.ga.toNat (g.remove s.cur)).finish 4 o.srcs [])) ∧
    (∀ d, named → op = .count d →
      exec (.groupAnswer s.cur) s = .next (u.finish 4 o.srcs [(d, BitVec.ofNat 64 g.members.length)])) ∧
    (named → op = .free → g.members = [] → ∃ t : State, exec (.groupAnswer s.cur) s = .next (t.finish 4 o.srcs []) ∧
      t.group o.ga.toNat = none ∧ t.th = u.th ∧ t.mem = s.mem)

/-- R353, R453: group instructions and their answers. -/
def Obligations.Groups : Prop :=
  Claim.groupRequests ∧ Claim.groupAnswers

/-- R354: a member that reaches the barrier, its stores performed, arrives and waits; the last member that arrives releases every other one
and goes on itself; a member that has been released goes on. -/
def Obligations.BarrierResults : Prop :=
  ∀ (s : State) (a : Reg) (g : Group), s.ready [a] [] = true → s.speculative = false → s.th.sb = [] → s.th.laneReq = 0 →
    (s.rd a).toNat < 1024 → s.group (s.rd a).toNat = some g → g.asid = wfield s.th.asid 13 0 → g.members.contains s.cur = true →
    (g.released.contains s.cur = false → g.arrived.contains s.cur = false → (∃ m ∈ g.members, m ≠ s.cur ∧ g.arrived.contains m = false) →
      ∃ t : State, exec (.gbar a) s = .next t ∧ t.th = { s.th with wait := some .gbar } ∧
        t.group (s.rd a).toNat = some { g with arrived := g.arrived ++ [s.cur] }) ∧
    (g.released.contains s.cur = false → g.arrived.contains s.cur = false → (∀ m ∈ g.members, m ≠ s.cur → g.arrived.contains m = true) →
      ∃ t : State, exec (.gbar a) s = .next ((t.renegotiate s.cur).finish 4 [a] []) ∧
        t.group (s.rd a).toNat = some { g with arrived := [], released := (g.released ++ g.arrived ++ [s.cur]).filter (· != s.cur) }) ∧
    (g.released.contains s.cur = true →
      ∃ t : State, exec (.gbar a) s = .next ((t.renegotiate s.cur).finish 4 [a] []) ∧
        t.group (s.rd a).toNat = some { g with released := g.released.filter (· != s.cur) })

/-! Hardware queues. -/

/-- R177 to R181: QNEW gives the identifier of a free descriptor of the consumer's die, QBIND and QUNBIND bind and unbind a register of the
right core, QCNT counts the words, and QTRY pops one without waiting, the next one where its own operand has popped that queue. -/
def Sys2Proof.Claim.queueInstructions : Prop :=
  (∀ (s : State) (d a b : Reg) (c : BitVec 3), s.ready [a, b] [d] = true → s.speculative = false →
    (s.rd a).toNat < 2304 → (s.rd b).toNat < 2304 →
    s.freeQueues ((s.rd a).toNat / 576) ((s.rd a).toNat / 576 != (s.rd b).toNat / 576) ≠ [] →
    ∃ (id : Nat) (t : State), exec (.qnew d a b c) s = .next ((t.setQ c true).finish 4 [a, b] [(d, BitVec.ofNat 64 id)]) ∧
      id / 512 = (s.rd a).toNat / 576 ∧ assocFind id s.queues = none ∧ t.th = s.th ∧ t.mem = s.mem ∧
      ∃ q, assocFind id t.queues = some q ∧ q.asid = wfield s.th.asid 13 0 ∧ q.cons = (s.rd a).toNat ∧ q.prod = (s.rd b).toNat ∧
        q.words = [] ∧ q.transit = [] ∧ q.consBound = none ∧ q.prodBound = none) ∧
  (∀ (s : State) (a b : Reg) (q : HwQueue), s.ready [a, b] [] = true → s.speculative = false → (s.rd a).toNat < 2048 →
    (s.rd b).toNat < 8 → assocFind (s.rd a).toNat s.queues = some q → q.asid = wfield s.th.asid 13 0 →
    get4 s.th.bind ((s.rd b).truncate 2) = none →
    let prod := (s.rd b).getLsbD 2
    globalCore (coreOf s.cur) = (if prod then q.prod else q.cons) → (if prod then q.prodBound else q.consBound) = none →
    let p := s.popSources [a, b]
    let r := (assocFind (s.rd a).toNat p.queues).getD q
    let q' : HwQueue := if prod then { r with prodBound := some s.cur } else { r with consBound := some s.cur }
    let th : Thread := { p.th with bind := set4 p.th.bind ((s.rd b).truncate 2) (some { queue := (s.rd a).truncate 11, producer := prod }) }
    exec (.qbind a b) s = .next (({ p with queues := assocSet (s.rd a).toNat q' p.queues, th := th } : State).finish 4 [] [])) ∧
  (∀ (s : State) (a b : Reg) (q : HwQueue), s.th.plain a = true → s.th.plain b = true → s.speculative = false →
    (s.rd a).toNat < 2048 → (s.rd b).toNat < 16 → assocFind (s.rd a).toNat s.queues = some q → q.asid = wfield s.th.asid 13 0 →
    let prod := (s.rd b).getLsbD 2
    let n : BitVec 2 := (s.rd b).truncate 2
    get4 s.th.bind n = some { queue := (s.rd a).truncate 11, producer := prod } →
    (s.rd b).getLsbD 3 = false ∨ (if prod then q.consBound else q.prodBound) = none →
    let q' : HwQueue := if prod then { q with prodBound := none } else { q with consBound := none }
    let qs := if (s.rd b).getLsbD 3 then assocErase (s.rd a).toNat s.queues else assocSet (s.rd a).toNat q' s.queues
    let th : Thread := { s.th with bind := set4 s.th.bind n none, g := regSet s.th.g (7#3 ++ n) 0#64 }
    exec (.qunbind a b) s = .next (({ s with queues := qs, th := th } : State).finish 4 [] [])) ∧
  (∀ (s : State) (d a : Reg) (q : HwQueue), s.ready [a] [d] = true → s.speculative = false → (s.rd a).toNat < 2048 →
    assocFind (s.rd a).toNat s.queues = some q → q.asid = wfield s.th.asid 13 0 →
    exec (.qcnt d a) s = .next (s.finish 4 [a] [(d, BitVec.ofNat 64 q.words.length)])) ∧
  (∀ (s : State) (d a : Reg) (c : BitVec 3) (q : HwQueue), s.ready [a] [] = true → s.ready [] [d] = true → s.speculative = false →
    (s.rd a).toNat < 2048 → assocFind (s.rd a).toNat s.queues = some q → q.asid = wfield s.th.asid 13 0 →
    globalCore (coreOf s.cur) = q.cons → q.consBound = none ∨ q.consBound = some s.cur →
    let left : List Word := ((assocFind (s.rd a).toNat (s.popSources [a]).queues).getD q).words
    (∀ w l, left = w :: l → exec (.qtry d a c) s =
      .next ((({ s with queues := assocSet (s.rd a).toNat q.pop s.queues } : State).setQ c true).finish 4 [a] [(d, w)])) ∧
    (left = [] → c ≠ 0#3 → exec (.qtry d a c) s = .next ((s.setQ c false).finish 4 [a] [])))

/-- R182: between dies a pushed word uses a credit and travels; it arrives in order; a pop starts its credit back, and the credit
returns. Words at the consumer, words on the way, credits and credits on their way back always add up as before. -/
def Sys2Proof.Claim.queueTransit : Prop :=
  (∀ (s : State) (id : Nat) (q : HwQueue) (w : Word) (l : List Word), assocFind id s.queues = some q → q.transit = w :: l →
    exec (.queuePushArrival id) s =
      .next { s with queues := assocSet id { q with words := q.words ++ [w], transit := l } s.queues }) ∧
  (∀ (s : State) (id : Nat) (q : HwQueue), assocFind id s.queues = some q → 0 < q.returning →
    exec (.queueCreditReturn id) s =
      .next { s with queues := assocSet id { q with returning := q.returning - 1, credits := q.credits + 1 } s.queues }) ∧
  (∀ (q : HwQueue) (w : Word), q.local_ = false →
    let sum (x : HwQueue) : Nat := x.words.length + x.transit.length + x.credits + x.returning
    (q.canPush = true → sum (q.push w) = sum q) ∧ (q.words ≠ [] → sum q.pop = sum q))

/-- R177 to R182: queue instructions and words between dies. Where it goes beyond the manual's words it rests on
the model's choices of log 4. -/
def Obligations.HardwareQueues : Prop :=
  Claim.queueInstructions ∧ Claim.queueTransit

/-! Control registers, traps and returns. -/

/-- R385, R386: TRAP and BRKPT of a thread with EXL = 0 that is no ordered task take exceptions 0.8 and 0.9. EPC is the address after TRAP,
or of BRKPT; TVAL is g[a], or 0; CAUSE is the code; the old mode and enable are saved, IE is 0, EXL is 1, the mode is S, or M where it was
M; the handler's address is next. No general register and no byte of memory changes. -/
def Sys2Proof.Claim.trapEntry : Prop :=
  ∀ (s : State) (i : Instr) (epc tval : Word) (n : Nat), s.myEntry = none → s.th.exl = false →
    (i = .brkpt ∧ epc = s.th.pc ∧ tval = 0#64 ∧ n = 9) ∨
      (∃ a, i = .trap a ∧ s.th.plain a = true ∧ epc = s.th.pc + 4#64 ∧ tval = s.rd a ∧ n = 8) →
    ∃ t : State, exec i s = .next t ∧
      t.th.epc = epc &&& ~~~1#64 ∧ t.th.tval = tval ∧ t.th.cause = BitVec.ofNat 64 n ∧
      t.th.mode = (if s.th.mode = 3#2 then 3#2 else 1#2) ∧ t.th.exl = true ∧ t.th.ie = false ∧
      t.th.thstat.extractLsb' 10 2 = s.th.mode ∧ t.th.thstat.getLsbD 6 = s.th.ie ∧
      (∀ j, j < 5 ∨ 12 ≤ j → t.th.thstat.getLsbD j = s.th.thstat.getLsbD j) ∧
      t.th.pc = (if s.th.mode = 3#2 then 0x0000018000000100#64 else s.th.tvec) ∧
      t.th.g = s.th.g ∧ t.th.q = s.th.q ∧ { t with th := s.th } = s

/-- R385, R388, R389: a fault raised while EXL = 1, whatever it is, freezes the thread with code 7.8 instead, reported with the TVAL that stands;
EPC, CAUSE, TVAL, THSTAT, the registers and the program counter stay. So it is where a breakpoint, a TRAP, an access of an unlisted control
register, a privileged instruction in U mode, a misaligned load or store, or bytes that are no instruction raise the fault. -/
def Sys2Proof.Claim.nestedFaultFreezes : Prop :=
  let frozen (s t : State) : Prop := s.freezes { code := 7 * 64 + 8, tval := s.th.tval, violation := true } t ∧
    (t.thread s.cur).epc = s.th.epc ∧ (t.thread s.cur).tval = s.th.tval ∧ (∀ h, (t.thread h).g = (s.thread h).g)
  (∀ (s : State) (c : Cause), s.th.exl = true → c.violation = false → frozen s (s.deliver c)) ∧
  (∀ (s : State) (i : Instr), s.myEntry = none → s.th.exl = true →
    i = .brkpt ∨ (∃ a, i = .trap a ∧ s.th.plain a = true) ∨
      (∃ d a b c, (i = .crr d b c ∨ i = .crw d a b c ∨ i = .crs d a b c ∨ i = .crc d a b c) ∧ crLowest (crSelector b c) = none) ∨
      ((i = .wfi ∨ i = .tlbsync ∨ (∃ b, i = .eret b) ∨ (∃ a b, i = .tlbi a b)) ∧ s.th.privileged = false) ∨
      (∃ srcs dsts am n k a, accessRule s i = some (srcs, dsts, am, n, k, a) ∧ s.modeOk am = true ∧ s.ready srcs dsts = true ∧
        a.toNat % n ≠ 0) →
    ∃ t : State, exec i s = .next t ∧ frozen s t) ∧
  (∀ (s : State) (bs : List Byte) (e : DecodeError), s.myEntry = none → s.th.exl = true →
    s.th.storeFaults = [] → s.th.reneg = false → s.takesReport s.cur = false → s.takesInterrupt s.cur = false → s.heldCause = none →
    s.th.fetch = .bytes bs → decode bs = .error e → ∃ t : State, s.issueFocus = .next t ∧ frozen s t)

/-- R385, R386, R388: trap entry, and a fault while EXL = 1. -/
def Obligations.Exceptions : Prop :=
  Claim.trapEntry ∧ Claim.nestedFaultFreezes

/-- R386: ERET in S or M mode first refetches the window of its register under the saved mode and waits; then it transfers to the target,
with the saved mode and enable restored, EXL 0 and the saved mode 0. From S mode it raises 0.2 where the saved mode is M, and in U
mode always. -/
def Sys2Proof.Claim.eretResults : Prop :=
  (∀ (s : State) (b : BitVec 3) (cells : List Host.Cell), s.th.privileged = true → s.speculative = false →
    (s.th.thstat.extractLsb' 10 2 = 3#2 → s.th.mode = 3#2) → (get8 s.th.bt b).v = true → (get8 s.th.bt b).s = false →
    (get8 s.th.bt b).win = .ready (s.th.thstat.extractLsb' 10 2) cells →
    (s.th.refetched = some b.toNat →
      ∃ t : State, exec (.eret b) s = .next t ∧ t.th.pc = (get8 s.th.bt b).target.zeroExtend 64 ∧
        t.th.mode = s.th.thstat.extractLsb' 10 2 ∧ t.th.ie = s.th.thstat.getLsbD 6 ∧ t.th.exl = false ∧
        t.th.thstat.extractLsb' 10 2 = 0#2 ∧ (∀ j, j < 5 ∨ j = 6 ∨ 12 ≤ j → t.th.thstat.getLsbD j = s.th.thstat.getLsbD j) ∧
        t.th.g = s.th.g ∧ t.th.fbuf.cells = cells ∧ { t with th := s.th } = s) ∧
    (s.th.refetched = none → s.th.sb = [] →
      ∃ t : State, exec (.eret b) s = .next t ∧ t.th.wait = some .window ∧ t.th.pc = s.th.pc ∧ t.th.thstat = s.th.thstat ∧
        (get8 t.th.bt b).win = .inFlight (s.th.fetchId (s.th.thstat.extractLsb' 10 2)))) ∧
  (∀ (s : State) (b : BitVec 3), s.myEntry = none → s.th.exl = false →
    s.th.privileged = false ∨ (s.th.thstat.extractLsb' 10 2 = 3#2 ∧ s.th.mode ≠ 3#2) →
    exec (.eret b) s = .next { s with th := (s.th.saveTrap false false 0 0 2 s.instrWord s.th.pc).enterHandler })

/-- R386: WFI in S or M mode retires where an enabled interrupt is pending, and otherwise waits; in U mode it raises 0.2. -/
def Sys2Proof.Claim.wfiResults : Prop :=
  (∀ (s : State), s.th.privileged = true → s.speculative = false → (s.pendingInterrupt s.cur).isSome = true →
    exec .wfi s = .next (s.finish 4 [] [])) ∧
  (∀ (s : State), s.th.privileged = true → s.speculative = false → s.pendingInterrupt s.cur = none → s.th.posted = none →
    exec .wfi s = .next { s with th := { s.th with wait := some .wfi, posted := some s.th.inbox.length } }) ∧
  (∀ (s : State), s.th.privileged = false → s.myEntry = none → s.th.exl = false →
    exec .wfi s = .next { s with th := (s.th.saveTrap false false 0 0 2 s.instrWord s.th.pc).enterHandler })

/-- R386: ERET and WFI. -/
def Obligations.ReturnsAndIdling : Prop :=
  Claim.eretResults ∧ Claim.wfiResults

/-- R6, R381, R382: an access of a listed control register, from a mode that reaches it, by a thread that is no speculative task, gives g[d] the
register's value; a write then acts on the register with the value read. -/
def Sys2Proof.Claim.controlRegisterAccess : Prop :=
  (∀ (s : State) (d b c : BitVec 5) (p : Bool), crLowest (crSelector b c) = some p → (p = true → s.th.privileged = true) →
    s.ready [] [d] = true →
    exec (.crr d b c) s = .next ((s.finish 4 [] [(d, s.readCr (crSelector b c))]).afterRead (crSelector b c))) ∧
  (∀ (s : State) (d a b c : BitVec 5) (p : Bool), crLowest (crSelector b c) = some p → (p = true → s.th.privileged = true) →
    s.ready [a] [d] = true → s.speculative = false → (crSelector b c = 0x03A → s.holdsCrumb = false) →
    let t (op : CrOp) : State := ((s.finish 4 [a] [(d, s.readCr (crSelector b c))]).afterRead (crSelector b c)).crEffect
      (crSelector b c) op (s.readCr (crSelector b c)) (s.rd a)
    exec (.crw d a b c) s = .next (t .write) ∧ exec (.crs d a b c) s = .next (t .set) ∧ exec (.crc d a b c) s = .next (t .clear))

/-- R382: field by field, CRW replaces, CRS sets and CRC clears the RW bits by the bits of g[a]; a W1C bit is cleared by CRW and CRC where
g[a] has a 1, and kept by CRS; every other bit is unchanged. -/
def Sys2Proof.Claim.controlRegisterFields : Prop :=
  ∀ (rw w1c x v : Word) (op : CrOp) (i : Nat), i < 64 → rw &&& w1c = 0#64 →
    (fieldWrite rw w1c op v v x).getLsbD i =
      if rw.getLsbD i then (match op with
        | .write => x.getLsbD i
        | .set => v.getLsbD i || x.getLsbD i
        | .clear => v.getLsbD i && !x.getLsbD i)
      else if w1c.getLsbD i then (match op with
        | .set => v.getLsbD i
        | _ => v.getLsbD i && !x.getLsbD i)
      else v.getLsbD i

/-- R84, R315, R379, R382: the plain registers of a thread (TVEC, EPC, CAUSE, TVAL, TIMECMP, FRZTO, ASID, PTBASE, TTBASE) read after a write as
the fields that are not reserved were written, and reserved bits read 0; a write of TVEC prepares the trap window; no memory, no
general register and no other thread changes. Writes of TIME and LQOWN are discarded. -/
def Sys2Proof.Claim.controlRegisterReadBack : Prop :=
  (∀ (s : State) (sel : Nat) (op : CrOp) (x : Word), sel ∈ [0x001, 0x002, 0x003, 0x004, 0x005, 0x007, 0x010, 0x011, 0x012] →
    let t := s.crEffect sel op (s.readCr sel) x
    (∀ i < 64, (t.readCr sel).getLsbD i = ((crBits sel).getLsbD i && (match op with
      | .write => x.getLsbD i
      | .set => (s.readCr sel).getLsbD i || x.getLsbD i
      | .clear => (s.readCr sel).getLsbD i && !x.getLsbD i))) ∧
    t.th.g = s.th.g ∧ t.th.pc = s.th.pc ∧ { t with th := s.th } = s ∧
    (∀ sel' ∈ [0x001, 0x002, 0x003, 0x004, 0x005, 0x007, 0x010, 0x011, 0x012], sel' ≠ sel → t.readCr sel' = s.readCr sel') ∧
    (sel = 0x001 → t.th.trapWin = .inFlight (s.th.fetchId (if s.th.mode = 3#2 then 3#2 else 1#2)) ∧ t.th.trapStale = false)) ∧
  (∀ (s : State) (op : CrOp) (old x : Word), s.crEffect 0x006 op old x = s ∧ s.crEffect 0x02A op old x = s)

/-- R153, R207, R230, R283, R331, R378, R382, R383, R416: what the other registers read after a write. An RW bit has the value written, set or kept,
a W1C bit is cleared by a 1, and every other bit that the register has stays: of THSTAT but for a saved mode that is no mode, or M while the
mode is not; of FRM but for a code 5 to 7; of PERMR and PERMW but for a SCOPE of 0 or 7, each of which keeps its field; of FSTAT, RSTAT,
VSTAT, MBUDGET, CTXBASE and ERRTGT in full; and of DMONCTL, where an event that the die's monitors do not have reads 0. -/
def Sys2Proof.Claim.statusReadBack : Prop :=
  ∀ (s : State) (op : CrOp) (x : Word),
    let put (b o : Bool) : Bool := match op with
      | .write => b
      | .set => o || b
      | .clear => o && !b
    let drop (b o : Bool) : Bool := match op with
      | .set => o
      | _ => o && !b
    let after (sel : Nat) : State := s.crEffect sel op (s.readCr sel) x
    let new (sel i : Nat) : Bool := ((after sel).readCr sel).getLsbD i
    let old (sel i : Nat) : Bool := (s.readCr sel).getLsbD i
    let rw (sel i : Nat) : Prop := new sel i = put (x.getLsbD i) (old sel i)
    let w1c (sel i : Nat) : Prop := new sel i = drop (x.getLsbD i) (old sel i)
    let keeps (sel i : Nat) : Prop := new sel i = old sel i
    let asked (sel hi lo : Nat) : Nat := wfield (match op with
      | .write => x
      | .set => s.readCr sel ||| x
      | .clear => s.readCr sel &&& ~~~x) hi lo
    let field (sel hi lo : Nat) (bad : Nat → Prop) : Prop :=
      (bad (asked sel hi lo) → wfield ((after sel).readCr sel) hi lo = wfield (s.readCr sel) hi lo) ∧
      (¬bad (asked sel hi lo) → wfield ((after sel).readCr sel) hi lo = asked sel hi lo)
    (∀ i, i < 4 ∨ (5 ≤ i ∧ i < 8) → rw 0x000 i) ∧ w1c 0x000 18 ∧ keeps 0x000 8 ∧ keeps 0x000 9 ∧
    field 0x000 11 10 (fun m => m = 2 ∨ (m = 3 ∧ s.th.mode ≠ 3#2)) ∧
    rw 0x018 3 ∧ field 0x018 2 0 (fun m => 5 ≤ m) ∧
    (∀ i < 5, w1c 0x019 i) ∧ (∀ i < 4, w1c 0x01A i) ∧ keeps 0x01A 8 ∧
    (∀ i, i < 5 ∨ i = 48 ∨ i = 49 → rw 0x022 i) ∧ (∀ i, i = 5 ∨ (16 ≤ i ∧ i < 21) ∨ (32 ≤ i ∧ i < 48) → keeps 0x022 i) ∧
    (∀ sel ∈ [0x030, 0x031], (∀ i, (16 ≤ i ∧ i < 24) ∨ (31 ≤ i ∧ i < 46) → rw sel i) ∧ field sel 2 0 (fun m => m = 0 ∨ m = 7)) ∧
    (∀ i, i < 8 ∨ (48 ≤ i ∧ i < 64) → rw 0x038 i) ∧ (∀ i, 16 ≤ i ∧ i < 48 → keeps 0x038 i) ∧
    (∀ i, i = 0 ∨ (20 ≤ i ∧ i < 52) → rw 0x03B i) ∧
    (∀ i < 16, rw 0x03C i) ∧
    (∀ i, i < 8 ∨ i = 63 → rw 0x085 i) ∧
    wfield ((after 0x085).readCr 0x085) 15 8 = (if 9 ≤ asked 0x085 15 8 ∧ asked 0x085 15 8 ≤ 12 then asked 0x085 15 8 else 0) ∧
    (∀ sel ∈ [0x000, 0x018, 0x019, 0x01A, 0x022, 0x030, 0x031, 0x038, 0x03B, 0x03C, 0x085],
      (after sel).th.g = s.th.g ∧ (after sel).th.pc = s.th.pc ∧ (after sel).mem = s.mem ∧
      ∀ h, h ≠ s.cur → (after sel).thread h = s.thread h)

/-- R84, R153, R207, R230, R283, R315, R331, R378, R379, R382, R383, R416: what a write leaves, field by field. -/
def Obligations.ControlRegisterWrites : Prop :=
  Claim.controlRegisterFields ∧ Claim.controlRegisterReadBack ∧ Claim.statusReadBack

/-- R381: a selector that the tables do not list raises 0.1, and a register below its lowest mode raises 0.2; the thread takes the trap and
the register is unchanged. -/
def Sys2Proof.Claim.controlRegisterTraps : Prop :=
  ∀ (s : State) (i : Instr) (d a b c : BitVec 5), s.myEntry = none → s.th.exl = false →
    i = .crr d b c ∨ i = .crw d a b c ∨ i = .crs d a b c ∨ i = .crc d a b c →
    (crLowest (crSelector b c) = none →
      exec i s = .next { s with th := (s.th.saveTrap false false 0 0 1 s.instrWord s.th.pc).enterHandler }) ∧
    (crLowest (crSelector b c) = some true → s.th.privileged = false →
      exec i s = .next { s with th := (s.th.saveTrap false false 0 0 2 s.instrWord s.th.pc).enterHandler })

/-- R6, R381, R382: access to control registers, and accesses that trap. -/
def Obligations.ControlRegisters : Prop :=
  Claim.controlRegisterAccess ∧ Claim.controlRegisterTraps

/-- R315, R331, R382, R416: the writes of control registers as steps of their own, in S or M mode: TVEC with its window, CRUMBBASE once no entry
holds a crumb, SPILLCTL, a monitor's control register, whose monitor is emptied, and a register without behaviour of its own. -/
def Sys2Proof.Claim.controlRegisterEvents : Prop :=
  ∀ (s : State) (v : Word), s.th.privileged = true →
    (∃ t : State, exec (.tvecWrite v) s = .next t ∧ t.th.tvec = v &&& ~~~1#64 ∧
      t.th.trapWin = .inFlight (s.th.fetchId (if s.th.mode = 3#2 then 3#2 else 1#2))) ∧
    (s.holdsCrumb = false → wfield v 51 22 * 2 ^ 22 < 4 * hbmPerDie → hbmDie (wfield v 51 22 * 2 ^ 22) = dieOf s.cur →
      wfield v 51 22 * 2 ^ 22 % hbmPerDie + 2 ^ 22 ≤ hbmPerDie - s.rdcGiB * 2 ^ 30 →
      ∃ t : State, exec (.crumbbaseWrite v) s = .next t ∧ wfield t.myTile.crumbbase 51 22 = wfield v 51 22 ∧
        t.myTile.crumbbase.getLsbD 0 = v.getLsbD 0) ∧
    (∃ t : State, exec (.spillctlWrite v) s = .next t ∧ wfield t.myTile.spillctl 51 4 = wfield v 51 4 ∧
      (v.getLsbD 0 = false → t.myTile.spillctl.getLsbD 0 = false)) ∧
    (∀ i : BitVec 2, ∃ t : State, exec (.monctlWrite (0x080 + i.toNat) v) s = .next t ∧
      get4 t.myTile.monitors i = Monitor.reset ∧ (get4 t.myTile.monctl i).getLsbD 63 = v.getLsbD 63 ∧
      wfield (get4 t.myTile.monctl i) 7 0 = wfield v 7 0) ∧
    (∃ t : State, exec (.registerWrite 0x005 v) s = .next t ∧ t.th.timecmp = v) ∧
    (∃ t : State, exec (.registerWrite 0x002 v) s = .next t ∧ t.th.epc = v &&& ~~~1#64)

/-- R417: MONRD in S or M mode gives MIN, MAX, COUNT or a bin of a monitor of the thread's tile, and empties it where bit 16 asks. -/
def Sys2Proof.Claim.monitorReads : Prop :=
  ∀ (s : State) (d a : Reg) (n : BitVec 2) (item : Nat), s.th.privileged = true → s.speculative = false → s.ready [a] [d] = true →
    item < 3 ∨ (32 ≤ item ∧ item < 64) →
    let m := get4 s.myTile.monitors n
    let v : Word := if item = 0 then m.min else if item = 1 then m.max else if item = 2 then m.count
      else (m.bins.toList.getD (item - 32) 0#32).zeroExtend 64
    (s.rd a = BitVec.ofNat 64 (item * 256 + n.toNat) → exec (.monrd d a) s = .next (s.finish 4 [a] [(d, v)])) ∧
    (s.rd a = BitVec.ofNat 64 (65536 + item * 256 + n.toNat) →
      ∃ t : State, exec (.monrd d a) s = .next (t.finish 4 [a] [(d, v)]) ∧ get4 t.myTile.monitors n = Monitor.reset ∧
        t.th = s.th ∧ t.mem = s.mem)

/-- R315, R331, R382, R416, R417: register writes as steps of their own, and MONRD. Where it goes beyond the manual's words it rests on
the model's choices of log 70. -/
def Obligations.RegisterEventsAndMonitors : Prop :=
  Claim.controlRegisterEvents ∧ Claim.monitorReads

/-! Interrupts, reports and thawing. -/

/-- R383, R384, R389: an enabled pending interrupt of a thread with IE = 1 and EXL = 0 that waits for nothing is taken: error before
inter-thread before timer before message, with its code in CAUSE under bit 63; a frozen command's report is taken with bit 62, its master
and its channel. A thread in WFI looks again when its timer expires. -/
def Obligations.InterruptResults : Prop :=
  (∀ (s : State), s.takesInterrupt s.cur = true → s.th.wait = none →
    let x := s.thstat s.cur
    let on (k : Nat) : Bool := x.getLsbD k && x.getLsbD (16 + k)
    let t (n : Nat) : State := { s with th := (s.th.saveTrap true false 0 0 (7 * 64 + n) 0#64 s.th.pc).enterHandler }
    (∀ r, on 3 = true → s.errorFor s.cur = some r → exec (.interruptTake s.cur) s =
      .next { s.takeError s.cur with th := (s.th.saveTrap true false 0 0 r.code r.tval s.th.pc).enterHandler }) ∧
    (on 3 = false → on 2 = true → exec (.interruptTake s.cur) s = .next (t 3)) ∧
    (on 3 = false → on 2 = false → on 0 = true → exec (.interruptTake s.cur) s = .next (t 1)) ∧
    (on 3 = false → on 2 = false → on 0 = false → exec (.interruptTake s.cur) s = .next (t 2))) ∧
  (∀ (s : State) (h : Nat), (s.thread h).timecmp.toNat ≤ s.time → (s.thread h).wait = some .wfi →
    ∃ t : State, exec (.timerExpiry h) s = .next t ∧ t.thread h = { s.thread h with wait := none }) ∧
  (∀ (s : State) (r : AsyncReport) (rs : List AsyncReport), s.takesReport s.cur = true → s.th.reports = r :: rs →
    exec (.frozenCommandReport s.cur) s =
      .next { s with th := (({ s.th with reports := rs } : Thread).saveTrap false true r.master r.ch r.code r.addr s.th.pc).enterHandler })

/-- R390: a THAW write by a thread of the same ASID resumes a frozen thread, or with ACT = 2 ends it; where nothing of the kind is frozen RES is
1, and for a thread of another ASID 2, and nothing else changes. -/
def Sys2Proof.Claim.threadsThaw : Prop :=
  (∀ (s : State) (h : Nat), s.forwarded h = h → h ≠ s.cur → (s.thread h).frozen.isSome = true → (s.thread h).park = none →
    wfield (s.thread h).asid 13 0 = wfield s.th.asid 13 0 →
    ∃ t u : State, exec (.thawMaster 0 0 h) s = .next t ∧ (t.thread h).frozen = none ∧ (t.thread h).g = (s.thread h).g ∧
      (t.thread h).pc = (s.thread h).pc ∧ t.th.thaw = 0#64 ∧
      ((s.thread h).kind = .persistent → (s.thread h).entry = none →
        exec (.discardMaster 0 0 h) s = .next u ∧ (u.thread h).kind = .empty ∧ u.th.thaw = 0#64)) ∧
  (∀ (s : State) (kind ch h : Nat), ((s.named h).find? fun k => s.hasFrozen kind ch k) = none →
    exec (.thawMaster kind ch h) s = .next { s with th := { s.th with thaw := 0x4000000000000000#64 } } ∧
    exec (.discardMaster kind ch h) s = .next { s with th := { s.th with thaw := 0x4000000000000000#64 } }) ∧
  (∀ (s : State) (kind ch h k : Nat), ((s.named h).find? fun k => s.hasFrozen kind ch k) = some k → s.th.mode ≠ 3#2 →
    wfield (s.thread k).asid 13 0 ≠ wfield s.th.asid 13 0 →
    exec (.thawMaster kind ch h) s = .next { s with th := { s.th with thaw := 0x8000000000000000#64 } } ∧
    exec (.discardMaster kind ch h) s = .next { s with th := { s.th with thaw := 0x8000000000000000#64 } })

/-- R122, R169, R171, R234, R280, R390: a THAW write by a thread of the same ASID, or in M mode, makes a frozen transfer (KIND 1) or the earliest
frozen command of a thread (KIND 2 to 4) go on where it stands; with ACT = 2 the transfer leaves its channel, a stack command has all its
elements behind it, and a matrix or vector command leaves its queue with those of its thread behind it. RES is 0, FLT stays as it is,
and no other thread's command leaves a queue. -/
def Sys2Proof.Claim.commandsThaw : Prop :=
  ∀ (s : State) (kind ch h k : Nat), ((s.named h).find? fun k => s.hasFrozen kind ch k) = some k →
    s.th.mode = 3#2 ∨ wfield (s.thread k).asid 13 0 = wfield s.th.asid 13 0 →
    let go (n : Nat) (l : List Command) : List Command := l.map fun y => if y.seq = n then { y with frozen := none } else y
    (∀ tile t, kind = 1 → ch < 16 → s.frozenTransfer k ch = some (tile, t) →
      (∃ u : State, exec (.thawMaster kind ch h) s = .next u ∧ u.th.thaw = 0#64 ∧ u.mem = s.mem ∧ u.cores = s.cores ∧
        ((u.tile tile).chan ch).transfers =
          ((s.tile tile).chan ch).transfers.map fun y => if y.seq = t.seq then { y with frozen := none } else y) ∧
      (∃ u : State, exec (.discardMaster kind ch h) s = .next u ∧ u.th.thaw = 0#64 ∧ u.mem = s.mem ∧
        ((u.tile tile).chan ch).transfers = ((s.tile tile).chan ch).transfers.filter (fun y => y.seq != t.seq) ∧
        (u.thread k).flt 1#2 = (s.thread k).flt 1#2)) ∧
    (∀ core c, kind = 2 → s.frozenCommand (·.sq) k = some (core, c) →
      (∃ u : State, exec (.thawMaster kind ch h) s = .next u ∧ u.th.thaw = 0#64 ∧ u.mem = s.mem ∧ u.tiles = s.tiles ∧
        (u.core core).sq = go c.seq (s.core core).sq) ∧
      (∃ u : State, exec (.discardMaster kind ch h) s = .next u ∧ u.th.thaw = 0#64 ∧ u.mem = s.mem ∧
        (u.thread k).flt 0#2 = (s.thread k).flt 0#2 ∧
        (∀ y ∈ (u.core core).sq, y.seq = c.seq → y.frozen = none ∧ y.done = wfield c.gb 63 32) ∧
        ∀ y ∈ (s.core core).sq, y.seq ≠ c.seq → y ∈ (u.core core).sq)) ∧
    (∀ core c, kind = 3 → s.frozenCommand (·.mq) k = some (core, c) →
      (∃ u : State, exec (.thawMaster kind ch h) s = .next u ∧ u.th.thaw = 0#64 ∧ u.mem = s.mem ∧ u.tiles = s.tiles ∧
        (u.core core).mq = go c.seq (s.core core).mq) ∧
      ((∀ y ∈ (s.core core).mq, ∀ z ∈ (s.core core).mq, y.seq = z.seq → y = z) →
        ∃ u : State, exec (.discardMaster kind ch h) s = .next u ∧ u.th.thaw = 0#64 ∧ u.mem = s.mem ∧
          (u.thread k).flt 3#2 = (s.thread k).flt 3#2 ∧ (∀ y ∈ (u.core core).mq, y.seq ≠ c.seq) ∧
          (∀ a b y, (s.core core).mq = a ++ c :: b → y ∈ b → y.slot = c.slot → y ∉ (u.core core).mq) ∧
          ∀ y ∈ (s.core core).mq, y.slot ≠ c.slot → y ∈ (u.core core).mq)) ∧
    (∀ core c, kind = 4 → s.frozenCommand (·.vq) k = some (core, c) →
      (∃ u : State, exec (.thawMaster kind ch h) s = .next u ∧ u.th.thaw = 0#64 ∧ u.mem = s.mem ∧ u.tiles = s.tiles ∧
        (u.core core).vq = go c.seq (s.core core).vq) ∧
      ((∀ y ∈ (s.core core).vq, ∀ z ∈ (s.core core).vq, y.seq = z.seq → y = z) →
        ∃ u : State, exec (.discardMaster kind ch h) s = .next u ∧ u.th.thaw = 0#64 ∧ u.mem = s.mem ∧
          (u.thread k).flt 2#2 = (s.thread k).flt 2#2 ∧ (∀ y ∈ (u.core core).vq, ¬(y.slot = c.slot ∧ c.seq ≤ y.seq)) ∧
          ∀ y ∈ (s.core core).vq, y.slot ≠ c.slot ∨ y.seq < c.seq → y ∈ (u.core core).vq))

/-- R122, R169, R171, R234, R280, R390: writes to THAW. Where it goes beyond the manual's words it rests on
the model's choices of log 69. -/
def Obligations.ThawResults : Prop := Claim.threadsThaw ∧ Claim.commandsThaw

/-! Translation and windows. -/

/-- R98 to R101: TLBI in S or M mode, the thread's stores performed, posts its drop to every die and tile and retires. -/
def Sys2Proof.Claim.tlbiPosts : Prop :=
  (∀ (s : State) (a b : Reg), s.th.privileged = true → s.ready [a, b] [] = true → s.speculative = false → s.th.sb = [] →
    wfield (s.rd b) 18 16 ≤ 3 →
    let d : Drop := { id := s.fresh, kind := wfield (s.rd b) 18 16, asid := wfield (s.rd b) 13 0, page := wfield (s.rd a) 55 16
                      targets := tlbiTargets, applied := [], last := 0 }
    let th : Thread := { s.th with tlbis := s.th.tlbis ++ [s.fresh] }
    exec (.tlbi a b) s = .next (({ s with drops := s.drops ++ [d], fresh := s.fresh + 1, th := th } : State).finish 4 [a, b] []))

/-- R99, R100: a drop that reaches a tile takes every selected leaf, and no other, out of its L2 TLB and out of the TLBs of its cores; one that
reaches a die takes the entries of the ASIDs it names, and no other, out of the walk cache, and no walk in flight there installs anything;
the caches of every other tile and core stay. -/
def Sys2Proof.Claim.tlbiDrops : Prop :=
  (∀ (s : State) (i t : Nat) (d : Drop), s.nextTarget i false = some (d, t) → t < 512 →
    ∃ u : State, exec (.tlbiDrop i) s = .next u ∧ (∀ e, e ∈ (u.tile t).l2tlb ↔ e ∈ (s.tile t).l2tlb ∧ d.selects e = false) ∧
      (∀ c, c / 8 = t → ∀ e, (e ∈ (u.core c).itlb ↔ e ∈ (s.core c).itlb ∧ d.selects e = false) ∧
        (e ∈ (u.core c).dtlb ↔ e ∈ (s.core c).dtlb ∧ d.selects e = false)) ∧
      (∀ x, x ≠ t → u.tile x = s.tile x) ∧ (∀ c, c / 8 ≠ t → u.core c = s.core c) ∧ u.dies = s.dies ∧ u.th = s.th ∧ u.mem = s.mem) ∧
  (∀ (s : State) (i die : Nat) (d : Drop), s.nextTarget i false = some (d, 512 + die) →
    let named (asid : Nat) : Prop := d.kind = 1 ∨ d.kind = 3 ∨ d.asid = asid
    ∃ u : State, exec (.tlbiDrop i) s = .next u ∧
      (∀ e, e ∈ (u.die die).wcache ↔ e ∈ (s.die die).wcache ∧ ¬named e.asid) ∧
      (∀ w ∈ (u.die die).walks, w.stage ≠ .waiting → w.dropped = true) ∧
      (∀ w ∈ (s.die die).walks, w.stage = .waiting → w ∈ (u.die die).walks) ∧
      u.tiles = s.tiles ∧ u.cores = s.cores ∧ u.th = s.th ∧ u.mem = s.mem)

/-- R100, R101: TLBSYNC of a thread without drops retires; with a drop that some target has not acknowledged it waits. Once every target has, no
walk that a drop found in flight is left and no thread has a store or an atomic under way, it retires, with every window of every
thread of a named ASID stale, and those of every other thread as they were. -/
def Sys2Proof.Claim.tlbsyncResults : Prop :=
  (∀ (s : State), s.th.privileged = true → s.speculative = false → s.th.tlbis = [] →
    exec .tlbsync s = .next (s.forgetDrops.finish 4 [] [])) ∧
  (∀ (s : State) (d : Drop), s.th.privileged = true → s.speculative = false → d ∈ s.drops → d.id ∈ s.th.tlbis → d.targets ≠ [] →
    exec .tlbsync s = .next { s with th := { s.th with wait := some .tlbsync } }) ∧
  (∀ (s : State), s.th.privileged = true → s.speculative = false → (∀ d ∈ s.drops, d.id ∈ s.th.tlbis → d.targets = []) →
    (∀ x ∈ s.dies, ∀ w ∈ x.2.walks, w.dropped = false) →
    (∀ x ∈ (s.cur, s.th) :: s.threads, x.2.sb = [] ∧ x.2.atomicSent = false) →
    let named (h : Nat) : Prop := ∃ d ∈ s.drops, d.id ∈ s.th.tlbis ∧ (d.kind = 1 ∨ d.kind = 3 ∨ d.asid = wfield (s.thread h).asid 13 0)
    ∃ u : State, exec .tlbsync s = .next (u.finish 4 [] []) ∧ u.th.tlbis = [] ∧ u.mem = s.mem ∧ u.th.g = s.th.g ∧ u.th.pc = s.th.pc ∧
      ∀ h, (h = s.cur ∨ ∃ x ∈ s.threads, x.1 = h) →
        (named h → (∀ b, (get8 (u.thread h).bt b).v = true → (get8 (u.thread h).bt b).s = true) ∧
          (∀ n, (get2 (u.thread h).loops n).stale = true) ∧ (u.thread h).trapStale = true) ∧
        (¬named h → (u.thread h).bt = (s.thread h).bt ∧ (u.thread h).loops = (s.thread h).loops ∧
          (u.thread h).trapStale = (s.thread h).trapStale))

/-- R98 to R101: TLBI, its drops and TLBSYNC. Where it goes beyond the manual's words it rests on
the model's choices of log 66. -/
def Obligations.TlbiResults : Prop := Claim.tlbiPosts ∧ Claim.tlbiDrops ∧ Claim.tlbsyncResults

/-- R86 to R88: the walk reads, from the root that PTBASE names or from a node that the walk cache holds, the entry that its index of each
level names. The first check of R88 that fails ends it with its fault, TVAL the address; an entry that passes them all and has R, W or X
is the leaf, which gives its frame with the offset in a page of its level; any other is followed to the node of NEXT, one level lower. -/
def Sys2Proof.Claim.walkItself : Prop :=
  (∀ (s : State) (die : Nat) (m : BitVec 2) (asid va : Nat) (pt : Word), (s.walk die m asid va pt true).result =
    (s.walkFrom m asid va 3 (wfield pt 51 13 * 8192)).result) ∧
  (∀ (s : State) (m : BitVec 2) (asid va level node : Nat), level ≤ 3 →
    let pa := node + 8 * (va / 2 ^ (16 + 10 * level) % 1024)
    let e := s.word pa
    let r := (s.walkFrom m asid va level node).result
    let fails (cause : Nat) : Prop := r = .error { code := 64 + cause, tval := BitVec.ofNat 64 va, violation := false }
    let leaf : Bool := e.getLsbD 1 || e.getLsbD 2 || e.getLsbD 3
    let formed : Prop := wfield e 59 52 = 0 ∧ (leaf = false → wfield e 12 1 = 0 ∧ level ≠ 0) ∧ (leaf = true → wfield e 15 10 = 0 ∧ level ≠ 3 ∧
      (e.getLsbD 2 = true → e.getLsbD 1 = true) ∧ (level = 1 → wfield e 25 16 = 0) ∧ (level = 2 → wfield e 35 16 = 0))
    s.mapped pa = true → inRom pa = false →
    (e.getLsbD 0 = false → fails 4) ∧
    (e.getLsbD 0 = true → ¬formed → fails 5) ∧
    (e.getLsbD 0 = true → formed → s.poisoned pa 8 = true → fails 6) ∧
    (e.getLsbD 0 = true → formed → s.poisoned pa 8 = false → leaf = true →
      ∃ x : TlbEntry, r = .ok x ∧ x.asid = asid ∧ x.level = level ∧ x.leaf = e ∧ x.leafPa = pa ∧
        x.pa va = wfield e 51 16 * 65536 + va % 2 ^ (16 + 10 * level)) ∧
    (∀ l, level = l + 1 → e.getLsbD 0 = true → formed → s.poisoned pa 8 = false → leaf = false →
      r = (s.walkFrom m asid va l (wfield e 51 13 * 8192)).result)) ∧
  (∀ (s : State) (m : BitVec 2) (asid va level node : Nat), s.mapped (node + 8 * (va / 2 ^ (16 + 10 * level) % 1024)) = false →
    (s.walkFrom m asid va level node).result = .error { code := 64 + 7, tval := BitVec.ofNat 64 va, violation := false })

/-- R93 to R96: a waiting walk request joins a walk of its page that is in flight, and where none can, the oldest starts where fewer than
128 are in flight; a walk that ends with a leaf whose A is set is installed for every requester; one that fails gives its fault to every
requester; a leaf that needs A or D is updated atomically, or the walk restarts from the root where the entry has changed. -/
def Sys2Proof.Claim.walkEvents : Prop :=
  (∀ (s : State) (die i j : Nat) (w : Walk),
    (s.die die).oldest (fun w => !w.live && ((s.die die).liveMatch w).isSome) = some (i, w) → (s.die die).liveMatch w = some j →
    let join (x : Walk) : Walk :=
      { x with requesters := x.requesters ++ w.requesters.filter fun h => !x.requesters.contains h, dirty := x.dirty || w.dirty }
    exec (.walkRequest die) s =
      .next (s.setDie die { s.die die with walks := ((s.die die).walks.modify j join).eraseIdx i })) ∧
  (∀ (s : State) (die i : Nat) (w : Walk),
    (s.die die).oldest (fun w => !w.live && ((s.die die).liveMatch w).isSome) = none →
    (s.die die).oldest (fun w => !w.live) = some (i, w) → ((s.die die).walks.filter Walk.live).length < 128 →
    let walks := (s.die die).walks.modify i fun x => { x with stage := .walking }
    exec (.walkRequest die) s = .next (s.setDie die { s.die die with walks := walks })) ∧
  (∀ (s : State) (die i : Nat) (w : Walk) (e : TlbEntry), (s.die die).oldest (fun w => w.stage == .walking) = some (i, w) →
    w.dropped = false → w.dirty = false → e.leaf.getLsbD 6 = true →
    let r := s.walk die w.mode w.asid (w.page * 65536) w.ptbase w.fromRoot
    r.result = .ok e → (s.walkMayRead r.reads none).2 = true → exec (.walkResult die) s = .next ((s.installNodes die r.nodes).deliverLeaf die i w e)) ∧
  (∀ (s : State) (die i : Nat) (w : Walk) (c : Cause), (s.die die).oldest (fun w => w.stage == .walking) = some (i, w) →
    w.dropped = false → w.requesters = [.slot s.cur false] → s.th.walkFail = [] →
    let r := s.walk die w.mode w.asid (w.page * 65536) w.ptbase w.fromRoot
    r.result = .error c → (s.walkMayRead r.reads none).2 = true →
    ∃ t : State, exec (.walkResult die) s = .next t ∧ t.th = { s.th with walkFail := [(w.page, c)] } ∧
      (t.die die).walks = (s.die die).walks.eraseIdx i ∧ t.mem = s.mem) ∧
  (∀ (s : State) (die i : Nat) (w : Walk) (e : TlbEntry),
    (s.die die).oldest (fun w => match w.stage with | .setting _ => true | _ => false) = some (i, w) → w.stage = .setting e →
    w.dropped = false → (s.walkMayRead [] (some e.leafPa)).2 = true → s.mapped e.leafPa = true → inRom e.leafPa = false →
    s.poisoned e.leafPa 8 = false →
    (∀ u e', s.setAD e (w.dirty && e.leaf.getLsbD 2) = some (u, e') → exec (.adUpdate die) s = .next (u.deliverLeaf die i w e')) ∧
    (s.setAD e (w.dirty && e.leaf.getLsbD 2) = none →
      let walks := (s.die die).walks.modify i fun x => { x with stage := .walking, fromRoot := true }
      exec (.adUpdate die) s = .next (s.setDie die { s.die die with walks := walks })))

/-- R86 to R88, R93 to R96: the walk, and the events of the walk units. Where it goes
beyond the manual's words it rests on the model's choices of logs 13, 86 and 90. -/
def Obligations.WalkResults : Prop := Claim.walkItself ∧ Claim.walkEvents

/-- R306, R309, R313, R315: a window in flight becomes READY with the 64 bytes of its address, or holds the failure of their fetch; a thread that
enters through it goes on; instruction bytes arrive after those the fetch buffer holds. Where it goes beyond the manual's words it rests on
the model's choices of logs 18, 19 and 101. -/
def Obligations.WindowResults : Prop :=
  (∀ (s u : State) (win a : Nat) (id : FetchId) (m : BitVec 2) (cells : List Host.Cell), s.th.windowAt win = (a, .inFlight id) →
    s.fetchWindow s.cur win a id = (u, some (.ready m cells)) → u.cur = s.cur →
    let t := u.th.setWindow win (.ready m cells)
    let buf : FetchBuffer := { base := a, cells := cells, fail := none }
    let t' : Thread := if t.entering = some win then { t with entering := none, wait := none, fbuf := buf } else t
    exec (.windowArrival s.cur win) s = .next { u with th := t' }) ∧
  (∀ (s u : State) (win a : Nat) (id : FetchId) (m : BitVec 2) (c : Cause), s.th.windowAt win = (a, .inFlight id) →
    s.fetchWindow s.cur win a id = (u, some (.failed m c)) → u.cur = s.cur → u.th = s.th → s.th.entering ≠ some win →
    exec (.windowFetchFailure s.cur win) s = .next { u with th := s.th.setWindow win (.failed m c) }) ∧
  (∀ (s u : State) (cells : List Host.Cell) (f : Option Cause), s.th.kind ≠ .empty → s.th.entering = none →
    s.th.fbuf.failure s.th.pc.toNat = none → s.fetchBytes s.cur (.fetch s.cur 11) (s.fetchIssuer s.cur s.th.mode) (s.th.pc.toNat + (s.th.fbuf.from_ s.th.pc.toNat).length)
      (64 - (s.th.pc.toNat + (s.th.fbuf.from_ s.th.pc.toNat).length) % 64) = (u, .got cells f) → u.cur = s.cur →
    let buf : FetchBuffer := { base := s.th.pc.toNat, cells := s.th.fbuf.from_ s.th.pc.toNat ++ cells, fail := f }
    exec (.fetchBufferArrival s.cur) s = .next { u with th := { u.th with fbuf := buf, wait := none } })

/-! Tasks. -/

/-- R297, R327 to R329: a spawn by a persistent thread whose slot has an owner, with no store waiting, makes a task with the given function,
timestamp, hint and arguments, sends it to the tile that its form names, and takes the slot out of rotation until the answer. -/
def Obligations.SpawnResults : Prop :=
  let task (s : State) (ordered : Bool) (func ts g8 : Word) (hint : Option (BitVec 32)) (queue : Nat) : Task :=
    { uid := s.fresh, ordered := ordered, func := func, ts := ts, tiebreak := none, hint := hint, g8 := g8
      args := #v[regGet s.th.g 4#5, regGet s.th.g 5#5, regGet s.th.g 6#5, regGet s.th.g 7#5], dom := wfield s.th.tdomain 3 0
      domEn := s.th.tdomain.getLsbD 4, queue := queue, prio := s.th.prio, launch := none, parent := s.th.task.map (·.uid), arrival := 0 }
  let sent (s : State) (tile : Nat) (t : Task) (srcs : List Reg) (func : Word) (q : BitVec 3) : State :=
    let o : Outstanding := { req := .spawn tile t none, srcs := srcs, ga := func, qd := q }
    { s with fresh := s.fresh + 1, th := { s.th with outstanding := some o, wait := some .memoryReply } }
  ∀ (s : State) (q : BitVec 3) (a b c : Reg), s.myEntry = none → s.th.sb = [] → s.th.lqV = true → s.ready [a, b, c] [] = true →
    (s.rd a).getLsbD 0 = false → (s.rd a).toNat < 2 ^ 56 →
    (∀ l, s.th.tdomain.getLsbD 4 = true → (s.domain (wfield s.th.tdomain 3 0)).active = true →
      s.lqueue (s.domain (wfield s.th.tdomain 3 0)).queue = some l → l.asid = wfield s.th.asid 13 0 →
      (s.domain (wfield s.th.tdomain 3 0)).gvt.1.toNat ≤ (s.rd b).toNat → s.rd b ≠ BitVec.allOnes 64 →
      let own := (s.domain (wfield s.th.tdomain 3 0)).queue
      ((s.rd c).toNat < 2 ^ 32 → exec (.tspawn q a b c) s = .next (sent s (hashTile (s.tileSet own) (s.rd c).toNat)
        (task s true (s.rd a) (s.rd b) (s.rd c) (some ((s.rd c).truncate 32)) own) [a, b, c] (s.rd a) q)) ∧
      exec (.tspawnn q a b) s = .next (sent s (s.leastLoaded (s.tileSet own) (some (tileOf s.cur)))
        (task s true (s.rd a) (s.rd b) (BitVec.allOnes 64) none own) [a, b] (s.rd a) q)) ∧
    ((s.rd b).toNat < 2 ^ 32 → exec (.tspawnu q a b) s = .next (sent s (hashTile (s.tileSet s.th.lqQueue.toNat) (s.rd b).toNat)
      (task s false (s.rd a) (BitVec.allOnes 64) (s.rd b) (some ((s.rd b).truncate 32)) s.th.lqQueue.toNat) [a, b] (s.rd a) q)) ∧
    (s.rd b = BitVec.allOnes 64 → exec (.tspawnu q a b) s = .next (sent s
      (s.leastLoaded (s.tileSet s.th.lqQueue.toNat) (some (tileOf s.cur)))
      (task s false (s.rd a) (BitVec.allOnes 64) (BitVec.allOnes 64) none s.th.lqQueue.toNat) [a, b] (s.rd a) q)) ∧
    (∀ (u : State) (l : Loc), locateMode (s.rd b) 0#2 1 .load s = .ok (l, u) → u.th = s.th → u.fresh = s.fresh → u.myEntry = none →
      u.mapCheck l.pa u.th.mode .load (s.rd b) = none → inHbm l.pa = true →
      exec (.callat q a b) s = .next (sent u (homeTile l.pa)
        (task s false (s.rd a) (BitVec.allOnes 64) (s.rd b) none s.th.lqQueue.toNat) [a, b] (s.rd a) q))

/-- R328, R330: a spawn that reaches a running tile is queued there while the queue has room, and an unordered one is refused where 256 wait;
the answer sets or clears the condition register. Below 512 untaken tasks a spilled task returns. -/
def Sys2Proof.Claim.taskQueues : Prop :=
  (∀ (s : State) (tile : Nat) (o : Outstanding) (t : Task), s.th.outstanding = some o → o.req = .spawn tile t none →
    s.tileStopped tile = false →
    (t.ordered = true ∨ (s.tile tile).unorderedCount < 256 → (s.tile tile).tasks.length < 1024 →
      ∃ u : State, exec (.spawnArrival s.cur) s = .next u ∧
        u.th.outstanding = some { o with req := .spawn tile t (some .taken) } ∧
        (u.tile tile).tasks = (s.tile tile).tasks ++ [{ t with arrival := s.fresh }] ∧ u.mem = s.mem) ∧
    (t.ordered = false → 256 ≤ (s.tile tile).unorderedCount →
      exec (.spawnArrival s.cur) s =
        .next { s with th := { s.th with outstanding := some { o with req := .spawn tile t (some .refused) } } })) ∧
  (∀ (s : State) (tile : Nat) (o : Outstanding) (t : Task), s.th.outstanding = some o → s.th.park = none →
    (o.req = .spawn tile t (some .taken) → exec (.spawnAnswer s.cur) s = .next ((s.setQ o.qd true).finish 4 o.srcs [])) ∧
    (o.req = .spawn tile t (some .refused) → o.qd ≠ 0#3 →
      exec (.spawnAnswer s.cur) s = .next ((s.setQ o.qd false).finish 4 o.srcs []))) ∧
  (∀ (s : State) (tile i : Nat) (area : Word) (t : Task), (s.tile tile).tasks.length < 512 → (s.tile tile).spilled = [(area, i, t)] →
    s.bytes (spillPa area i) 64 = leBytes 64 (Config.spillRecord t.uid).toNat →
    ∃ u : State, exec (.taskReload tile) s = .next u ∧ (u.tile tile).tasks = (s.tile tile).tasks ++ [t] ∧ (u.tile tile).spilled = [] ∧
      u.mem = s.mem)

/-- R34, R332: a free slot with an owner takes the next task that its owner admits: it starts at the task's function with the task's arguments in
g4 to g8 and its timestamp in VTIME, and the task leaves the queue. TDONE of a thread with nothing pending ends its work. -/
def Sys2Proof.Claim.taskSlots : Prop :=
  (∀ (s : State) (h : Nat) (t : Task), slotOk h = true → (s.thread h).lqV = true → s.slotFree h = true →
    s.nextTask (tileOf h) (s.thread h).lqQueue.toNat = some t →
    ∃ u : State, exec (.taskDispatch h) s = .next u ∧ (u.thread h).pc = t.func ∧ (u.thread h).vtime = t.ts ∧
      (u.thread h).kind = (if t.ordered then .ordered else .unordered) ∧
      regGet (u.thread h).g 4#5 = t.args[0] ∧ regGet (u.thread h).g 5#5 = t.args[1] ∧ regGet (u.thread h).g 6#5 = t.args[2] ∧
      regGet (u.thread h).g 7#5 = t.args[3] ∧ regGet (u.thread h).g 8#5 = t.g8 ∧
      ((u.tile (tileOf h)).tasks.all fun x => x.uid != t.uid) = true ∧ u.mem = s.mem) ∧
  (∀ (s : State), [0#2, 1#2, 2#2, 3#2].all (fun u => s.th.pend u == 0) = true → s.th.sb = [] → s.th.lqV = true →
    (s.tile (tileOf s.cur)).waiting = [] →
    ∃ u : State, exec .tdone s = .next u ∧ u.th.kind = .empty ∧ u.th.g = Vector.replicate 32 0#64 ∧ u.mem = s.mem) ∧
  (∀ (s : State) (d : BitVec 4), s.ready [] [d ++ 0#1, d ++ 1#1] = true →
    exec (.tts d) s = .next (s.finish 4 [] [(d ++ 0#1, s.th.vtime), (d ++ 1#1, match s.th.task with
      | some t => if t.ordered then t.tiebreak.getD 0#64 else 0#64
      | none => 0#64)])) ∧
  (∀ (s : State) (d : BitVec 4) (a : Reg), s.ready [a] [d ++ 0#1, d ++ 1#1] = true → (s.rd a).toNat < 16 →
    exec (.tgvt d a) s = .next (s.finish 4 [a] [(d ++ 0#1, (s.domain (s.rd a).toNat).gvt.1), (d ++ 1#1, (s.domain (s.rd a).toNat).gvt.2)])) ∧
  (∀ (s : State) (d a : Reg), s.ready [a] [d] = true → s.speculative = false → (s.rd a).toNat < 16 →
    exec (.tidleq d a) s = .next (s.finish 4 [a] [(d, if (s.domain (s.rd a).toNat).quiescent && s.idleNow (s.rd a).toNat then 1#64 else 0#64)]))

/-- R325, R337, R341, R343, R344, R373: a sample notes the lowest key of every domain that is active or holds a task, and publishing makes it
the domain's GVT, a domain without any being active no more; an abort restores its latest crumb, or without crumbs frees its entry; a domain stops 2^48 clk after its start; the idle tree declares quiescence
after two idle samples. -/
def Sys2Proof.Claim.domainEvents : Prop :=
  (∀ (s : State), ∃ u : State, exec .virtualTimeSample s = .next u ∧ u.mem = s.mem ∧ u.th = s.th ∧
    ∀ d < 16, (s.domain d).active = true ∨ s.lowestKey d ≠ (allOnes, allOnes) → (u.domain d).sampled = some (s.lowestKey d)) ∧
  (∀ (s : State), ∃ u : State, exec .gvtPublish s = .next u ∧ u.mem = s.mem ∧
    ∀ d < 16, ∀ g, (s.domain d).sampled = some g →
      (u.domain d).gvt = g ∧ (u.domain d).sampled = none ∧
      (u.domain d).active = ((s.domain d).active && g != (allOnes, allOnes))) ∧
  (∀ (s : State) (tile e : Nat) (x : CommitEntry), s.entry tile e = some x → x.stage = .aborting → x.children = [] → x.crumbs = [] →
    x.discard = true → ∃ u : State, exec (.crumbRestore tile e) s = .next u ∧ u.entry tile e = none ∧ u.mem = s.mem) ∧
  (∀ (s : State) (tile e b : Nat) (l : List Nat) (x : CommitEntry), s.entry tile e = some x → x.stage = .aborting → x.children = [] →
    x.crumbs = b :: l → leNat (s.bytes (s.crumbPa tile e l.length + 64) 8) = 64 * b → inLm (64 * b) = true → Memory.wf s = true →
    s.writeHits (.spec x.task.dom x.task.key tile e) (coreOf x.slot) (64 * b) 64 = [] → s.poisonNarrow (64 * b) 64 = false →
    ∃ u : State, exec (.crumbRestore tile e) s = .next u ∧ u.entry tile e = some { x with crumbs := l } ∧
      u.bytes (64 * b) 64 = s.bytes (s.crumbPa tile e l.length) 64 ∧ sameMemoryBut (64 * b) 64 s u) ∧
  (∀ (s : State) (d : Nat), (s.domain d).active = true → (s.domain d).stopped = false → (s.domain d).start + 2 ^ 48 ≤ s.time →
    ∃ u : State, exec (.domainAgeExpiry d) s = .next u ∧ (u.domain d).stopped = true ∧ u.mem = s.mem) ∧
  (∀ (s : State), ∃ u : State, exec .idleTreeSample s = .next u ∧ u.mem = s.mem ∧ u.th = s.th ∧
    ∀ d < 16, (u.domain d).idle = s.idleNow d ∧ (u.domain d).quiescent = ((s.domain d).idle && s.idleNow d))

/-- R34, R325 to R345, R373, R374: the task queues, the slots that run tasks, and the events of domains. Where it goes beyond the manual's words it rests on
the model's choices of logs 29, 56, 84 and 87. -/
def Obligations.TaskResults : Prop := Claim.taskQueues ∧ Claim.taskSlots ∧ Claim.domainEvents

/-! Launches. -/

/-- R355 to R366: LNCH of a descriptor that passes the checks is accepted while its queue holds fewer than 16 launches; the answer sets the
condition register; expansion makes the next piece, a record is read as 16 bytes, a held persistent piece starts on a free slot, its
image is copied, and a launch whose pieces have all ended is forgotten with its completion word, 8 bytes, raised by 1, or by 2^63 + 1 where
a piece failed. Where it goes beyond the manual's words it rests on
the model's choices of log 33. -/
def Obligations.LaunchResults : Prop :=
  (∀ (s u : State) (q : BitVec 3) (a b : Reg) (x : LQueue) (bs : List Byte), s.ready [a, b] [] = true → s.speculative = false →
    s.th.sb = [] → (s.rd b).toNat < 2 ^ 12 → s.lqueue (s.rd b).toNat = some x → x.asid = wfield s.th.asid 13 0 →
    readMem (s.rd a) 0#2 64 false s = .ok (bs, u) → u.th = s.th →
    u.launchCheck (s.rd b).toNat x (BitVec.ofNat 512 (leNat bs)) = none →
    let t := if x.launches.length < 16 then u.acceptLaunch (s.rd b).toNat x (BitVec.ofNat 512 (leNat bs)) else u
    let o : Outstanding := { req := .lnch (decide (x.launches.length < 16)), srcs := [a, b], ga := s.rd a, qd := q }
    exec (.lnch q a b) s = .next { t with th := { t.th with outstanding := some o, wait := some .memoryReply } }) ∧
  (∀ (s : State) (o : Outstanding) (ok : Bool), s.th.outstanding = some o → s.th.park = none → o.req = .lnch ok →
    ok = true ∨ o.qd ≠ 0#3 → exec (.lnchAnswer s.cur) s = .next ((s.setQ o.qd ok).finish 4 o.srcs [])) ∧
  (∀ (s : State) (q n : Nat) (l : Launch) (p : Nat × Nat × Nat × Nat), s.expanding q = some (n, l) → l.held = none → l.next = some p →
    (LaunchDesc.ofBits l.desc).kind = 0 →
    ∃ u : State, exec (.launchExpansion q) s = .next u ∧ u.mem = s.mem ∧
      ∃ y, assocFind n u.launches = some y ∧ y.made = l.made + 1 ∧
        y.held = some (({ s with fresh := s.fresh + 1 } : State).makePiece n l p s.fresh)) ∧
  (∀ (s u : State) (q n x : Nat) (l : Launch) (bs : List Byte), s.expanding q = some (n, l) → l.held = none → l.cur = none →
    (LaunchDesc.ofBits l.desc).mode = 2 → l.recs < (LaunchDesc.ofBits l.desc).nrec →
    (eRead (s.launchIssuer q) 0 ((LaunchDesc.ofBits l.desc).rbase + 16 * l.recs) 16 n).run' s = (u, .ok bs) → x = leNat bs →
    exec (.launchRecordRead q) s = .next (u.modLaunch n fun y => { y with
      recs := y.recs + 1, cur := if field x 95 64 = 0 then none else some (field x 31 0, field x 63 32, field x 95 64, field x 127 96) })) ∧
  (∀ (s : State) (h n : Nat) (l : Launch) (p : Piece), slotOk h = true → (s.thread h).lqV = true → s.slotFree h = true →
    s.expanding (s.thread h).lqQueue.toNat = some (n, l) → l.held = some p → p.tile = tileOf h → (LaunchDesc.ofBits l.desc).kind = 0 →
    l.starting = none → (LaunchDesc.ofBits l.desc).lmlen = 0 → (LaunchDesc.ofBits l.desc).gen = false →
    ∃ u : State, exec (.pieceStart h) s = .next u ∧ (u.thread h).kind = .persistent ∧ (u.thread h).pc = p.task.func ∧
      (u.thread h).launch = some n ∧ regGet (u.thread h).g 3#5 = BitVec.ofNat 64 (LaunchDesc.ofBits l.desc).args ∧ u.mem = s.mem) ∧
  (∀ (s u : State) (h n : Nat) (l : Launch) (p : Piece), (s.launches.find? fun l => l.2.starting == some h) = some (n, l) →
    l.held = some p →
    (seqE ((List.range ((LaunchDesc.ofBits l.desc).lmlen - l.copied / 64)).map fun i =>
      copyUnit { s.launchIssuer l.queue with core := coreOf h } n h (l.copied / 64 + i) (LaunchDesc.ofBits l.desc))).run' s = (u, .ok ()) →
    exec (.lmImageCopy h) s = .next (u.startPiece h n l p)) ∧
  (∀ (s : State) (n : Nat) (l : Launch), assocFind n s.launches = some l → l.expanded = true → l.made ≤ l.ended →
    ((LaunchDesc.ofBits l.desc).compl = 0 →
      exec (.launchCompletionUpdate n) s = .next { s with launches := assocErase n s.launches }) ∧
    (∀ u, (LaunchDesc.ofBits l.desc).compl ≠ 0 →
      (completionUpdate (s.launchIssuer l.queue) n (LaunchDesc.ofBits l.desc).compl (if l.failed then 2 ^ 63 + 1 else 1)).run' s = (u, .ok ()) →
      exec (.launchCompletionUpdate n) s = .next { u with launches := assocErase n u.launches }) ∧
    (∀ u v pa, (LaunchDesc.ofBits l.desc).compl ≠ 0 → Memory.wf v = true → v.poisoned pa 8 = false →
      (eLocate (s.launchIssuer l.queue) n 0 (LaunchDesc.ofBits l.desc).compl 8 .rmw n).run' s = (u, .ok pa) →
      (eNonSpec (.number n) pa 8 true).run' u = (v, .ok ()) →
      ∃ w : State, exec (.launchCompletionUpdate n) s = .next w ∧ w.launches = assocErase n v.launches ∧
        leNat (w.bytes pa 8) = (leNat (v.bytes pa 8) + if l.failed = true then 2 ^ 63 + 1 else 1) % 2 ^ 64 ∧ sameMemoryBut pa 8 v w))

/-! Slots and contexts. -/

/-- R284, R369, R371, R404: at a rotation boundary QSET's changes take effect and every tile's matrix budgets begin a new window, CHG0 and CHG1 clearing and nothing
else of MBUDGET; held work of a higher
priority takes the slot of work of a lower one, a halt being requested of it. -/
def Sys2Proof.Claim.scheduling : Prop :=
  (∀ (s : State), ∃ u : State, exec .rotationBoundary s = .next u ∧ u.mem = s.mem ∧ u.th.g = s.th.g ∧ u.th.pc = s.th.pc ∧
    (∀ q x w p, assocFind q s.lqueues = some x → x.pending = some (w, p) →
      assocFind q u.lqueues = some { x with weight := w, maxPrio := p, pending := none }) ∧
    (∀ k, wfield (u.tile k).mbudget 47 16 = 0 ∧ ∀ b < 64, b < 16 ∨ 48 ≤ b → (u.tile k).mbudget.getLsbD b = (s.tile k).mbudget.getLsbD b)) ∧
  (∀ (s : State) (tile prio q h : Nat) (slots : List Nat),
    (tileSlots tile).all (fun h => (s.thread h).kind == .empty || (s.thread h).halt.isNone) = true →
    s.starved tile prio = some (q, slots) → s.preemptVictim tile prio slots = some h → (s.thread h).entry = none →
    exec (.preemptionRequest tile prio) s = .next (s.modThread h fun t => { t with halt := some q }))

/-- R370, R391 to R395: a slot whose halt is requested is captured into a free frame of its tile, and the slot passes to the queue that asked; a
saved context that the scheduler keeps resumes on a free slot of its core; a migrating context arrives at a slot of its tile; an answer
enters a saved context. -/
def Sys2Proof.Claim.contextEvents : Prop :=
  (∀ (s : State) (h q : Nat), (s.thread h).halt = some q →
    (s.thread h).kind ≠ .empty → (s.thread h).park = none → (s.freeFrames (tileOf h)) ≠ [] →
    ∃ (i : Nat) (u : State), i < (s.freeFrames (tileOf h)).length ∧ exec (.slotHalt h) s =
      .next (((u.saveContext h ((s.freeFrames (tileOf h)).getD i 0) none true false).modThread h
        fun t => { t.passTo q with halt := some q }).rebalance (tileOf h) false) ∧
      u = { s with free := s.free + 1 }) ∧
  (∀ (s : State) (k h : Nat) (p : Park), (s.thread k).park = some p → p.sched = true → p.image.isSome = true →
    (s.thread k).resumable = true → s.resumeSlot (k % 32768) (s.thread k).lqQueue.toNat = some h →
    exec (.contextResume k) s = .next (s.resume k h)) ∧
  (∀ (s : State) (old tile key h : Nat) (l : List Nat), assocFind old s.migrating = some (tile, key) →
    let r := s.rebalance tile false
    (r.thread key).resumable = true → r.admitting (tileSlots tile) (r.thread key).lqQueue.toNat = h :: l →
    exec (.migrationArrival old) s = .next { r.resume key h with migrating := assocErase old r.migrating }) ∧
  (∀ (s : State) (h : Nat) (o : Outstanding) (dst : Nat) (m : Message) (ok : Bool), (s.thread h).park.isSome = true →
    (s.thread h).outstanding = some o → o.req = .message dst m (some ok) → ok = true ∨ o.qd ≠ 0#3 →
    exec (.answerWrite h) s = .next ((((s.focus h).setQ o.qd ok).finish 4 o.srcs []).focus s.cur))

/-- R33, R392, R393: in S or M mode CTXPARK saves the thread in the image its operand names, to resume at g[b]; CTXLOAD of a well-formed image
of a saved context resumes it on a slot and sets q[d]; in U mode both raise 0.2. -/
def Sys2Proof.Claim.contextInstructions : Prop :=
  (∀ (s u : State) (a b : Reg) (p : Nat × Option Nat), s.th.privileged = true → s.th.plain a = true → s.th.plain b = true →
    s.speculative = false → imagePlace (s.rd a) .store s = .ok (p, u) → u.rd b = s.rd b → u.th = s.th →
    let th : Thread := { u.th.settle with pc := s.rd b &&& ~~~1#64, thstat := if u.th.exl then thstatReturn u.th.thstat else u.th.thstat }
    exec (.ctxpark a b) s = .next (({ u with th := th } : State).saveContext u.cur p.1 p.2 false false)) ∧
  (∀ (s u : State) (q : BitVec 3) (a : Reg) (p : Nat × Option Nat) (k h : Nat), s.th.privileged = true → s.ready [a] [] = true →
    s.speculative = false → imagePlace (s.rd a) .rmw s = .ok (p, u) → u.cur = s.cur →
    let place : Park := { image := some p.1, cluster := p.2, sched := false, rsn := .atPc, ans := 0, sbcnt := 0, wait := none, yielded := false }
    let ws := u.readImage place
    u.imagePoison place = none → imageForm (coreOf s.cur) ws = true → wfield (ws.getD 48 0#64) 9 8 ≤ u.th.mode.toNat →
    (u.saved.find? fun k => (u.thread k).park.any fun x => x.image == some p.1 && x.cluster == p.2) = some k →
    (ws.getD savestIndex 0#64).getLsbD 60 = true → (ws.getD savestIndex 0#64).getLsbD 59 = true → (u.thread k).resumable = true →
    u.th.lqV = true → u.resumeSlot (wfield (ws.getD savestIndex 0#64) 30 16) u.th.lqQueue.toNat = some h →
    exec (.ctxload q a) s = .next (((u.resume k h).setQ q true).finish 4 [a] [])) ∧
  (∀ (s : State) (q : BitVec 3) (a b : Reg), s.myEntry = none → s.th.exl = false → s.th.privileged = false →
    let t : State := { s with th := (s.th.saveTrap false false 0 0 2 s.instrWord s.th.pc).enterHandler }
    exec (.ctxpark a b) s = .next t ∧ exec (.ctxload q a) s = .next t)

/-- R284, R369 to R371, R375, R391 to R395: slots, halts, saved contexts and their resumption. Where it goes beyond the manual's words it rests on
the model's choices of logs 4, 27, 30 and 96. -/
def Obligations.ContextResults : Prop := Claim.scheduling ∧ Claim.contextEvents ∧ Claim.contextInstructions

/-! The vector lane pool. -/

/-- R26, R231, R233, R237 to R251, R254: an instruction of the lane pool whose operands pass the checks is taken as a command with its
captured values, PEND rises by 1, and the instruction ends; VLDT and VSTT take the resolved entry with them. -/
def Sys2Proof.Claim.vectorAcceptance : Prop :=
  (∀ (i : Instr) (s : State) (len : Nat) (gs vs ds : List Reg),
    vectorForm i = some (len, gs, vs, ds) → s.vectorOk i = true → s.poolReady (vs ++ ds) = true → s.ready gs [] = true →
    exec i s = .next ((s.pooled i (s.checkValue gs) (s.checkValue (gs.drop 1)) []).finish len gs [])) ∧
  (∀ (s : State) (d a : Reg) (k : BitVec 3) (w : BitVec 2) (e : BitVec 512),
    s.poolReady [d] = true → s.ready [a] [] = true → s.resolved (wfield (s.rd a) 11 0) e → wfield (s.rd a) 63 52 = 0 →
    (Tensor.ofEntry e).w = 8 * 2 ^ w.toNat → (Tensor.ofEntry e).format ≠ 14 → sxbOf (Tensor.ofEntry e).format = none →
    exec (.vldt d a k w) s = .next ((s.pooled (.vldt d a k w) (s.rd a) 0#64 [e]).finish 4 [a] []) ∧
    ((Tensor.ofEntry e).wprot = false →
      exec (.vstt d a k w) s = .next ((s.pooled (.vstt d a k w) (s.rd a) 0#64 [e]).finish 4 [a] [])))

/-- R233: without a grant NOCLAIM 2.20 is raised, with TVAL the first general register; a held fault is delivered before it, with its cause
and address, and FLT clears; in U mode a base with tag .p raises 0.2. -/
def Sys2Proof.Claim.vectorTraps : Prop :=
  (∀ (i : Instr) (s : State) (len : Nat) (gs vs ds : List Reg),
    vectorForm i = some (len, gs, vs, ds) → (∀ d a b k, i ≠ .ksend d a b k) → s.vectorOk i = true → s.ready gs [] = true →
    s.myEntry = none → s.th.exl = false →
    (s.th.flt 2#2 = false → s.th.grant = 0 → exec i s = .next (s.trapped 2 20 (s.checkValue gs))) ∧
    (∀ f, s.th.flt 2#2 = true → get4 s.th.held 2#2 = some f → f.code ≠ 8 →
      let th := ({ s.th with held := set4 s.th.held 2#2 none } : Thread).setFlt 2#2 0
      exec i s = .next { s with th := (th.saveTrap false false 0 0 f.code f.addr s.th.pc).enterHandler })) ∧
  (∀ (s : State) (d a : Reg) (k : BitVec 3) (w : BitVec 2), s.poolReady [] = true → s.ready [a] [] = true → s.myEntry = none →
    s.th.exl = false → s.th.privileged = false → wfield (s.rd a) 63 62 = 3 →
    exec (.vld d a k w) s = .next (s.trapped 0 2 (s.rd a)) ∧ exec (.vst d a k w) s = .next (s.trapped 0 2 (s.rd a)))

/-- R231, R233: acceptance of vector commands, and the instructions that trap instead. -/
def Obligations.VectorAcceptance : Prop := Claim.vectorAcceptance ∧ Claim.vectorTraps

/-- R228, R229, R232, R237 to R240, R244, R247: when a command of this kind executes, every element that the mask admits holds the value its
row gives and every other element keeps its value; the flags of the admitted elements are or-ed into VSTAT; no other vector
register, no mask and no memory changes, and the command leaves the queue. -/
def Sys2Proof.Claim.laneResults : Prop :=
  ∀ (s : State) (slot : Nat) (c : Command) (d : Reg) (k : BitVec 3) (e : Nat) (f : Nat → Nat × Word),
    s.poolHead slot c → laneRule c (s.thread slot) = some (d, k, e, f) → (s.thread slot).vStream d = none →
    let t := s.thread slot
    ∃ u : State, exec (.vectorCommandExecute slot) s = .next u ∧
      (∀ j < t.count e, (u.thread slot).elem d e j = if t.admits k e j then (f j).1 else t.elem d e j) ∧
      (∀ r, r ≠ d → regGet (u.thread slot).v r = regGet t.v r) ∧ (u.thread slot).k = t.k ∧ (u.thread slot).g = t.g ∧
      (∀ b < 5, (u.thread slot).vstat.getLsbD b =
        (t.vstat.getLsbD b || (List.range (t.count e)).any fun j => t.admits k e j && (f j).2.getLsbD b)) ∧
      ((∀ j, (f j).2 = 0#64) → (u.thread slot).pend 2#2 = t.pend 2#2 - 1) ∧
      (u.core (coreOf slot)).vq = (s.core (coreOf slot)).vq.filter (fun y => y.seq != c.seq) ∧ u.mem = s.mem

/-- R228, R243: a compare sets the mask bits of the elements that its own mask admits, both bits of a 64-bit element, and leaves the others. -/
def Sys2Proof.Claim.maskResults : Prop :=
  ∀ (s : State) (slot : Nat) (c : Command) (d k : BitVec 3) (a b : Reg) (e : Nat) (p : Nat → Nat → Prop),
    s.poolHead slot c → maskRule c = some (d, k, a, b, e, p) → d ≠ 0#3 →
    let t := s.thread slot
    ∃ u : State, exec (.vectorCommandExecute slot) s = .next u ∧
      (∀ j < t.count e, ∀ i, e * j ≤ 32 * i → 32 * i < e * (j + 1) →
        ((get8 (u.thread slot).k d).getLsbD i = true ↔
          if t.admits k e j then p (t.elem a e j) (t.elem b e j) else (get8 t.k d).getLsbD i = true)) ∧
      (∀ x, x ≠ d → get8 (u.thread slot).k x = get8 t.k x) ∧ (u.thread slot).v = t.v ∧ u.mem = s.mem

/-- R244, R247, R249: a result that is not merged holds its elements from element 0 on, and zeros after them, and its flags are or-ed into
VSTAT. -/
def Sys2Proof.Claim.fillResults : Prop :=
  ∀ (s : State) (slot : Nat) (c : Command) (d : Reg) (e : Nat) (l : List Nat) (f : Word),
    s.poolHead slot c → fillRule c (s.thread slot) = some (d, e, l, f) → (s.thread slot).vStream d = none →
    let t := s.thread slot
    ∃ u : State, exec (.vectorCommandExecute slot) s = .next u ∧
      (∀ j < t.count e, (u.thread slot).elem d e j = l.getD j 0) ∧
      (∀ b < 5, (u.thread slot).vstat.getLsbD b = (t.vstat.getLsbD b || f.getLsbD b)) ∧
      (∀ r, r ≠ d → regGet (u.thread slot).v r = regGet t.v r) ∧ (u.thread slot).k = t.k ∧ u.mem = s.mem

/-- R248, R250, R254: VTRANS transposes each group of eight columns of its eight registers; VSELK gives the indices of the admitted rows by rank,
and all ones from its count on and where rows are missing; KSET sets the lanes of its mask, and a write to k0 is discarded. -/
def Sys2Proof.Claim.permuteResults : Prop :=
  ∀ (s : State) (slot : Nat) (c : Command), s.poolHead slot c →
    let t := s.thread slot
    (∀ (d w : BitVec 2), c.instr = .vtrans d w → (∀ r ∈ transRows d, t.vStream r = none) →
      let e := 8 * 2 ^ w.toNat
      let row (i : Nat) : Reg := BitVec.ofNat 5 (8 * d.toNat + i)
      ∃ u : State, exec (.vectorCommandExecute slot) s = .next u ∧
        (∀ i < 8, ∀ x < t.count e, (u.thread slot).elem (row i) e x = t.elem (row (x % 8)) e (8 * (x / 8) + i)) ∧
        (∀ r, r.toNat / 8 ≠ d.toNat → regGet (u.thread slot).v r = regGet t.v r) ∧ (u.thread slot).k = t.k ∧ u.mem = s.mem) ∧
    (∀ (d a b : Reg) (k : BitVec 3) (w : BitVec 2), c.instr = .vselk d a b k w → t.vStream d = none →
      let e := 8 * 2 ^ w.toNat
      let rows := ((List.range (t.count e)).filter fun j => t.admits k e j).map fun j => (j, (floatOf w.toNat).read (t.elem a e j))
      ∃ (u : State) (ranked : List (Nat × Machine.Num)), exec (.vectorCommandExecute slot) s = .next u ∧
        ranked.Perm rows ∧ ranked.Pairwise (ranksAbove (c.ga.getLsbD 7)) ∧
        (∀ j < t.count e, (u.thread slot).elem d e j =
          if j < wfield c.ga 6 0 then (ranked.map (·.1)).getD j (2 ^ e - 1) else 2 ^ e - 1) ∧
        (∀ r, r ≠ d → regGet (u.thread slot).v r = regGet t.v r) ∧ (u.thread slot).k = t.k ∧ u.mem = s.mem) ∧
    (∀ (k : BitVec 3) (a : Reg), c.instr = .kset k a →
      ∃ u : State, exec (.vectorCommandExecute slot) s = .next u ∧
        (∀ i < 64, k ≠ 0#3 → (get8 (u.thread slot).k k).getLsbD i = (decide (i < t.grant) && c.ga.getLsbD i)) ∧
        (∀ x, x ≠ k ∨ k = 0#3 → get8 (u.thread slot).k x = get8 t.k x) ∧ (u.thread slot).v = t.v ∧ u.mem = s.mem)

/-- R241, R242: the estimates 1/x and 1/√x are rounded by Near12, but for F16, and then by RoundF, with their special cases and flags; 2 − xy and
(3 − xy)/2 are rounded once. -/
def Sys2Proof.Claim.estimateValues : Prop :=
  ∀ (f : FFmt) (rm : Nat) (ovs : Bool) (x : Nat), f = f16 ∨ f = f32 ∨ f = f64 → rm ≤ 4 → x < 2 ^ f.width →
    let p := rcpElem f rm ovs x
    let q := rsqElem f rm ovs x
    (f.read x = .nan → p = (f.nanBits, 0) ∧ q = (f.nanBits, 0)) ∧
    (∀ s, f.read x = .inf s → p = (f.withSign s 0, 0) ∧ q = if s then (f.nanBits, 16#64) else (0, 0)) ∧
    (∀ s d, f.read x = .fin s 0 d → p = (f.withSign s f.infBits, 8#64) ∧ q = (f.withSign s f.infBits, 8#64)) ∧
    (∀ s n d, f.read x = .fin s n d → 0 < n →
      let v : Rat := (d : Rat) / n
      let flags (r : Nat × Word) (y : Machine.Num) (exact : Prop) : Prop :=
        r.1 = (roundF f rm ovs y).1 ∧ r.2.getLsbD 2 = (roundF f rm ovs y).2.getLsbD 2 ∧ r.2.getLsbD 3 = false ∧ r.2.getLsbD 4 = false ∧
        (r.2.getLsbD 0 = true ↔ ¬exact) ∧ (r.2.getLsbD 1 = true ↔ ¬exact ∧ r.1 % 2 ^ (f.width - 1) < 2 ^ f.fb)
      (∃ a b : Nat, 0 < b ∧ (if f = f16 then (a : Rat) / b = v else nearest12 (v ^ 2) ((a : Rat) / b)) ∧
        flags p (.fin s a b) ((f.read p.1).finite = true ∧ (f.read p.1).toRat.abs = v)) ∧
      (s = true → q = (f.nanBits, 16#64)) ∧
      (s = false → ∃ a b : Nat, 0 < b ∧
        (if f = f16 then ∀ (m : Nat) (e : Int), m ≤ 4096 →
            (((m : Rat) * 2 ^ e < (a : Rat) / b ↔ ((m : Rat) * 2 ^ e) ^ 2 < v) ∧ ((m : Rat) * 2 ^ e = (a : Rat) / b ↔ ((m : Rat) * 2 ^ e) ^ 2 = v))
          else nearest12 v ((a : Rat) / b)) ∧
        flags q (.fin false a b) ((f.read q.1).finite = true ∧ (f.read q.1).toRat ^ 2 = v))) ∧
    (∀ (half : Bool) (y : Nat), y < 2 ^ f.width →
      let r := refineElem half f rm ovs x y
      (f.read x = .nan ∨ f.read y = .nan → r = (f.nanBits, 0)) ∧
      (((f.read x).isZero = true ∧ (f.read y).isInf = true) ∨ ((f.read x).isInf = true ∧ (f.read y).isZero = true) →
        r.2 = 0 ∧ (f.read r.1).finite = true ∧ (f.read r.1).toRat = if half then 3 / 2 else 2) ∧
      ((f.read x).isNan = false → (f.read y).isNan = false → (f.read x).isZero = false → (f.read y).isZero = false →
        (f.read x).isInf = true ∨ (f.read y).isInf = true → r = (f.withSign ((f.read x).neg == (f.read y).neg) f.infBits, 0)) ∧
      ((f.read x).finite = true → (f.read y).finite = true → ∃ z : Machine.Num, z.finite = true ∧ r = roundF f rm ovs z ∧
        z.toRat = if half then (3 - (f.read x).toRat * (f.read y).toRat) / 2 else 2 - (f.read x).toRat * (f.read y).toRat))

/-- R216, R244, R249: the exact sum of floating elements is rounded once; NaN, and infinities of both signs, give NaN, and a zero sum is −0 only
where the rule says so. An integer converted to an integer format is clamped to its range without a flag. -/
def Sys2Proof.Claim.sumValues : Prop :=
  (∀ (f : FFmt) (rm : Nat) (ovs : Bool) (xs : List Machine.Num), f = f32 ∨ f = f64 → rm ≤ 4 →
    let r := sumFloat f rm ovs xs
    (.nan ∈ xs → r = (f.nanBits, 0)) ∧
    (.nan ∉ xs → .inf false ∈ xs → .inf true ∈ xs → r = (f.nanBits, 16#64)) ∧
    ((∀ x ∈ xs, x.finite = true ∧ ∀ s n d, x = .fin s n d → 0 < d) → ∃ z : Machine.Num, z.finite = true ∧ r = roundF f rm ovs z ∧
      z.toRat = (xs.map Machine.Num.toRat).sum ∧
      (z.isZero = true → (z.neg = true ↔ (∃ x ∈ xs, x.neg = true) ∧ (rm = 2 ∨ ∀ x ∈ xs, x.neg = true))))) ∧
  (∀ (dst src rm w w' x : Nat) (sg sg' ovs : Bool), intFmtOf dst = some (sg, w) → intFmtOf src = some (sg', w') → x < 2 ^ w' → rm ≤ 4 →
    let v : Int := if sg' then signedElem w' x else x
    cvtElem dst src rm ovs x = (wrapElem w (if sg then max (-(2 ^ (w - 1))) (min v (2 ^ (w - 1) - 1)) else max 0 (min v (2 ^ w - 1))), 0))

/-- R228 to R232, R237 to R250, R254: what vector commands leave in the registers and masks of their threads. -/
def Obligations.VectorResults : Prop :=
  Claim.laneResults ∧ Claim.maskResults ∧ Claim.fillResults ∧ Claim.permuteResults ∧ Claim.estimateValues ∧ Claim.sumValues

/-- R234, R235, R245, R246: a load, store or atomic add of the lane pool whose elements are free to be accessed performs every admitted element
at its address in ascending order and touches no other byte: a load leaves the elements masked off, and zeros where its tensor has none; of
stores to one place the last counts, and atomic adds to one place add up. -/
def Sys2Proof.Claim.vectorMemory : Prop :=
  ∀ (s : State) (slot : Nat) (c : Command) (kind : AccessKind) (am : Nat) (d : Reg) (k : BitVec 3) (e : Nat) (at_ : Nat → Option Nat)
    (leaf : Option TlbEntry),
    s.poolHead slot c → slotOk slot = true → s.still → (s.thread slot).sb = [] → (s.thread slot).entry = none → c.done = 0 →
    (s.walkAnswers.all fun x => x.num != c.seq) = true → memRule c (s.thread slot) = some (kind, am, d, k, e, at_) →
    let n := e / 8
    let t := s.thread slot
    let pa (a : Nat) : Nat := elemPa (coreOf slot) am leaf a
    let made (j a : Nat) : Prop := j < t.count e ∧ t.admits k e j = true ∧ at_ j = some a
    (∀ j a, made j a → s.elemOk c (coreOf slot) am leaf n kind a) →
    (kind = .load → t.vStream d = none → ∃ u : State, exec (.vectorCommandExecute slot) s = .next u ∧
      (∀ j < t.count e, (u.thread slot).elem d e j =
        if t.admits k e j then (match at_ j with
          | some a => leNat (s.bytes (pa a) n)
          | none => 0) else t.elem d e j) ∧
      (∀ r, r ≠ d → regGet (u.thread slot).v r = regGet t.v r) ∧ sameMemory s u) ∧
    (kind = .store → Memory.wf s = true → ∃ u : State, exec (.vectorCommandExecute slot) s = .next u ∧
      (∀ j a, made j a → (∀ i b, made i b → j < i → pa b + n ≤ pa a ∨ pa a + n ≤ pa b) → u.bytes (pa a) n = leBytes n (t.elem d e j)) ∧
      (∀ x, (∀ j a, made j a → x < pa a ∨ pa a + n ≤ x) → u.byte x = s.byte x) ∧ (u.thread slot).v = t.v) ∧
    (kind = .rmw → Memory.wf s = true → ∃ u : State, exec (.vectorCommandExecute slot) s = .next u ∧
      (∀ j a, made j a → leNat (u.bytes (pa a) n) = (leNat (s.bytes (pa a) n) + ((List.range (t.count e)).map fun i =>
        if t.admits k e i && (at_ i).map pa == some (pa a) then t.elem d e i else 0).sum) % 2 ^ e) ∧
      (∀ x, (∀ j a, made j a → x < pa a ∨ pa a + n ≤ x) → u.byte x = s.byte x) ∧ (u.thread slot).v = t.v)

/-- R251, R252: KSEND delivers the key and value of every admitted lane, in ascending order, to the core of the member that the key selects among
the group's members in order of their handles; the receiving unit applies the oldest to the bin its key selects, or, disabled, discards and
counts it. -/
def Sys2Proof.Claim.keyedSends : Prop :=
  (∀ (s : State) (slot : Nat) (ms : List Nat) (c : Command) (d a b : Reg) (k : BitVec 3) (g : Group), s.poolHead slot c →
    c.instr = .ksend d a b k → c.ga.toNat < 1024 → s.group c.ga.toNat = some g → g.asid = c.asid → g.members ≠ [] →
    ms.Perm g.members → ms.Pairwise (fun x y => x % 32768 < y % 32768) →
    let t := s.thread slot
    let lanes := (List.range t.grant).filter (t.laneSet k)
    let receiver (j : Nat) : Nat := coreOf (ms.getD (t.elem a 32 j * 0x9E3779B1 % 2 ^ 32 * ms.length / 2 ^ 32) 0)
    s.storesBefore slot c.seq = true →
    (lanes.all fun j => s.lmPermits (c.issuer (coreOf slot)) (s.binPa (receiver j) (t.elem a 32 j)) .store) = true →
    ∃ u : State, exec (.vectorCommandExecute slot) s = .next u ∧
      (∀ x, (u.core x).keys = (s.core x).keys ++ (lanes.filter fun j => receiver j == x).map fun j =>
        { slot := slot, dom := t.workDomain, key := BitVec.ofNat 64 (t.elem a 32 j), value := BitVec.ofNat 64 (t.elem b 32 j) }) ∧
      u.mem = s.mem) ∧
  (∀ (s : State) (core : Nat) (u : KeyUpdate) (rest : List KeyUpdate), (s.core core).keys = u :: rest →
    let r := (s.core core).krcv
    let bin := window (globalCore core) + (4 * wfield r 15 0 + 4 * (u.key.toNat % (wfield r 31 16 + 1)))
    (r.getLsbD 41 = false → ∃ t : State, exec (.binUpdate core) s = .next t ∧ (t.core core).keys = rest ∧ t.mem = s.mem ∧
      wfield (t.core core).krcv 63 48 = min (wfield r 63 48 + 1) 65535) ∧
    (r.getLsbD 41 = true → s.unlanded bin 4 0 = false → s.conflicts .nonSpec none bin 4 true = [] → s.poisonNarrow bin 4 = false →
      bin + 4 ≤ romBase → Memory.wf s = true →
      let old := leNat (s.bytes bin 4)
      let v := u.value.toNat % 2 ^ 32
      let op := wfield r 39 38
      let fmt := wfield r 37 33
      ∃ t : State, exec (.binUpdate core) s = .next t ∧ (t.core core).keys = rest ∧ sameMemoryBut bin 4 s t ∧
        (op = 3 → leNat (t.bytes bin 4) = min (old + 1) (2 ^ 32 - 1)) ∧
        (op = 0 → fmt ≠ 10 → leNat (t.bytes bin 4) = (old + v) % 2 ^ 32) ∧
        (op = 0 → fmt = 10 → u.value.toNat < 2 ^ 32 → leNat (t.bytes bin 4) = match (f32.read old).add false (f32.read v) with
          | some x => (roundF f32 0 (r.getLsbD 40) x).1
          | none => f32.nanBits) ∧
        (op = 1 ∨ op = 2 → u.value.toNat < 2 ^ 32 →
          (fmt = 2 → signedElem 32 (leNat (t.bytes bin 4)) =
            if op = 1 then min (signedElem 32 old) (signedElem 32 v) else max (signedElem 32 old) (signedElem 32 v)) ∧
          (fmt = 6 → leNat (t.bytes bin 4) = if op = 1 then min old v else max old v) ∧
          (fmt = 10 → leNat (t.bytes bin 4) = minMaxF f32 (op == 2) old v))))

/-- R234, R235, R245, R246, R251, R252: vector loads and stores, sends by key, and the receiving units. Where it goes beyond the manual's words it rests on
the model's choices of log 54. -/
def Obligations.VectorMemoryResults : Prop := Claim.vectorMemory ∧ Claim.keyedSends

/-- R223, R224, R226, R230, R254: with no vector command outstanding VCLAIM records its request and both VCLAIM and VRENEG renegotiate, answer the
grant and keep the lanes and mask bits below the smaller grant, those above reading zero; the tile's grants never exceed its 2,048 lanes.
VREL releases the claim; VSETW sets W; VMVG and KGET read an element and a mask; VBUSYQ gives PEND. -/
def Sys2Proof.Claim.vectorControl : Prop :=
  let kept (s t : State) : Prop := ∀ i < 64,
    (∀ r, t.th.elem r 32 i = if i < min s.th.grant t.th.grant then s.th.elem r 32 i else 0) ∧
    (∀ k, (get8 t.th.k k).getLsbD i = (decide (i < min s.th.grant t.th.grant) && (get8 s.th.k k).getLsbD i))
  let whole (s : State) : Prop := s.granted (tileOf s.cur) ≤ 2048 ∧ (s.th.laneReq = 0 → s.th.grant = 0) ∧ ∀ x ∈ s.threads, x.1 ≠ s.cur
  (∀ (s : State) (d a : Reg) (q : Nat), q ∈ [8, 16, 32, 64] → s.rd a = BitVec.ofNat 64 q → s.ready [a] [d] = true → s.th.pend 2#2 = 0 →
    ∃ t : State, exec (.vclaim d a) s = .next (t.finish 4 [a] [(d, BitVec.ofNat 64 t.th.grant)]) ∧ t.th.grant ≤ q ∧ t.th.laneReq = q ∧
      (t.th.grant = 0 ∨ t.th.grant ∈ [8, 16, 32, 64]) ∧ { t with th := s.th } = s ∧ kept s t ∧
      (whole s → s.grantRule q t.th.grant ∧ t.granted (tileOf s.cur) ≤ 2048) ∧
      (s.threads.all (fun x => tileOf x.1 != tileOf s.cur || x.2.laneReq == 0) = true → s.th.grant ≤ 64 → t.th.grant = q)) ∧
  (∀ (s : State) (d : Reg), s.ready [] [d] = true → s.th.pend 2#2 = 0 →
    ∃ t : State, exec (.vreneg d) s = .next (t.finish 4 [] [(d, BitVec.ofNat 64 t.th.grant)]) ∧ { t with th := s.th } = s ∧
      t.th.laneReq = s.th.laneReq ∧ (s.th.laneReq = 0 → t = s) ∧
      (s.th.laneReq ≠ 0 → kept s t ∧ (whole s → s.grantRule s.th.laneReq t.th.grant ∧ t.granted (tileOf s.cur) ≤ 2048))) ∧
  (∀ (s : State), s.th.pend 2#2 = 0 → ∃ t : State, exec .vrel s = .next (t.finish 4 [] []) ∧ t.th.grant = 0 ∧ t.th.laneReq = 0 ∧
    (∀ r, regGet t.th.v r = 0#2048) ∧ (∀ i, get8 t.th.k i = 0#64)) ∧
  (∀ (s : State) (w : BitVec 2), ∃ t : State, exec (.vsetw w) s = .next (t.finish 4 [] []) ∧ wfield t.th.vstat 49 48 = w.toNat ∧
    { t with th := { t.th with vstat := s.th.vstat } } = s) ∧
  (∀ (s : State) (d a b : Reg) (w : BitVec 2), s.poolReady [a] = true → s.ready [b] [d] = true → s.th.pend 2#2 = 0 →
    exec (.vmvg d a b w) s = .next (s.finish 4 [b] [(d, if (s.rd b).toNat < s.th.count (8 * 2 ^ w.toNat) then
      BitVec.ofNat 64 (s.th.elem a (8 * 2 ^ w.toNat) (s.rd b).toNat) else 0#64)])) ∧
  (∀ (s : State) (d : Reg) (k : BitVec 3), s.poolReady [] = true → s.ready [] [d] = true → s.th.pend 2#2 = 0 → s.th.grant ≤ 64 →
    ∃ v : Word, exec (.kget d k) s = .next (s.finish 4 [] [(d, v)]) ∧ ∀ i < 64, v.getLsbD i = (decide (i < s.th.grant) && s.th.laneSet k i)) ∧
  (∀ (s : State) (d : Reg), s.ready [] [d] = true → exec (.vbusyq d) s = .next (s.finish 4 [] [(d, BitVec.ofNat 64 (wfield s.th.vstat 20 16))]))

/-- R110, R121, R233, R254, R277: a fence of a unit with nothing outstanding ends where no fault is held, and otherwise delivers the held fault with its
cause and recorded address, FLT clearing; with commands outstanding it waits. -/
def Sys2Proof.Claim.unitFences : Prop :=
  ∀ (s : State) (i : Instr) (u : EUnit) (w : Wait),
    (i = .sfence ∧ u = 0#2 ∧ w = .sfence) ∨ (i = .vfence ∧ u = 2#2 ∧ w = .vfence) ∨ (i = .mfence ∧ u = 3#2 ∧ w = .mfence) →
    s.speculative = false →
    (s.th.pend u = 0 → s.th.flt u = false → exec i s = .next (s.finish 4 [] [])) ∧
    (∀ f, s.th.pend u = 0 → s.th.flt u = true → get4 s.th.held u = some f → f.code ≠ 8 → s.myEntry = none → s.th.exl = false →
      let th := ({ s.th with held := set4 s.th.held u none } : Thread).setFlt u 0
      exec i s = .next { s with th := (th.saveTrap false false 0 0 f.code f.addr s.th.pc).enterHandler }) ∧
    (s.th.pend u ≠ 0 → exec i s = .next { s with th := { s.th with wait := some w } })

/-- R253: KBIN of an image that passes its checks, once every element that has arrived is applied, sets KRCV and keeps DROP; KDRAIN ends where no
element of the thread's sends is on its way. -/
def Sys2Proof.Claim.keyRegisters : Prop :=
  (∀ (s : State) (a b : Reg), s.ready [a, b] [] = true → s.speculative = false → s.myCore.keys = [] → (s.rd a).toNat % 4 = 0 →
    wfield (s.rd b) 63 25 = 0 → wfield (s.rd b) 22 18 ∈ [2, 6, 10] → (s.rd a).toNat + 4 * (wfield (s.rd b) 15 0 + 1) ≤ 0x40000 →
    ∃ t : State, exec (.kbin a b) s = .next (t.finish 4 [a, b] []) ∧ t.th = s.th ∧ t.mem = s.mem ∧
      wfield t.myCore.krcv 63 48 = wfield s.myCore.krcv 63 48 ∧ t.myCore.krcv.getLsbD 41 = (s.rd b).getLsbD 24 ∧
      t.myCore.krcv.getLsbD 40 = (s.rd b).getLsbD 23 ∧ wfield t.myCore.krcv 39 38 = wfield (s.rd b) 17 16 ∧
      wfield t.myCore.krcv 37 33 = wfield (s.rd b) 22 18 ∧ wfield t.myCore.krcv 31 16 = wfield (s.rd b) 15 0 ∧
      4 * wfield t.myCore.krcv 15 0 = (s.rd a).toNat) ∧
  (∀ (s : State), s.myCore.vq = [] → (s.cores.all fun c => c.2.keys.all fun u => u.slot != s.cur) = true →
    exec .kdrain s = .next (s.finish 4 [] []))

/-- R110, R121, R224 to R226, R230, R233, R253, R254, R277: the control instructions of the lane pool and of the receiving unit, and the fences. -/
def Obligations.VectorControlResults : Prop := Claim.vectorControl ∧ Claim.unitFences ∧ Claim.keyRegisters

/-! The matrix unit. -/

/-- R259 to R261, R264, R267 to R269, R272, R273: a queued MTX instruction whose operands pass its checks is taken with its captured values,
PEND rises by 1, and the instruction ends. MZERO and TZSET have no operand to check; the others resolve their tensors. -/
def Sys2Proof.Claim.matrixAcceptance : Prop :=
  (∀ (s : State) (x p : BitVec 3), s.matrixFree = true →
    exec (.mzero x p) s = .next ((s.queued (.mzero x p) 0#64 0#64 []).finish 4 [] [])) ∧
  (∀ (s : State) (x c : BitVec 3) (a b : Reg), s.matrixFree = true → s.ready [a, b] [] = true →
    exec (.tzset x a b c) s = .next ((s.queued (.tzset x a b c) (s.rd a) (s.rd b) []).finish 4 [a, b] [])) ∧
  (∀ (s : State) (x p : BitVec 3) (m : BitVec 2) (a b : Reg) (ea eb : BitVec 512), s.matrixFree = true → s.ready [a, b] [] = true →
    m ≠ 2#2 → s.resolved (wfield (s.rd a) 11 0) ea → s.resolved (wfield (s.rd b) 19 8) eb →
    (mmaFits false x (s.rd a) (s.rd b) (Tensor.ofEntry ea) (Tensor.ofEntry eb) = true →
      exec (.mma x m a b p) s = .next ((s.queued (.mma x m a b p) (s.rd a) (s.rd b) [ea, eb]).finish 4 [a, b] [])) ∧
    (mmaFits true x (s.rd a) (s.rd b) (Tensor.ofEntry ea) (Tensor.ofEntry eb) = true →
      exec (.mmas x m a b p) s = .next ((s.queued (.mmas x m a b p) (s.rd a) (s.rd b) [ea, eb]).finish 4 [a, b] []))) ∧
  (∀ (s : State) (x p : BitVec 3) (m : BitVec 2) (a b : Reg) (e : BitVec 512), s.matrixFree = true → s.ready [a, b] [] = true →
    m ≠ 2#2 → s.resolved (wfield (s.rd a) 11 0) e → windowOk x m (s.rd a) (s.rd b) (Tensor.ofEntry e) = true →
    exec (.mldacc x m a b p) s = .next ((s.queued (.mldacc x m a b p) (s.rd a) (s.rd b) [e]).finish 4 [a, b] []) ∧
    ((Tensor.ofEntry e).wprot = false → (Tensor.ofEntry e).has (wfield (s.rd a) 31 12) (wfield (s.rd a) 51 32) = true →
      exec (.mstacc x m a b p) s = .next ((s.queued (.mstacc x m a b p) (s.rd a) (s.rd b) [e]).finish 4 [a, b] []))) ∧
  (∀ (i : Instr) (s u : State) (x p : BitVec 3) (m : BitVec 2) (a b : Reg) (es : List (BitVec 512)),
    i = .mma x m a b p ∨ i = .mmas x m a b p ∨ i = .mspx x m a b p ∨ i = .mldacc x m a b p ∨ i = .mstacc x m a b p ∨ i = .mwbld m a b p →
    s.matrixFree = true → s.ready [a, b] [] = true → matrixChecks i (s.rd a) (s.rd b) (s.rd a) s = .ok (es, u) →
    u.th = s.th → u.cur = s.cur → u.cores = s.cores → u.fresh = s.fresh →
    exec i s = .next ((u.queued i (s.rd a) (s.rd b) es).finish 4 [a, b] []))

/-- R73, R259, R267, R282: while TTBASE.EN is 0 a matrix command with a tensor raises TENSOR 3.7 with TVAL g[a]; a pair that MMA does not accept
raises FMTPAIR 3.21; MBURST of more than 4,096 raises OPERAND 3.5. -/
def Sys2Proof.Claim.matrixTraps : Prop :=
  ∀ (s : State) (x p : BitVec 3) (m : BitVec 2) (a b : Reg), s.matrixFree = true → s.ready [a, b] [] = true → s.myEntry = none →
    s.th.exl = false →
    (∀ i, i = .mma x m a b p ∨ i = .mmas x m a b p ∨ i = .mspx x m a b p ∨ i = .mldacc x m a b p ∨ i = .mstacc x m a b p ∨ i = .mwbld m a b p →
      s.th.ttbase.getLsbD 0 = false → exec i s = .next (s.trapped 3 7 (s.rd a))) ∧
    (∀ ea eb, s.resolved (wfield (s.rd a) 11 0) ea → s.resolved (wfield (s.rd b) 19 8) eb →
      mmaPair (Tensor.ofEntry ea).format (Tensor.ofEntry eb).format = false → exec (.mma x m a b p) s = .next (s.trapped 3 21 (s.rd a))) ∧
    (4096 < (s.rd a).toNat → exec (.mburst a) s = .next (s.trapped 3 5 (s.rd a)))

/-- R73, R259 to R261, R264, R267 to R269, R272, R273, R282: matrix instructions at issue. -/
def Obligations.MatrixAcceptance : Prop := Claim.matrixAcceptance ∧ Claim.matrixTraps

/-- R260, R262 to R264, R272, R281: at the head of its queue a command with a false predicate leaves it with no effect; MZERO zeroes its accumulator and
TZSET sets its predicate by the comparison, no other accumulator or predicate changing; an array command asks for the array, which
begins a ramp of 32 clk where it is OFF; an executed command leaves the queue and PEND falls by 1. -/
def Sys2Proof.Claim.matrixQueue : Prop :=
  (∀ (s : State) (core : Nat) (c : Command), s.matrixHead core c → (s.core core).pred c.predicate = false →
    ∃ u : State, exec (.matrixQueueHead core) s = .next u ∧ (u.core core).acc = (s.core core).acc ∧ (u.core core).tz = (s.core core).tz ∧
      (u.core core).mq = (s.core core).mq.filter (fun y => y.seq != c.seq) ∧ u.mem = s.mem ∧
      (u.tile (core / 8)).weights = (s.tile (core / 8)).weights ∧ (u.thread c.slot).pend 3#2 = (s.thread c.slot).pend 3#2 - 1) ∧
  (∀ (s : State) (core : Nat) (c : Command) (x p : BitVec 3), s.matrixHead core c → c.instr = .mzero x p → (s.core core).pred p = true →
    ∃ u : State, exec (.matrixQueueHead core) s = .next u ∧ get8 (u.core core).acc x = 0#32768 ∧
      (∀ y, y ≠ x → get8 (u.core core).acc y = get8 (s.core core).acc y) ∧ (u.core core).tz = (s.core core).tz ∧ u.mem = s.mem ∧
      (u.core core).mq.head? = some { c with started := true }) ∧
  (∀ (s : State) (core : Nat) (c : Command) (x k : BitVec 3) (a b : Reg), s.matrixHead core c → c.instr = .tzset x a b k →
    let t : Prop :=
      match k.toNat with
      | 0 => c.ga = c.gb
      | 1 => c.ga ≠ c.gb
      | 2 => c.ga.toNat < c.gb.toNat
      | 3 => c.gb.toNat ≤ c.ga.toNat
      | 4 => c.ga &&& c.gb ≠ 0#64
      | 5 => c.ga &&& c.gb = 0#64
      | 6 => c.ga.toInt < c.gb.toInt
      | _ => c.gb.toInt ≤ c.ga.toInt
    ∃ u : State, exec (.matrixQueueHead core) s = .next u ∧ (x ≠ 0#3 → ((u.core core).pred x = true ↔ t)) ∧
      (∀ y, y ≠ x → (u.core core).pred y = (s.core core).pred y) ∧ (u.core core).pred 0#3 = true ∧
      (u.core core).acc = (s.core core).acc ∧ u.mem = s.mem) ∧
  (∀ (s : State) (core : Nat) (c : Command), s.matrixHead core c → c.isArray = true → (s.core core).pred c.predicate = true →
    ∃ u : State, exec (.matrixQueueHead core) s = .next u ∧ (u.core core).mq.head? = some { c with done := 1 } ∧ u.mem = s.mem ∧
      (u.core core).acc = (s.core core).acc ∧
      ((s.tile (core / 8)).array = .off → (u.tile (core / 8)).array = .rampUp ∧ (u.tile (core / 8)).ramp = (s.time, 32)) ∧
      ((s.tile (core / 8)).array = .on → u.tile (core / 8) = s.tile (core / 8))) ∧
  (∀ (s : State) (core : Nat) (c : Command) (l : List Command), (s.core core).mq = c :: l → c.started = true →
    ∃ u : State, exec (.matrixCommandComplete core) s = .next u ∧ (u.core core).mq = (c :: l).filter (fun y => y.seq != c.seq) ∧
      (u.thread c.slot).pend 3#2 = (s.thread c.slot).pend 3#2 - 1 ∧ (u.core core).acc = (s.core core).acc ∧ u.mem = s.mem)

/-- R281, R282: the states of the array, HOLD, and MBURST. -/
def Sys2Proof.Claim.arrayPower : Prop :=
  (∀ (s : State) (a : Reg), s.ready [a] [] = true → s.speculative = false → (s.rd a).toNat ≤ 4096 →
    ∃ u : State, exec (.mburst a) s = .next (u.finish 4 [a] []) ∧ u.myTile.hold = (s.rd a).toNat ∧ u.th = s.th ∧ u.mem = s.mem ∧
      (s.myTile.array = .off → 0 < (s.rd a).toNat → u.myTile.array = .rampUp ∧ u.myTile.ramp = (s.time, 32)) ∧
      ((s.rd a).toNat = 0 ∨ s.myTile.array = .on → u.myTile.array = s.myTile.array)) ∧
  (∀ (s : State) (t : Nat), (s.tile t).array = .rampUp → (s.tile t).ramp.1 + (s.tile t).ramp.2 ≤ s.time →
    exec (.arrayRampupDone t) s = .next (s.setTile t { s.tile t with array := .on, arrayLast := s.time, arrayStart := s.time })) ∧
  (∀ (s : State) (t : Nat), (s.tile t).array = .on → (s.tile t).hold = 0 → s.arrayBusy t = false → (s.tile t).arrayLast + 64 ≤ s.time →
    exec (.arrayIdleTimeout t) s = .next (s.setTile t { s.tile t with array := .rampDown, ramp := (s.time, 32) })) ∧
  (∀ (s : State) (t : Nat), (s.tile t).array = .on → 0 < (s.tile t).hold → (s.tile t).arrayStart + 4096 ≤ s.time →
    exec (.arrayHoldTimeout t) s = .next (s.setTile t { s.tile t with hold := 0, array := .rampDown, ramp := (s.time, 32) })) ∧
  (∀ (s : State) (t : Nat), (s.tile t).array = .rampDown → (s.tile t).ramp.1 + (s.tile t).ramp.2 ≤ s.time →
    exec (.arrayRampdownDone t) s = .next (s.setTile t { s.tile t with array := .off })) ∧
  (∀ (t : Tile) (now j : Nat), t.array = .rampDown → now = t.ramp.1 + j → j ≤ t.ramp.2 →
    (t.rampEvent now).array = .rampUp ∧ (t.rampEvent now).ramp = (now, j))

/-- R281 to R284: where one core of a tile in state ON has an array command with staged operands at its head, the array starts it: its accumulators take
the command's effect, a nonzero HOLD falls by 1, and a budgeted queue is charged its estimate, saturating. -/
def Sys2Proof.Claim.arrayStarts : Prop :=
  ∀ (s u : State) (t i n : Nat) (c : Command) (l : List Command), i < 8 → (s.tile t).array = .on → (s.tile t).delayed = false →
    (s.core (8 * t + i)).mq = c :: l → c.isArray = true → c.done = 1 → c.started = false → c.frozen = none →
    (∀ j < 8, j ≠ i → (s.core (8 * t + j)).mq = []) → (∃ v, (estimate (8 * t + i) c).run' s = (v, .ok n)) →
    (runMatrix (8 * t + i) c).run' s = (u, .ok ()) → (u.core (8 * t + i)).mq = c :: l →
    ∃ w : State, exec (.arrayCommandStart t) s = .next w ∧ (w.core (8 * t + i)).acc = (u.core (8 * t + i)).acc ∧
      (w.tile t).hold = (u.tile t).hold - 1 ∧ (w.core (8 * t + i)).mq.head? = some { c with started := true } ∧ w.mem = u.mem ∧
      (budgetOf (u.tile t).mbudget i = none → (w.tile t).served = i ∧ (w.tile t).mbudget = (u.tile t).mbudget) ∧
      (budgetOf (u.tile t).mbudget i = some 0 →
        wfield (w.tile t).mbudget 31 16 = min (wfield (u.tile t).mbudget 31 16 + n) 65535) ∧
      (budgetOf (u.tile t).mbudget i = some 1 →
        wfield (w.tile t).mbudget 47 32 = min (wfield (u.tile t).mbudget 47 32 + n) 65535)

/-- R284: the order in which the array chooses among queues: budgeted ones below the limit first, by lowest estimate; then an unbudgeted one; and then
the budgeted one with the lowest charge. -/
def Sys2Proof.Claim.arbitration : Prop :=
  ∀ (t : Tile) (ready : List (Nat × Nat)) (r : Nat × Nat), (∀ x ∈ ready, x.1 < 8) → t.arbitrate ready = some r →
    let limit := wfield t.mbudget 63 48
    let preferred (x : Nat × Nat) : Prop := ∃ b, budgetOf t.mbudget x.1 = some b ∧ chargeOf t.mbudget b < limit
    let free (x : Nat × Nat) : Prop := budgetOf t.mbudget x.1 = none
    r ∈ ready ∧
    ((∃ x ∈ ready, preferred x) → preferred r ∧ ∀ x ∈ ready, preferred x → r.2 < x.2 ∨ (r.2 = x.2 ∧ r.1 ≤ x.1)) ∧
    ((¬∃ x ∈ ready, preferred x) → (∃ x ∈ ready, free x) → free r ∧ ∀ x ∈ ready, free x → (r.1 + 7 - t.served) % 8 ≤ (x.1 + 7 - t.served) % 8) ∧
    ((¬∃ x ∈ ready, preferred x ∨ free x) → ∀ x ∈ ready, ∀ b d, budgetOf t.mbudget r.1 = some b → budgetOf t.mbudget x.1 = some d →
      chargeOf t.mbudget b ≤ chargeOf t.mbudget d)

/-- R257, R265, R267, R270, R271: what MMA, MMAS and MSPX make of their accumulators: each element of the valid rows accumulates, from its old
value in ascending k, the products of A's elements and the image's, by the fused chain, NarrowAccumulate or block pairs as the formats
say, or of the fibres' common coordinates by fused steps; nothing but the named accumulator and the flags changes. -/
def Sys2Proof.Claim.multiplyResults : Prop :=
  ∀ (s : State) (core : Nat) (c : Command) (x p : BitVec 3) (a b : Reg), s.unitCalm core c →
    let old := (s.core core).acc
    let ta := Tensor.ofEntry (c.tensors.getD 0 0)
    let tb := Tensor.ofEntry (c.tensors.getD 1 0)
    let rv := if wfield c.ga 56 52 = 0 then 32 else wfield c.ga 56 52
    let kk := 32 * 2 ^ wfield c.ga 58 57
    let row0 := wfield c.ga 31 12
    let k0 := wfield c.ga 51 32
    let col0 := wfield c.gb 39 20
    let ovs := c.frm.getLsbD 3
    let image (sparse : Bool) : Nat := s.weightsAt (core / 8) (2048 * wfield c.gb 7 0) (imageSize tb.format kk sparse)
    let zero : Machine.Num := .fin false 0 1
    let gives (pair : Bool) (r : Nat → Nat → Nat × Word) : Prop :=
      let at_ (acc : Vector (BitVec 32768) 8) (i j : Nat) : Nat := if pair then accGetPair acc x i j else accGet acc x i j
      ∃ (acc : Vector (BitVec 32768) 8) (fl : Word),
        (runMatrix core c).run' s = ((s.setCore core { s.core core with acc := acc }).mflags c.slot fl, .ok ()) ∧
        (∀ i < rv, ∀ j < 32, at_ acc i j = (r i j).1) ∧ (∀ i < 32, rv ≤ i → ∀ j < 32, at_ acc i j = at_ old i j) ∧
        (∀ y, y ≠ x → (pair = true → y ≠ x ||| 1#3) → get8 acc y = get8 old y) ∧
        ∀ n < 5, fl.getLsbD n = true ↔ ∃ i < rv, ∃ j < 32, (r i j).2.getLsbD n = true
    (∀ sparse : Bool, c.instr = (if sparse then .mmas x 1#2 a b p else .mma x 1#2 a b p) → floatFmt ta.format = true → ta.skind = 0 →
      (sparse = true → floatFmt tb.format = true) → (ta.format = 11 → x.getLsbD 0 = false) → ta.windowFits row0 k0 rv kk = true →
      let ps (i j : Nat) : List (Machine.Num × Machine.Num) := (List.range kk).map fun k =>
        (if ta.has (row0 + i) (k0 + k) then elemValue ta.format (s.localBits core (ta.elemBit (row0 + i) (k0 + k)) ta.w) else zero,
         if tb.rows ≤ k0 + k ∨ tb.cols ≤ col0 + j then zero else imageRule tb.format kk sparse c.codes (image sparse) k j)
      gives (ta.format == 11) fun i j =>
        if ta.format = 11 then fusedChain f64 (accGetPair old x i j) (ps i j) ovs
        else if ta.format = 10 then fusedChain f32 (accGet old x i j) (ps i j) ovs
        else narrowAccumulate (accGet old x i j) (ps i j) ovs) ∧
    (∀ ma mb, c.instr = .mma x 1#2 a b p → sxbOf ta.format = some ma → sxbOf tb.format = some mb → ta.skind = 3 →
      (∀ i < rv, ∀ q < kk / 32, ta.has (row0 + i) (k0 + 32 * q) = true → ta.scaleAddr (row0 + i) (k0 + 32 * q) < 0x40000 ∧
        ∀ e < 32, (ta.elemBit (row0 + i) (k0 + 32 * q + e) + ma + 7) / 8 ≤ 0x40000) →
      let nb := kk / 32
      let ablock (i q : Nat) : Nat × List Int :=
        if ta.has (row0 + i) (k0 + 32 * q) then
          (s.localBits core (8 * ta.scaleAddr (row0 + i) (k0 + 32 * q)) 8,
           (List.range 32).map fun e => signedElem ma (s.localBits core (ta.elemBit (row0 + i) (k0 + 32 * q + e)) ma))
        else (0, List.replicate 32 0)
      let bblock (q j : Nat) : Nat × List Int :=
        if tb.rows ≤ k0 + 32 * q ∨ tb.cols ≤ col0 + j then (0, List.replicate 32 0)
        else (cut (image false) (32 * mb * kk + 8 * (j * nb + q)) 8,
              (List.range 32).map fun e => signedElem mb (cut (image false) (32 * mb * (j * nb + q) + mb * e) mb))
      gives false fun i j => (List.range nb).foldl (fun u q =>
        let y := blockPair ma mb (ablock i q).1 (bblock q j).1 (ablock i q).2 (bblock q j).2 ovs
        let z := accAdd f32 ovs (f32.read u.1) (f32.read y.1)
        (z.1, u.2 ||| y.2 ||| z.2)) (accGet old x i j, 0)) ∧
    (c.instr = .mspx x 1#2 a b p → floatFmt ta.format = true → floatFmt tb.format = true →
      let readA (off n : Nat) : Nat := s.localBits core (8 * off) (8 * n)
      let readB (off n : Nat) : Nat := s.weightsAt (core / 8) off n
      let placeA (i : Nat) : Nat := wfield c.ga 35 12 + 16 * i
      let placeB (j : Nat) : Nat := 2048 * wfield c.gb 7 0 + 16 * j
      placeA rv ≤ 0x40000 → (∀ i < rv, fibreFits readA 0x40000 ta.format (placeA i)) →
      (∀ j < 32, fibreFits readB 0x80000 tb.format (placeB j)) →
      gives false fun i j => (fibreAt readA ta.format (placeA i)).foldl (fun u e =>
        match (fibreAt readB tb.format (placeB j)).find? fun f => f.1 == e.1 with
        | some f => let t := fusedStep f32 ovs u.1 e.2 f.2; (t.1, u.2 ||| t.2)
        | none => u) (accGet old x i j, 0))

/-- R257, R273: MLDACC rounds every element of its window, +0 where none exists, into its accumulator, and MSTACC rounds every accumulator element
into the tensor's element where that exists; the rows past the valid ones, the other accumulators and the other bytes stay. -/
def Sys2Proof.Claim.windowResults : Prop :=
  ∀ (s : State) (core : Nat) (c : Command) (x p : BitVec 3) (a b : Reg) (f : FFmt), s.unitCalm core c → s.matrixHead core c → c.done = 0 →
    (s.core core).pred p = true →
    let old := (s.core core).acc
    let t := Tensor.ofEntry (c.tensors.getD 0 0)
    let pair := c.gb.getLsbD 0
    let rv := if wfield c.ga 56 52 = 0 then 32 else wfield c.ga 56 52
    let row (n : Nat) : Nat := wfield c.ga 31 12 + n / 32
    let col (n : Nat) : Nat := wfield c.ga 51 32 + n % 32
    let rm := wfield c.frm 2 0
    let ovs := c.frm.getLsbD 3
    let af := if pair then f64 else f32
    let at_ (acc : Vector (BitVec 32768) 8) (n : Nat) : Nat := if pair then accGetPair acc x (n / 32) (n % 32) else accGet acc x (n / 32) (n % 32)
    let place (n : Nat) : Nat := window (globalCore core) + t.elemBit (row n) (col n) / 8
    ffmtOf t.format = some f → t.skind = 0 → (pair = true → x.getLsbD 0 = false) → t.windowFits (row 0) (col 0) rv 32 = true →
    (c.instr = .mldacc x 1#2 a b p → ∃ u : State, exec (.matrixQueueHead core) s = .next u ∧
      (∀ n < 32 * rv, at_ (u.core core).acc n =
        (roundF af rm ovs (if t.has (row n) (col n) then f.read (s.localBits core (t.elemBit (row n) (col n)) f.width) else f.read 0)).1) ∧
      (∀ n < 1024, 32 * rv ≤ n → at_ (u.core core).acc n = at_ old n) ∧
      (∀ y, y ≠ x → (pair = true → y ≠ x ||| 1#3) → get8 (u.core core).acc y = get8 old y) ∧ sameMemory s u) ∧
    (c.instr = .mstacc x 1#2 a b p → Memory.wf s = true → ∃ u : State, exec (.matrixQueueHead core) s = .next u ∧
      (∀ n < 32 * rv, t.has (row n) (col n) = true →
        (∀ m < 32 * rv, n < m → t.has (row m) (col m) = true → place m + f.width / 8 ≤ place n ∨ place n + f.width / 8 ≤ place m) →
        leNat (u.bytes (place n) (f.width / 8)) = (roundF f rm ovs (af.read (at_ old n))).1) ∧
      (∀ y, (∀ n < 32 * rv, t.has (row n) (col n) = true → y < place n ∨ place n + f.width / 8 ≤ y) → u.byte y = s.byte y) ∧
      (u.core core).acc = old)

/-- R265, R274: MWBLD writes the image of its panel into the weight buffer: the stored bits of its elements in raw, coded or block form with the
scales or exponents, zeros where none exists, or for each group of four rows its two chosen places with their values; the rest of the
buffer, the accumulators and memory stay. -/
def Sys2Proof.Claim.panelResults : Prop :=
  ∀ (s : State) (core : Nat) (c : Command) (p : BitVec 3) (a b : Reg), s.unitCalm core c → s.matrixHead core c → c.done = 0 → c.snap = none →
    (s.core core).pred p = true → c.instr = .mwbld 1#2 a b p →
    let t := Tensor.ofEntry (c.tensors.getD 0 0)
    let kk := 32 * 2 ^ wfield c.gb 21 20
    let sparse := c.ga.getLsbD 40
    let k0 := wfield c.gb 19 0
    let col0 := wfield c.ga 39 20
    let base := 2048 * wfield c.ga 7 0
    let size := imageSize t.format kk sparse
    let w := t.w
    let stored (k j : Nat) : Nat := if t.has (k0 + k) (col0 + j) then s.localBits core (t.elemBit (k0 + k) (col0 + j)) w else 0
    let scale (k j n : Nat) : Nat := s.localBits core (8 * t.scaleAddr (k0 + k) (col0 + j)) (8 * n)
    let nonzero (k j : Nat) : Prop := (elemValue t.format (stored k j)).isZero = false
    t.windowFits k0 col0 kk 32 = true → (∀ k < kk, ∀ j < 32, t.has (k0 + k) (col0 + j) = true → t.scaleAddr (k0 + k) (col0 + j) + 4 ≤ 0x40000) →
    (∀ j < 32, col0 + j < t.cols → t.scaleAddr 0 (col0 + j) + 4 ≤ 0x40000) →
    (sparse = true → narrowFmt t.format = true) → cellsWf (s.tile (core / 8)).weights = true →
    (sparse = true → ∀ g < kk / 4, ∀ j < 32, ∃ q r, q < 4 ∧ r < 4 ∧ ∀ i < 4, nonzero (4 * g + i) j → i = q ∨ i = r) →
    ∃ u : State, exec (.matrixQueueHead core) s = .next u ∧ (u.core core).acc = (s.core core).acc ∧ sameMemory s u ∧
      (∀ off, off < base ∨ base + size ≤ off → cellGet off (u.tile (core / 8)).weights = cellGet off (s.tile (core / 8)).weights) ∧
      let img := u.weightsAt (core / 8) base size
      (sparse = false → sxbOf t.format = none → floatFmt t.format = true ∨ t.format = 0 ∨ t.format = 14 →
        (∀ k < kk, ∀ j < 32, cut img (32 * w * k + w * j) w = stored k j) ∧
        (floatFmt t.format = false → t.skind = 0 ∨ t.skind = 2 → ∀ j < 32, cut img (32 * w * kk + 32 * j) 32 =
          if t.skind = 2 ∧ col0 + j < t.cols then s.localBits core (8 * t.scaleAddr 0 (col0 + j)) 32 else 0x3F800000)) ∧
      (∀ m, sparse = false → sxbOf t.format = some m → t.skind = 3 → ∀ q < kk / 32, ∀ j < 32,
        (∀ e < 32, cut img (32 * m * (j * (kk / 32) + q) + m * e) m = stored (32 * q + e) j) ∧
        cut img (32 * m * kk + 8 * (j * (kk / 32) + q)) 8 = if t.has (k0 + 32 * q) (col0 + j) then scale (32 * q) j 1 else 0) ∧
      (sparse = true → ∀ g < kk / 4, ∀ j < 32, ∃ q r, q < r ∧ r < 4 ∧
        (∀ i < 4, nonzero (4 * g + i) j → i = q ∨ i = r) ∧
        (∀ i, i = q ∨ i = r → ¬nonzero (4 * g + i) j → ∀ l < i, l = q ∨ l = r) ∧
        cut img (16 * w * kk + 4 * (32 * g + j)) 4 = q + 4 * r ∧
        (nonzero (4 * g + q) j → cut img (32 * w * (2 * g) + w * j) w = stored (4 * g + q) j) ∧
        (¬nonzero (4 * g + q) j → cut img (32 * w * (2 * g) + w * j) w = 0) ∧
        (nonzero (4 * g + r) j → cut img (32 * w * (2 * g + 1) + w * j) w = stored (4 * g + r) j) ∧
        (¬nonzero (4 * g + r) j → cut img (32 * w * (2 * g + 1) + w * j) w = 0))

/-- R257, R260, R262 to R265, R267, R270 to R274, R281 to R284: the matrix queues, the array, and the results of the matrix commands. Where it goes beyond the
manual's words it rests on the model's choices of logs 46 and 47. -/
def Obligations.MatrixResults : Prop :=
  Claim.matrixQueue ∧ Claim.arrayPower ∧ Claim.arrayStarts ∧ Claim.arbitration ∧ Claim.multiplyResults ∧ Claim.windowResults ∧
  Claim.panelResults

/-! The tensor table and the code table. -/

/-- R58, R68, R73, R75, R76: TRD of a cached entry gives the word of its image that g[b] names; LUTLD sets the code table and LUTRD reads its halves; TINV
of a scope of one tile drops the tile's entry at once, and of a wider one posts the drop and waits until every tile has let it
go; TDEF writes the image to the entry's place and drops the tile's copy. While TTBASE.EN is 0 TDEF and TRD raise TENSOR 0.7. Where it goes beyond the manual's words it rests on
the model's choices of log 13. -/
def Obligations.TensorResults : Prop :=
  (∀ (s : State) (d a b : Reg) (x : Nat × Nat × BitVec 512), s.ready [a, b] [d] = true → s.th.ttbase.getLsbD 0 = true →
    (s.myTile.tcache.find? fun e => e.1 == wfield s.th.asid 13 0 && e.2.1 == wfield (s.rd a) 11 0) = some x →
    exec (.trd d a b) s = .next (s.finish 4 [a, b] [(d, x.2.2.extractLsb' (64 * wfield (s.rd b) 2 0) 64)])) ∧
  (∀ (s : State) (a b : Reg), s.ready [a, b] [] = true →
    exec (.lutld a b) s = .next ((s.modCore fun c => { c with codes := s.rd b ++ s.rd a }).finish 4 [a, b] [])) ∧
  (∀ (s : State) (d a : Reg) (lo hi : Word), s.ready [a] [d] = true → s.myCore.codes = hi ++ lo →
    exec (.lutrd d a) s = .next (s.finish 4 [a] [(d, if (s.rd a).getLsbD 0 then hi else lo)])) ∧
  (∀ (s : State) (a : Reg) (c : BitVec 3), s.ready [a] [] = true → s.th.posted = none → c.toNat < 3 →
    ∃ t : State, exec (.tinv a c) s = .next (t.finish 4 [a] []) ∧ t.th = s.th ∧ t.mem = s.mem ∧
      ∀ e, e ∈ t.myTile.tcache ↔ e ∈ s.myTile.tcache ∧
        ¬(e.1 = wfield s.th.asid 13 0 ∧ ((s.rd a).getLsbD 12 = true ∨ e.2.1 = wfield (s.rd a) 11 0))) ∧
  (∀ (s : State) (a : Reg) (c : BitVec 3), s.ready [a] [] = true → s.th.posted = none → 3 ≤ c.toNat →
    ∃ (t : State) (d : Drop), exec (.tinv a c) s = .next t ∧ t.drops = s.drops ++ [d] ∧ d.id = s.fresh ∧ t.th.posted = some s.fresh ∧
      t.th.wait = some .memoryReply ∧ t.th.pc = s.th.pc ∧ d.targets = (scopeTiles c.toNat (tileOf s.cur)).filter (· != tileOf s.cur) ∧
      t.mem = s.mem) ∧
  (∀ (s : State) (a : Reg) (c : BitVec 3) (n : Nat), s.ready [a] [] = true → s.th.posted = some n →
    (∀ d ∈ s.drops, d.id = n → d.targets = []) →
    exec (.tinv a c) s = .next (({ s with drops := s.drops.filter fun d => d.id != n } : State).finish 4 [a] [])) ∧
  (∀ (s : State) (i t : Nat) (d : Drop), s.nextTarget i true = some (d, t) →
    ∃ u : State, exec (.tensorCacheDrop i) s = .next u ∧ u.th = s.th ∧ u.mem = s.mem ∧
      ∀ e, e ∈ (u.tile t).tcache ↔ e ∈ (s.tile t).tcache ∧ ¬(e.1 = d.asid ∧ (d.page = 4096 ∨ e.2.1 = d.page))) ∧
  (∀ (s u v : State) (a b : Reg) (bs : List Byte) (l : Loc), s.ready [a, b] [] = true → s.th.ttbase.getLsbD 0 = true →
    readMem (s.rd b) 0#2 64 false s = .ok (bs, u) →
    ((BitVec.ofNat 512 (leNat bs)).getLsbD 319 = true → tensorCheck (BitVec.ofNat 512 (leNat bs)) = none) →
    locate (BitVec.ofNat 64 (wfield s.th.ttbase 55 18 * 2 ^ 18 + 64 * wfield (s.rd a) 11 0)) 0#2 64 .store u = .ok (l, v) →
    v.myCore.vq = [] → v.th.sb = [] → v.stopped l.pa = false →
    let h := v.homeLines (.slot v.cur) v.requester l.pa 64 true
    h.2 = true → h.1.poisonNarrow l.pa 64 = false → h.1.th.asid = s.th.asid →
    let w := (h.1.perform l.pa bs).modTile fun t => t.dropTensors (wfield s.th.asid 13 0) (wfield (s.rd a) 11 0)
    exec (.tdef a b) s = .next ((w.storeStales w.cur l.pa 64).finish 4 [a, b] [])) ∧
  (∀ (s : State) (d a b : Reg), s.ready [a, b] [d] = true → s.th.ttbase.getLsbD 0 = false → s.myEntry = none → s.th.exl = false →
    exec (.trd d a b) s = .next (s.trapped 0 7 (s.rd a)) ∧ exec (.tdef a b) s = .next (s.trapped 0 7 (s.rd a)))

/-! The stack engines. -/

/-- R105 to R109, R115: a stack command whose tensor resolves and whose lists lie in local memory is taken where its queue has room, q[x] set and PEND
raised, and its serving die fixed by the frame its tensor's BASE names; a count of 0 completes at once; without room q[x] is cleared and nothing
else is done, or with x = 0 BUSY 6.31 is raised. -/
def Sys2Proof.Claim.stackAcceptance : Prop :=
  ∀ (s : State) (i : Instr) (x : BitVec 3) (ch : Option Nat) (a b : Reg) (e : BitVec 512) (f : BitVec 512) (es : List (BitVec 512)) (die : Nat),
    s.ready [a, b] [] = true → s.speculative = false → s.resolved (wfield (s.rd a) 11 0) e → s.servedBy e die →
    ((∃ c : BitVec 4, i = .sgath x c a b ∧ ch = some c.toNat ∧ es = [e] ∧ listsFit (Tensor.ofEntry e) (s.rd a) (s.rd b) = true) ∨
     (i = .sscat x a b ∧ ch = none ∧ es = [e] ∧ listsFit (Tensor.ofEntry e) (s.rd a) (s.rd b) = true ∧ (Tensor.ofEntry e).wprot = false) ∨
     (∃ o, i = .sred x a b o ∧ ch = none ∧ es = [e] ∧ listsFit (Tensor.ofEntry e) (s.rd a) (s.rd b) = true ∧
       (Tensor.ofEntry e).wprot = false ∧ (Tensor.ofEntry e).format ∈ [2, 3, 6, 7, 10, 11]) ∨
     (i = .sconv x a b ∧ ch = none ∧ es = [e, f] ∧ s.resolved (wfield (s.rd a) 23 12) f ∧ (Tensor.ofEntry f).format ≠ 14 ∧
       wfield (s.rd b) 63 32 ≤ 4096 ∧ (wfield (s.rd a) 26 24 ≤ 4 ∨ wfield (s.rd a) 26 24 = 7) ∧ wfield (s.rd a) 63 28 = 0 ∧
       (Tensor.ofEntry e).rows = (Tensor.ofEntry f).rows ∧ (Tensor.ofEntry e).cols = (Tensor.ofEntry f).cols ∧
       sxbOf (Tensor.ofEntry e).format = none ∧ sxbOf (Tensor.ofEntry f).format = none ∧ (Tensor.ofEntry f).skind = 0 ∧
       (Tensor.ofEntry f).wprot = false ∧
       wfield (s.rd b) 31 0 + wfield (s.rd b) 63 32 ≤ (Tensor.ofEntry e).rows * (Tensor.ofEntry e).cols)) →
    (s.stackRoom ch = true → wfield (s.rd b) 63 32 ≠ 0 →
      exec i s = .next ((s.stacked i x ch (s.rd a) (s.rd b) es die).finish 4 [a, b] [])) ∧
    (s.stackRoom ch = true → wfield (s.rd b) 63 32 = 0 → exec i s = .next ((s.setQ x true).finish 4 [a, b] [])) ∧
    (s.stackRoom ch = false → x ≠ 0#3 → exec i s = .next ((s.setQ x false).finish 4 [a, b] [])) ∧
    (s.stackRoom ch = false → x = 0#3 → s.myEntry = none → s.th.exl = false → exec i s = .next (s.trapped 6 31 (s.rd a)))

/-- R111 to R118, R120: the head command of a stack queue takes its snapshot, for an SGATH the n indices of its list; an element whose index lies outside the
table delivers zero and sets OOB, or is not written; one inside is written; a command whose elements are done and whose bytes have
landed leaves the queue, PEND falling by 1 and its flags entering ESTAT. SSTAT reads ESTAT and clears its flags. -/
def Sys2Proof.Claim.stackEvents : Prop :=
  (∀ (s : State) (core : Nat) (c : Command) (l : List Command) (x : BitVec 3) (ch : BitVec 4) (a b : Reg), (s.core core).sq = c :: l →
    core < 4096 → core % 1024 < 576 → (∀ x ∈ s.transfers, x.seq = c.seq) → s.poison = [] → s.entries = [] → (∀ d, (s.die d).takeover = []) →
    c.frozen = none → c.snap = none → s.joinHeld c.slot c.seq 2 = false → s.storesBefore c.slot c.seq = true →
    c.instr = .sgath x ch a b → wfield c.ga 63 12 % 4 = 0 → wfield c.ga 63 12 + 4 * wfield c.gb 63 32 ≤ 0x40000 →
    let index (k : Nat) : Nat := leNat (s.bytes (window (globalCore core) + wfield c.ga 63 12 + 4 * k) 4)
    ∃ u : State, exec (.stackSnapshot core) s = .next u ∧ u.mem = s.mem ∧
      (u.core core).sq.head? = some { c with snap := some ((List.range (wfield c.gb 63 32)).map fun k => (index k, 0#64)), started := true }) ∧
  (∀ (s : State) (core : Nat) (c : Command) (l : List Command) (p : List (Nat × Word)) (e : Nat) (v : Word), (s.core core).sq = c :: l →
    c.frozen = none → c.snap = some p → p[c.done]? = some (e, v) →
    let t := Tensor.ofEntry (c.tensors.getD 0 0)
    (t.rows * t.cols ≤ e →
      (∀ x ch a b, c.instr = .sgath x ch a b → exec (.stackElement core) s =
        .next ((s.feedGather core c.seq (leBytes (t.w / 8) (if t.format = 15 then 0x0200000000000001 else 0))).stackDone core c 1 1)) ∧
      (∀ x a b, c.instr = .sscat x a b → exec (.stackElement core) s = .next (s.stackDone core c 1 1)) ∧
      (∀ x a b o, c.instr = .sred x a b o → exec (.stackElement core) s = .next (s.stackDone core c 1 1))) ∧
    (∀ u x a b, c.instr = .sscat x a b → e < t.rows * t.cols →
      (eStackWrite core c c.home t (e / t.cols) (e % t.cols) v.toNat).run' s = (u, .ok ()) →
      exec (.stackElement core) s = .next (u.stackDone core c 1 0))) ∧
  (∀ (s : State) (core : Nat) (c : Command) (l : List Command) (p : List (Nat × Word)) (fl : BitVec 2048), (s.core core).sq = c :: l →
    c.frozen = none → c.snap = some p → p.length ≤ c.done → (s.transfers.any (·.seq == c.seq)) = false → c.extra = [c.extra.headD 0, fl, 0, 0] →
    (∀ b ≥ 5, fl.getLsbD b = false) →
    ∃ u : State, exec (.stackCommandComplete core) s = .next u ∧ (u.core core).sq = (c :: l).filter (fun y => y.seq != c.seq) ∧
      (u.thread c.slot).pend 0#2 = (s.thread c.slot).pend 0#2 - 1 ∧
      (∀ b < 5, (u.thread c.slot).estat.getLsbD b = ((s.thread c.slot).estat.getLsbD b || fl.getLsbD b)) ∧ u.mem = s.mem) ∧
  (∀ (s : State) (a : Reg), s.ready [] [a] = true → s.speculative = false →
    ∃ t : State, exec (.sstat a) s = .next (t.finish 4 [] [(a, s.th.estat)]) ∧
      (∀ b, t.th.estat.getLsbD b = (decide (5 ≤ b) && s.th.estat.getLsbD b)) ∧ { t with th := { t.th with estat := s.th.estat } } = s)

/-- R93, R103, R114: a read of an element by a command's engine gives its bytes, and a write stores its bytes and nothing else, where its leaf has
been answered, its frame is one of the serving die and its line is free. -/
def Sys2Proof.Claim.stackAccesses : Prop :=
  ∀ (s : State) (core : Nat) (c : Command) (t : Tensor) (i j pa : Nat), 8 ≤ t.w → t.w % 8 = 0 →
    let n := t.w / 8
    let va := t.elemBit i j / 8
    (s.stackFree c va n .load pa → c.home pa = true →
      ∃ u : State, (eStackRead core c t i j).run' s = (u, .ok (leNat (s.bytes pa n))) ∧ u.mem = s.mem ∧ u.th = s.th) ∧
    (∀ (x : Nat) (ok : Nat → Bool), s.stackFree c va n .store pa → ok pa = true → Memory.wf s = true →
      ∃ u : State, (eStackWrite core c ok t i j x).run' s = (u, .ok ()) ∧ u.bytes pa n = leBytes n x ∧ sameMemoryBut pa n s u ∧ u.th = s.th)

/-- R115 to R117, R120: the head command's next element. SGATH feeds the element's bytes to its transfer; SRED writes what Combine makes of the element
and the value; SCONV writes what FCVT gives for the scaled value, or for a destination in block form the 32 mantissas that are not written
yet and then the exponent byte. The flags go to the places that ESTAT has for them. -/
def Sys2Proof.Claim.stackElements : Prop :=
  (∀ (fs rs : Word) (b : Nat), (engineFlags fs rs).getLsbD b =
    match b with
    | 1 => fs.getLsbD 0 || rs.getLsbD 0
    | 2 => fs.getLsbD 2 || rs.getLsbD 2
    | 3 => fs.getLsbD 1 || rs.getLsbD 1
    | 4 => fs.getLsbD 4 || rs.getLsbD 3
    | _ => false) ∧
  ∀ (s : State) (core : Nat) (c : Command) (l : List Command) (p : List (Nat × Word)) (e : Nat) (v : Word), (s.core core).sq = c :: l →
    c.frozen = none → c.snap = some p → p[c.done]? = some (e, v) →
    let t := Tensor.ofEntry (c.tensors.getD 0 0)
    let d := Tensor.ofEntry (c.tensors.getD 1 0)
    (∀ u b x ch a1 a2, c.instr = .sgath x ch a1 a2 → e < t.rows * t.cols → (eStackRead core c t (e / t.cols) (e % t.cols)).run' s = (u, .ok b) →
      exec (.stackElement core) s = .next ((u.feedGather core c.seq (leBytes (t.w / 8) b)).stackDone core c 1 0)) ∧
    (∀ (u w : State) (old : Nat) (x : BitVec 3) (a1 a2 : Reg) (o : BitVec 3), c.instr = .sred x a1 a2 o → t.format ∈ [2, 3, 6, 7, 10, 11] →
      o.toNat % 4 < 3 → e < t.rows * t.cols →
      let r := combineRule t.format (o.toNat % 4) (o.getLsbD 2) old v.toNat
      (eStackRead core c t (e / t.cols) (e % t.cols)).run' s = (u, .ok old) →
      (eStackWrite core c c.home t (e / t.cols) (e % t.cols) r.1).run' u = (w, .ok ()) →
      exec (.stackElement core) s = .next (w.stackDone core c 1 (engineFlags r.2 0))) ∧
    (∀ x a1 a2, c.instr = .sconv x a1 a2 →
      let rm := if wfield c.ga 26 24 = 7 then wfield c.frm 2 0 else wfield c.ga 26 24
      let ovs := c.ga.getLsbD 27
      let k := wfield c.gb 31 0 + c.done
      let value := t.value c.codes v.toNat e
      (sxbOf d.format = none → ∀ (w : State) (r : Nat) (fs rs : Word),
        (∃ sg n, intFmtOf d.format = some (sg, n) ∧ rs = 0 ∧
          let y := toInteger sg n (if t.format = 15 ∧ rm = 4 then 0 else rm) value
          r = ofSigned n y.1 ∧ fs = if y.2.1 = false ∧ y.2.2 = true then 1 else 0) ∨
        (intFmtOf d.format = none ∧ t.format = d.format ∧ t.skind = 0 ∧ r = canonicalise d.format v.toNat ∧ fs = 0 ∧ rs = 0) ∨
        (intFmtOf d.format = none ∧ (t.format ≠ d.format ∨ t.skind ≠ 0) ∧ t.makesNan c.codes v.toNat e = false ∧
          (r, fs, rs) = toFloat d.format rm ovs value) →
        (eStackWrite core c inHbm d (k / d.cols) (k % d.cols) r).run' s = (w, .ok ()) →
        exec (.stackElement core) s = .next (w.stackDone core c 1 (engineFlags fs rs))) ∧
      (∀ (m pa : Nat) (u w : State) (xs : List Machine.Num), sxbOf d.format = some m →
        xs = (List.range 32).map (fun i => t.value c.codes (p.getD (c.done + i) (0, 0#64)).2.toNat (p.getD (c.done + i) (0, 0#64)).1) →
        (∀ i < 32, t.makesNan c.codes (p.getD (c.done + i) (0, 0#64)).2.toNat (p.getD (c.done + i) (0, 0#64)).1 = false) →
        let r := sxbEncode xs m rm ovs
        (seqE ((r.2.1.zipIdx.drop c.part).map fun y => do
          eStackWrite core c inHbm d ((k + y.2) / d.cols) ((k + y.2) % d.cols) y.1
          modify fun s => s.setStack core { c with part := y.2 + 1 })).run' s = (u, .ok ()) →
        (eStack (c.issuer core) (c.serving core) inHbm (d.scaleAddr (k / d.cols) (k % d.cols)) 1 .store c.seq).run' u = (w, .ok pa) →
        exec (.stackElement core) s = .next ((w.perform pa [BitVec.ofNat 8 r.1]).stackDone core c 32 (engineFlags r.2.2 0))))

/-- R105 to R120: the stack engines. Where it goes beyond the manual's words it rests on
the model's choices of logs 45, 59 to 61, 100, 104 and 105. -/
def Obligations.StackResults : Prop := Claim.stackAcceptance ∧ Claim.stackEvents ∧ Claim.stackAccesses ∧ Claim.stackElements

/-! Copy channels. -/

/-- R157, R162 to R164, R166: a copy whose descriptor passes its limits opens a transfer on its channel where the channel has room, q[x] set and PEND
raised; without room q[x] is cleared and nothing else is done, or with x = 0 CHBUSY 4.24 is raised; a limit that fails raises OPERAND
4.5 with TVAL g[a]. -/
def Sys2Proof.Claim.copyAcceptance : Prop :=
  (∀ (s : State) (x : BitVec 3) (c : BitVec 4) (a b : Reg), s.ready [a, b] [] = true → s.speculative = false →
    let d : CopyDesc := { src := (s.rd a).toNat, dst := wfield (s.rd b) 31 0, len := wfield (s.rd b) 63 32, ssp := 0, dsp := 1, ep := 0
                          push := false, qid := 0, reserved := false }
    (d.len ≤ 8388608 → d.src + d.len ≤ 2 ^ 56 → d.dst + d.len ≤ 0x40000 →
      ((s.myTile.chan c.toNat).room = true → exec (.cpy x c a b) s = .next ((s.copying x c.toNat d).finish 4 [a, b] [])) ∧
      ((s.myTile.chan c.toNat).room = false → x ≠ 0#3 → exec (.cpy x c a b) s = .next ((s.setQ x false).finish 4 [a, b] [])) ∧
      ((s.myTile.chan c.toNat).room = false → x = 0#3 → s.myEntry = none → s.th.exl = false →
        exec (.cpy x c a b) s = .next (s.trapped 4 24 (s.rd a)))) ∧
    (8388608 < d.len ∨ 0x40000 < d.dst + d.len → s.myEntry = none → s.th.exl = false →
      exec (.cpy x c a b) s = .next (s.trapped 4 5 (s.rd a)))) ∧
  (∀ (s : State) (x : BitVec 3) (c : BitVec 4) (a : Reg), s.ready [a] [] = true → s.speculative = false → s.still → slotOk s.cur = true →
    (s.rd a).toNat % 32 = 0 → (s.rd a).toNat + 32 ≤ 0x40000 →
    let d := CopyDesc.ofBits (BitVec.ofNat 256 (leNat (s.loadBytes (s.myWindow + (s.rd a).toNat) 32)))
    s.copyLimits d = true → d.push = false → d.ssp ≠ 2 → d.ssp ≠ 3 → d.dsp ≠ 2 → d.dsp ≠ 3 → (s.myTile.chan c.toNat).room = true →
    exec (.cpya x c a) s = .next ((s.copying x c.toNat d).finish 4 [a] [])) ∧
  (∀ (s : State) (x : BitVec 3) (c : BitVec 4) (a b : Reg) (e : BitVec 512), s.ready [a, b] [] = true → s.speculative = false →
    s.resolved (wfield (s.rd a) 11 0) e → (s.myTile.chan c.toNat).room = true →
    let t := Tensor.ofEntry e
    let nrow := wfield (s.rd b) 47 32
    let ncol := wfield (s.rd b) 63 48
    let dst := wfield (s.rd b) 31 0
    let len := nrow * ncol * (t.w / 8)
    wfield (s.rd a) 63 53 = 0 → 8 ≤ t.w → sxbOf t.format = none → len ≤ 8388608 → dst + len ≤ 0x40000 →
    wfield (s.rd a) 31 12 + nrow ≤ t.rows → wfield (s.rd a) 51 32 + ncol ≤ t.cols →
    let p : State := { s with fresh := s.fresh + 1 }
    let x_ := { p.gatherTransfer s.fresh dst len with ssp := 8, perm := some (p.command (.cperm x c a b) s.fresh (s.rd a) (s.rd b) [e]) }
    exec (.cperm x c a b) s = .next (((p.openTransfer c.toNat x_).setQ x true).finish 4 [a, b] [])) ∧
  (∀ (s : State) (x : BitVec 3) (c : BitVec 4) (a b : Reg) (i : Instr) (es : List (BitVec 512)), s.ready [a, b] [] = true →
    s.speculative = false → s.still → slotOk s.cur = true → s.th.flt 3#2 = false →
    (s.rd a).toNat % 32 = 0 → (s.rd a).toNat + 32 ≤ 0x40000 → (s.rd b).toNat % 8 = 0 → (s.rd b).toNat + 24 ≤ 0x40000 →
    let bytes (off n : Nat) : Nat := leNat (s.loadBytes (s.myWindow + off) n)
    let d := CopyDesc.ofBits (BitVec.ofNat 256 (bytes (s.rd a).toNat 32))
    let r := s.loadBytes (s.myWindow + (s.rd b).toNat) 24
    let fa := BitVec.ofNat 64 (leNat ((r.drop 8).take 8))
    let fb := BitVec.ofNat 64 (leNat ((r.drop 16).take 8))
    s.copyLimits d = true → d.push = false → d.ssp ≠ 2 → d.ssp ≠ 3 → d.dsp ≠ 2 → d.dsp ≠ 3 → (s.myTile.chan c.toNat).room = true →
    leNat ((r.drop 4).take 4) = 0 → followOn (BitVec.ofNat 32 (leNat (r.take 4))) = some i → matrixChecks i fa fb (s.rd a) s = .ok (es, s) →
    let p : State := { s with fresh := s.fresh + 2 }
    let y := { p.newTransfer s.fresh d with follow := some (p.command i (s.fresh + 1) fa fb es) }
    let q := (p.openTransfer c.toNat y).setQ x true
    exec (.cpymx x c a b) s = .next (({ q with th := q.th.pendUp 3#2 } : State).finish 4 [a, b] []))

/-- R168, R169: CWM gives the current transfer's watermark, or the end of the last one; CWAIT ends where every byte below its limit has landed, and
otherwise waits; CSTOP stops the thread's open transfers of a channel, waits while one of them has a request outstanding, and then ends them. -/
def Sys2Proof.Claim.copyControl : Prop :=
  (∀ (s : State) (c : BitVec 4) (a : Reg), s.ready [] [a] = true → s.speculative = false →
    (∀ t, (s.myTile.chan c.toNat).current = some t →
      exec (.cwm c a) s = .next (s.finish 4 [] [(a, BitVec.ofNat 64 (if t.stopped.isSome then t.dst + t.len else t.dst + t.written))])) ∧
    ((s.myTile.chan c.toNat).current = none → exec (.cwm c a) s = .next (s.finish 4 [] [(a, (s.myTile.chan c.toNat).lastEnd)]))) ∧
  (∀ (s : State) (c : BitVec 4) (a : Reg), s.ready [a] [] = true → s.speculative = false → s.th.posted = none → s.th.flt 1#2 = false →
    ((∀ t ∈ (s.myTile.chan c.toNat).transfers, t.finishing = true ∨ t.stopped.isSome = true ∨ t.stream.isSome = true ∨
        min (s.rd a).toNat (t.dst + t.len) ≤ t.dst + t.written) → exec (.cwait c a) s = .next (s.finish 4 [a] [])) ∧
    (∀ t ∈ (s.myTile.chan c.toNat).transfers, t.seq < s.fresh → t.finishing = false → t.stopped = none → t.stream = none →
      t.dst + t.written < (s.rd a).toNat → t.written < t.len →
      exec (.cwait c a) s = .next { s with th := { s.th with posted := some s.fresh, wait := some .cwait } })) ∧
  (∀ (s : State) (c : BitVec 4) (a : Reg), s.ready [a] [] = true → s.speculative = false → s.rd a = 0#64 →
    let ts := (s.myTile.chan c.toNat).transfers
    (ts.map (·.seq)).Nodup →
    ((∀ y ∈ ts, Transfer.stoppable ts s.cur y = true → s.requestsOut y = false) →
      ∃ t : State, exec (.cstop c a) s = .next (t.finish 4 [a] []) ∧
        (t.myTile.chan c.toNat).transfers = ts.filter (fun y => !Transfer.stoppable ts s.cur y) ∧ t.mem = s.mem) ∧
    ((∃ y ∈ ts, Transfer.stoppable ts s.cur y = true ∧ s.requestsOut y = true) →
      ∃ t : State, exec (.cstop c a) s = .next t ∧ t.th.wait = some .memoryReply ∧ t.th.pc = s.th.pc ∧ t.mem = s.mem ∧
        (t.myTile.chan c.toNat).transfers =
          ts.map (fun y => if Transfer.stoppable ts s.cur y = true then { y with stopped := some s.cur, frozen := none } else y)))

/-- R173, R174: CSTRM and CSTRMX of a pattern and a ring that pass their limits open a transfer and put their register in stream mode. -/
def Sys2Proof.Claim.streamStarts : Prop :=
  ∀ (s : State) (x : BitVec 3) (c : BitVec 4) (a b : Reg) (output : Bool) (i : Instr),
    (i = .cstrm x c a b ∧ output = false) ∨ (i = .cstrmx x c a b ∧ output = true) →
    s.ready [a, b] [] = true → s.speculative = false → s.still → slotOk s.cur = true →
    (s.rd a).toNat % 32 = 0 → (s.rd a).toNat + 32 ≤ 0x40000 →
    let pat : BitVec 256 := BitVec.ofNat 256 (leNat (s.loadBytes (s.myWindow + (s.rd a).toNat) 32))
    let ring := wfield (s.rd b) 31 0
    let size := wfield (s.rd b) 63 32
    wfield pat 111 67 = 0 → wfield pat 63 0 % 2 ^ wfield pat 65 64 = 0 → ring % 64 = 0 → (∃ k, 8 ≤ k ∧ k ≤ 16 ∧ size = 2 ^ k) →
    ring + size ≤ 0x40000 → get8 s.th.streams x = none → s.coreStreams (coreOf s.cur) = [] → x.toNat < 4 ∨ 0 < s.th.grant →
    (s.myTile.chan c.toNat).room = true →
    ∃ t : State, exec i s = .next (t.finish 4 [] []) ∧ t.queues = (s.popSources [a, b]).queues ∧ t.mem = s.mem ∧ t.th.g = s.th.g ∧
      get8 t.th.streams x = some { output := output, ch := c.toNat, pat := pat, ring := ring, size := size, moved := 0, used := 0 } ∧
      (∀ y, y ≠ x → get8 t.th.streams y = get8 s.th.streams y) ∧ t.th.pend 1#2 = (s.th.pend 1#2 + 1) % 128

/-- R157, R162 to R164, R166, R168, R169, R173, R174: copy instructions at issue. Where it goes beyond the manual's words it rests on
the model's choices of logs 23, 63, 83 and 88. -/
def Obligations.CopyAcceptance : Prop := Claim.copyAcceptance ∧ Claim.copyControl ∧ Claim.streamStarts

/-- R158, R164: the head transfer of a channel starts when no join holds it and its thread's earlier stores have performed; bytes land in ascending order:
those of a line of local memory that returns go on to their places, at most 64 of them, the watermark rising past them, and the rest are held; a transfer whose bytes have all landed leaves the
channel, its end kept for CWM, and PEND falls by 1. -/
def Sys2Proof.Claim.transferEvents : Prop :=
  (∀ (s : State) (tile ch : Nat) (t : Transfer) (l : List Transfer), ((s.tile tile).chan ch).transfers = t :: l → t.started = false →
    s.joinHeld t.slot t.seq (16 + ch) = false → s.storesBefore t.slot t.seq = true →
    let u := s.modTransfer tile ch t.seq fun y => { y with started := true, bytewise := t.stream.isNone && s.selfOverlaps t }
    exec (.transferStart tile ch) s = .next (if t.ssp = 5 then { u with sent := u.sent ++ [.read t.ep t.src t.len] } else u)) ∧
  (∀ (s : State) (tile ch : Nat) (t : Transfer), Memory.wf s = true → ch < 16 → s.channelHead tile ch t → s.transfers = [t] → s.poison = [] →
    s.entries = [] → (∀ d, (s.die d).takeover = []) → t.core < 4096 → t.core % 1024 < 576 → t.perm = none → t.unacked = [] → t.early = [] →
    t.within t.ssp t.src → t.within t.dsp t.dst → t.written < t.len →
    (t.bytewise = true ∧ t.len = t.written + 1) ∨
      (t.bytewise = false ∧ t.chunk t.written = t.written ∧ (t.src + t.written) / 128 = (t.src + t.len - 1) / 128) →
    let n := min 64 (t.len - t.written)
    let from_ (k : Nat) : Nat := t.place t.ssp (t.src + t.written + k)
    let place (k : Nat) : Nat := t.place t.dsp (t.dst + t.written + k)
    ∃ u : State, exec (.lineReturn tile ch) s = .next u ∧ (∀ k < n, u.byte (place k) = s.byte (from_ k)) ∧
      (∀ a, (∀ k < n, a ≠ place k) → u.byte a = s.byte a) ∧
      u.performing tile ch = some { t with
        written := t.written + n
        early := if t.written + n = t.len then []
          else [(t.written, (List.range (t.len - t.written)).map fun k => s.byte (from_ k))] }) ∧
  (∀ (s : State) (tile ch : Nat) (t : Transfer), ch < 16 → s.channelHead tile ch t → t.written = t.len →
    (t.push = false → t.follow = none →
      ∃ u : State, exec (.transferComplete tile ch) s = .next u ∧
        ((u.tile tile).chan ch).transfers = ((s.tile tile).chan ch).transfers.filter (fun y => y.seq != t.seq) ∧
        ((u.tile tile).chan ch).lastEnd = BitVec.ofNat 64 (t.dst + t.len) ∧
        (u.thread t.slot).pend 1#2 = (s.thread t.slot).pend 1#2 - 1 ∧ u.mem = s.mem) ∧
    (t.push = true →
      ∃ u : State, exec (.transferComplete tile ch) s = .next u ∧
        ((u.tile tile).chan ch).transfers.head? = some { t with finishing := true } ∧
        (u.thread t.slot).pend 1#2 = (s.thread t.slot).pend 1#2 - 1 ∧ u.mem = s.mem))

/-- R157, R164, R165, R275, R405: a completed transfer pushes its handle word, LEN above the low 40 bits of DST, into its queue once that has room, and places
its follow-on in the issuing core's matrix queue once that has room; an acknowledged packet of a remote transfer lands its bytes, and a
NAK or exhausted retries end it with 1.7 held, or leave a stopped one with no request outstanding. -/
def Sys2Proof.Claim.channelFollowUps : Prop :=
  (∀ (s : State) (tile ch : Nat) (t : Transfer) (l : List Transfer) (q : HwQueue), ((s.tile tile).chan ch).transfers = t :: l →
    t.finishing = true → t.push = true → t.follow = none → s.queue t.qid = some q → q.canPush = true →
    let handle : Word := BitVec.ofNat 64 (t.len % 2 ^ 24 * 2 ^ 40 + t.dst % 2 ^ 40)
    let u : State := { s with queues := assocSet t.qid.toNat (q.push handle) s.queues }
    exec (.handlePush tile ch) s = .next (u.dropHead tile ch)) ∧
  (∀ (s : State) (tile ch : Nat) (t : Transfer) (l : List Transfer) (c : Command), ((s.tile tile).chan ch).transfers = t :: l →
    t.finishing = true → t.push = false → t.follow = some c → c.slot = t.slot → (s.core t.core).mq.length < 16 →
    ∃ u : State, exec (.followOnPlacement tile ch) s = .next u ∧ (u.core t.core).mq = (s.core t.core).mq ++ [c] ∧ u.mem = s.mem ∧
      (ch < 16 → ((u.tile tile).chan ch).transfers = l)) ∧
  (∀ (s : State) (tile ch n : Nat) (t : Transfer) (l : List Nat), s.onLinks tile ch = some t → t.unacked = n :: l →
    exec (.remoteWriteAck tile ch false) s =
      .next (s.modTransfer tile ch t.seq fun y => { y with written := y.written + n, unacked := l }) ∧
    (t.stopped.isSome = true → ∀ i ∈ [Instr.remoteWriteAck tile ch true, Instr.rdmaRetriesExhausted tile ch],
      exec i s = .next (s.modTransfer tile ch t.seq fun y => { y with unacked := [], started := false })) ∧
    (t.dsp = 5 → t.stopped = none → get4 (s.thread t.slot).held 1#2 = none → t.stream = none → t.follow = none →
      ∃ u : State, exec (.remoteWriteAck tile ch true) s = .next u ∧ exec (.rdmaRetriesExhausted tile ch) s = .next u ∧
        get4 (u.thread t.slot).held 1#2 = some { code := 1 * 64 + 7, addr := BitVec.ofNat 64 (t.dst + t.written), seq := t.seq } ∧
        (u.thread t.slot).flt 1#2 = true ∧ wfield (u.thread t.slot).cstat 9 6 = ch % 16 ∧ u.mem = s.mem))

/-- R175, R176: the channel of an input stream moves the next element of the pattern into the ring while the ring has room, and that of an output stream moves
the next pushed element to its address; each element's address is BASE plus its indices times the strides, modulo 2^64. -/
def Sys2Proof.Claim.streamEvents : Prop :=
  (∀ (x : Stream) (n : Nat), ∃ k : Int, (x.address n : Int) =
    (wfield x.pat 63 0 : Nat) + (n / (wfield x.pat 127 112 + 1) / (wfield x.pat 143 128 + 1) : Nat) * sfield x.pat 255 224 +
      (n / (wfield x.pat 127 112 + 1) % (wfield x.pat 143 128 + 1) : Nat) * sfield x.pat 223 192 +
      (n % (wfield x.pat 127 112 + 1) : Nat) * sfield x.pat 191 160 + k * 2 ^ 64) ∧
  (∀ (s u : State) (tile ch : Nat) (t : Transfer) (x : Stream) (r : BitVec 3), s.streaming tile ch = some (t, x, r) → x.output = false →
    x.moved < x.total → x.moved - x.used < x.capacity →
    (seqE ((List.range x.esize).map fun i => do
      let b ← xRead t (s.chanSeqs tile ch) 0 (x.address x.moved + i)
      xWrite tile ch t (s.chanSeqs tile ch) { lo := x.ringAt x.moved, n := x.esize } 1 (x.ringAt x.moved + i) b)).run' s = (u, .ok ()) →
    exec (.streamRefill tile ch) s = .next (u.streamMoved tile ch t r x)) ∧
  (∀ (s u : State) (tile ch : Nat) (t : Transfer) (x : Stream) (r : BitVec 3), s.streaming tile ch = some (t, x, r) → x.output = true →
    x.moved < x.used →
    (seqE ((List.range x.esize).map fun i => do
      let b ← xRead t (s.chanSeqs tile ch) 1 (x.ringAt x.moved + i)
      xWrite tile ch t (s.chanSeqs tile ch) { lo := x.address x.moved, n := x.esize } 0 (x.address x.moved + i) b)).run' s = (u, .ok ()) →
    (x.moved + 1 < x.total → exec (.streamDrain tile ch) s = .next (u.streamMoved tile ch t r x)) ∧
    (x.moved + 1 = x.total → ∃ v : State, exec (.streamDrain tile ch) s = .next v ∧ get8 (v.thread t.slot).streams r = none ∧
      v.mem = u.mem))

/-- R157, R158, R164, R165, R174 to R176, R275, R405: the events of copy channels and streams. Where it goes beyond the manual's words it rests on
the model's choices of logs 54, 63 and 99. -/
def Obligations.CopyResults : Prop := Claim.transferEvents ∧ Claim.channelFollowUps ∧ Claim.streamEvents

/-! Coherence. -/

/-- R131, R134 to R137: a request of a core for a line that is not busy climbs to the level that holds the permission it needs, and every directory on its way
sends down: together an INV to every other holder where it wants to write, and a FWD to an exclusive owner where it reads. An UPG whose
copy is lost is served as a GETM. Behind another transaction at its cluster's directory it waits in order of arrival; while the core's
writeback buffer holds the line it is not sent. -/
def Sys2Proof.Claim.coherenceRequests : Prop :=
  ∀ (s : State) (core line : Nat) (m : Miss) (w : Want) (i : Instr),
    (i = .gets core line ∧ w = .gets) ∨ (i = .getm core line ∧ w = .getm) ∨ (i = .upg core line ∧ w = .upg) →
    core < 4096 → core % 1024 < 576 → (s.core core).findMiss line (fun m => !m.sent && m.want == w) = some m →
    ((∀ x ∈ (s.core core).wbuf, x.1 ≠ line) → s.busy line = false → s.agreed line →
      ∃ (u : State) (t : Txn), exec i s = .next u ∧ u.txns = s.txns ++ [t] ∧ u.mem = s.mem ∧ u.th = s.th ∧
        t.line = line ∧ t.started = true ∧ t.asked = [] ∧ t.answers = [] ∧ t.mask = m.mask ∧ t.by_ = m.by_ ∧
        t.kind = .request core (if w = .upg ∧ mruFind line (s.core core).l1d = none then .getm else w) m.instr ∧
        (w ≠ .gets → ∀ x, x ∈ t.out ↔ ∃ h ∈ s.holders line, h ≠ core ∧ x = { core := h, fwd := false, late := s.lateBit h line }) ∧
        (w = .gets → ∀ x, x ∈ t.out ↔ ∃ h ∈ s.owners line, (h ≠ core ∨ m.instr = true) ∧ x = { core := h, fwd := true, late := false })) ∧
    (∀ t ∈ s.txns, (∀ x ∈ (s.core core).wbuf, x.1 ≠ line) → t.line = line → t.occupies (core / 32) = true → s.settled line →
      ∃ (u : State) (t' : Txn), exec i s = .next u ∧ u.txns = s.txns ++ [t'] ∧ t'.line = line ∧ t'.started = false ∧ t'.out = [] ∧
        t'.kind = .request core w m.instr ∧ u.mem = s.mem ∧ u.th = s.th) ∧
    ((∃ x ∈ (s.core core).wbuf, x.1 = line) → exec i s = .next s)

/-- R134, R136, R137, R140, R141, R335, R337: an INV takes the line out of the core's L1s, and with LATE keeps a fill on its way from being installed; an FWD
leaves the line in S, and waits for such a fill. Both are answered, with data where the copy was modified, but only once the speculative
tasks of the core that the message hits are aborted. An answer is counted once at each directory that it completes: at the core's cluster,
and where that has them all, and a message from above has reached it, the cluster's copies are gone and its die counts. -/
def Sys2Proof.Claim.coherenceAnswers : Prop :=
  (∀ (s : State) (core line : Nat) (fwd : Bool) (t : Txn),
    let sel (t : Txn) : Bool := t.out.any fun m => m.core == core && m.fwd == fwd
    let i : Instr := if fwd then .fwd core line else .inv core line
    s.findTxn line sel = some t →
    (s.messageHits t core fwd = [] → (fwd = true → s.lateBit core line = false) →
      ∃ u : State, exec i s = .next u ∧
        mruFind line (u.core core).l1d = (if fwd then (mruFind line (s.core core).l1d).map (fun _ => .s) else none) ∧
        (fwd = false → line ∉ (u.core core).l1i) ∧ (∀ k, k ≠ line → mruFind k (u.core core).l1d = mruFind k (s.core core).l1d) ∧
        (({ core := core, fwd := fwd, late := true } : DirMessage) ∈ t.out → ∀ m ∈ (u.core core).misses, m.line = line → m.granted.isSome = true → m.noInstall = true) ∧
        (({ core := core, fwd := fwd, late := true } : DirMessage) ∉ t.out → (u.core core).misses = (s.core core).misses) ∧
        (u.core core).wbuf = (s.core core).wbuf ∧ u.mem = s.mem ∧
        u.txns = (s.modTxn line sel fun t => { t with
          out := t.out.filter fun m => !(m.core == core && m.fwd == fwd), answers := t.answers ++ [(core, (s.core core).holdsM line)] }).txns) ∧
    (s.messageHits t core fwd ≠ [] → (fwd = true → s.lateBit core line = false) → exec i s = .next (s.abort (s.messageHits t core fwd))) ∧
    (fwd = true → s.lateBit core line = true → exec i s = .next s)) ∧
  (∀ (s : State) (core line : Nat) (t : Txn) (data : Bool), s.txns.filter (fun y => y.line == line) = [t] → t.started = true →
    t.asked = [] → t.out ≠ [] → (core, data) ∈ t.answers →
    let k := core / 32
    let die := 128 + core / 1024
    let down (k : Nat) (cs : List (Nat × Nat)) : List (Nat × Nat) := cs.map fun e => if e.1 = k then (k, e.2 - 1) else e
    let counting (cs : List (Nat × Nat)) : List Txn :=
      s.txns.map fun y => if y = t then { t with answers := t.answers.erase (core, data), counts := cs } else y
    ∃ u : State, exec (if data then .dack core line else .ack core line) s = .next u ∧ u.mem = s.mem ∧ u.th = s.th ∧
      (1 < assocGet 0 k t.counts → u.txns = counting (down k t.counts) ∧ (data = false → u = { s with txns := u.txns })) ∧
      (assocGet 0 k t.counts ≤ 1 → k ∈ t.held → u.txns = counting (assocErase k t.counts) ∧ (data = false → u = { s with txns := u.txns })) ∧
      (assocGet 0 k t.counts ≤ 1 → k ∉ t.held → 1 < assocGet 0 die (assocErase k t.counts) →
        u.txns = counting (down die (assocErase k t.counts)) ∧
        (t.kind.reads = false → mruFind (clusterKey line (k % 32)) (u.die (core / 1024)).cdir = none)))

/-- R126, R133 to R135, R140, R141: a transaction without outstanding answers ends with a grant to its core, M for a write, and for a read E where no other
cache holds the line and otherwise S, where every directory has room; otherwise it recalls a line first. A fill puts the granted line into
L1 unless an INV with LATE has passed it, and serves the loads that merged into it; an eviction notice removes the core where a pointer
records it and its instruction cache does not keep the line, and is answered; the answered copy leaves the writeback buffer. -/
def Sys2Proof.Claim.coherenceGrants : Prop :=
  (∀ (s : State) (core line : Nat) (t : Txn) (w : Want) (instr : Bool), s.findTxn line (·.grants core) = some t → t.kind = .request core w instr →
    (∀ m, s.txns.filter (fun y => y.line == line) = [t] → (s.roomFor core line).all (fun r => r == .free) = true →
      m ∈ (s.core core).misses → m.line = line → m.sent = true → m.granted = none → m.instr = instr →
      ∃ (u : State) (st : LineState), exec (.grant core line) s = .next u ∧ (∀ y ∈ u.txns, y.line ≠ line) ∧ u.mem = s.mem ∧ u.th = s.th ∧
        ((u.core core).misses.any fun y => y.line == line && y.granted == some st) = true ∧ (w ≠ .gets → st = .m) ∧
        (w = .gets → instr = false → s.alone core line → st = .e) ∧ (w = .gets → instr = true ∨ ¬s.alone core line → st = .s)) ∧
    (∀ v what, (s.roomFor core line).find? (fun r => r != .free) = some (.evict v what) → exec (.grant core line) s = .next (s.recall v what)) ∧
    ((s.roomFor core line).find? (fun r => r != .free) = some .full → exec (.grant core line) s = .next s)) ∧
  (∀ (s : State) (core line : Nat) (m : Miss) (st : LineState),
    ((s.core core).misses.find? fun m => m.line == line && m.granted.isSome) = some m → m.granted = some st →
    ∃ u : State, exec (.fill core line) s = .next u ∧ u.mem = s.mem ∧
      (m.noInstall = false → m.instr = false → mruFind line (u.core core).l1d = some st) ∧
      (m.noInstall = false → m.instr = true → line ∈ (u.core core).l1i) ∧
      (m.noInstall = true → (u.core core).l1d = (s.core core).l1d ∧ (u.core core).l1i = (s.core core).l1i) ∧
      (∀ h ∈ m.loads, (s.thread h).wait = some .memoryReply → (s.thread h).park = none → (u.thread h).served = some line)) ∧
  (∀ (s : State) (core line : Nat) (i : Instr) (st : LineState), (i = .pute core line ∧ st = .e) ∨ (i = .putm core line ∧ st = .m) →
    (line, st, false) ∈ (s.core core).wbuf → s.busy line = false →
    let entry := mruFind (clusterKey line (coreCluster core)) (s.die (coreDie core)).cdir
    ∃ u : State, exec i s = .next u ∧ (line, st, true) ∈ (u.core core).wbuf ∧ (line, st, false) ∉ (u.core core).wbuf ∧ u.mem = s.mem ∧
      ((s.core core).keepsInstr line = true ∨ (∃ e, entry = some e ∧ e.coarse = true) → (u.die (coreDie core)).cdir = (s.die (coreDie core)).cdir) ∧
      (∀ e e', entry = some e → e.coarse = false → (s.core core).keepsInstr line = false →
        mruFind (clusterKey line (coreCluster core)) (u.die (coreDie core)).cdir = some e' → coreInCluster core ∉ e'.ptrs)) ∧
  (∀ (s : State) (core line : Nat), exec (.wback core line) s =
    .next (s.setCore core { s.core core with wbuf := (s.core core).wbuf.filter fun w => !(w.1 == line && w.2.2) }))

/-- R139, R143: an access that performs at its home first has an INV sent to every holder of the line if it writes, and a FWD to an exclusive owner if it
reads, and is ready at once where there is none; a back-invalidate snoop of a CXL line at run time has an INV sent to every holder, and is
answered when no copy is left; behind another transaction at the home it waits. -/
def Sys2Proof.Claim.homeRequests : Prop :=
  (∀ (s : State) (line i : Nat) (write : Bool) (r : HomeReq), s.busy line = false → coherent (128 * line) = true → s.agreed line →
    (s.homeReqs.findIdx? fun r => r.line == line && r.write == write) = some i → s.homeReqs[i]? = some r →
    ∃ (u : State) (t : Txn), exec (.uncachedHomeAccess line write) s = .next u ∧ u.homeReqs = s.homeReqs.eraseIdx i ∧ u.mem = s.mem ∧
      u.txns = s.txns ++ [t] ∧ t.line = line ∧ t.kind = .home r.who write ∧ t.asked = [] ∧ t.ready = t.out.isEmpty ∧
      (write = true → ∀ x, x ∈ t.out ↔ ∃ h ∈ s.holders line, x = { core := h, fwd := false, late := s.lateBit h line }) ∧
      (write = false → ∀ x, x ∈ t.out ↔ ∃ h ∈ s.owners line, x = { core := h, fwd := true, late := false }) ∧
      (write = true → t.ready = true → u.holders line = [])) ∧
  (∀ (s : State) (line : Nat), (cxlPort (128 * line)).isSome = true →
    (s.phase = .run → s.busy line = false → s.agreed line → s.holders line = [] → ∃ u : State, exec (.bisnp line) s = .next u ∧ u.holders line = [] ∧
      u.sent = s.sent ++ [.birsp line false] ∧ u.txns = s.txns ∧ u.mem = s.mem) ∧
    (s.phase = .run → s.busy line = false → s.agreed line → s.holders line ≠ [] → ∃ (u : State) (t : Txn), exec (.bisnp line) s = .next u ∧
      u.txns = s.txns ++ [t] ∧ t.line = line ∧ t.kind = .snoop ∧ t.started = true ∧ t.asked = [] ∧
      (∀ x, x ∈ t.out ↔ ∃ h ∈ s.holders line, x = { core := h, fwd := false, late := s.lateBit h line }) ∧ u.sent = s.sent ∧ u.mem = s.mem) ∧
    (∀ t ∈ s.txns, s.phase = .run → t.line = line → t.occupies 132 = true → s.settled line → ∃ (u : State) (t' : Txn), exec (.bisnp line) s = .next u ∧
      u.txns = s.txns ++ [t'] ∧ t'.line = line ∧ t'.kind = .snoop ∧ t'.started = false ∧ u.sent = s.sent ∧ u.mem = s.mem) ∧
    (s.phase ≠ .run → ∃ u : State, exec (.bisnp line) s = .next u ∧ mruFind line u.pdir = none ∧ u.mem = s.mem ∧
      u.sent = s.sent ++ [.birsp line (s.fatal && (mruFind line s.pdir).any fun p => p.st == 2)])) ∧
  (∀ (s : State) (core line : Nat) (t : Txn), s.txns.filter (fun y => y.line == line) = [t] → t.kind = .snoop → t.started = true →
    t.asked = [] → t.out = [] → t.answers = [(core, false)] → ∃ u : State, exec (.ack core line) s = .next u ∧ u.holders line = [] ∧
      u.sent = s.sent ++ [.birsp line false] ∧ (∀ y ∈ u.txns, y.line ≠ line) ∧ u.mem = s.mem)

/-- R134 to R143: requests, answers, grants, fills, evictions and the accesses of homes. Where it goes beyond the manual's words it rests on
the model's choices of logs 62 and 91. -/
def Obligations.CoherenceResults : Prop :=
  Claim.coherenceRequests ∧ Claim.coherenceAnswers ∧ Claim.coherenceGrants ∧ Claim.homeRequests

/-! Reset and memory. -/

/-- R34, R36, R84, R153, R207, R283, R317, R323, R378, R379: after a device reset every slot is empty with its registers at 0 but for the values that the rules give:
q0 reads true and the others false, MODE is U and EE is 1, TIMECMP and VTIME are all ones, W of VSTAT is 2; SCOPE of PERMR and PERMW is
3; LIMIT of MBUDGET is 0xFFFF; TIME is 0. Where it goes beyond the manual's words it rests on
the model's choices of log 42. -/
def Obligations.ResetValues : Prop :=
  let s := State.reset
  (∀ h, (s.thread h).g = Vector.replicate 32 0#64 ∧ (s.thread h).v = Vector.replicate 32 0#2048 ∧ (s.thread h).k = Vector.replicate 8 0#64 ∧
    (s.thread h).bt = Vector.replicate 8 { target := 0#56, v := false, s := false, win := .none } ∧ (s.thread h).kind = .empty ∧
    (s.thread h).thstat = 8#64 ∧ (s.thread h).mode = 0#2 ∧ (s.thread h).timecmp = BitVec.allOnes 64 ∧
    (s.thread h).vtime = BitVec.allOnes 64 ∧ wfield (s.thread h).vstat 49 48 = 2 ∧ (s.thread h).asid = 0#64 ∧ (s.thread h).ptbase = 0#64 ∧
    (s.thread h).ttbase = 0#64 ∧ (s.thread h).frm = 0#64 ∧ (s.thread h).fstat = 0#64 ∧ (s.thread h).rstat = 0#64 ∧
    (s.thread h).tvec = 0#64 ∧ (s.thread h).epc = 0#64 ∧ (s.thread h).cause = 0#64 ∧ (s.thread h).tval = 0#64 ∧
    (∀ n, (get2 (s.thread h).loops n).lc = 0#32)) ∧
  (∀ i, s.q i = (i == 0#3)) ∧
  (∀ c, (s.core c).permr = 3#64 ∧ (s.core c).permw = 3#64 ∧ (s.core c).codes = 0#128 ∧ (∀ x, get8 (s.core c).acc x = 0#32768) ∧
    (∀ p, (s.core c).pred p = (p == 0#3))) ∧
  (∀ t, (s.tile t).mbudget = 0xFFFF000000000000#64 ∧ (s.tile t).array = .off ∧ (s.tile t).hold = 0) ∧ s.time = 0

/-- The memory after reset is in its canonical form, and so is that of every state in which memory lists nothing. Where it goes beyond the manual's words it rests on
the model's choices of log 58. -/
def Obligations.MemoryIsCanonicalAtReset : Prop :=
  Memory.wf State.reset = true ∧ ∀ s : State, s.mem = [] → Memory.wf s = true

/-- From every state whose memory is in canonical form, addresses strictly rising and no entry that is zero, a step leads only to states whose memory
is: equal memories stay equal data. Where it goes beyond the manual's words it rests on
the model's choices of log 58. -/
def Obligations.MemoryStaysCanonical : Prop :=
  ∀ s t : State, Memory.wf s = true → step s = .next t → Memory.wf t = true

/-! Bring-up, resets and firmware commands. -/

/-- R14, R396, R402, R409 to R412, R455: power-on and the states from ROMCHK to RUN: a cluster that fails its self-test is replaced by a spare, and the
relays of the diagonal pairs are picked, in training; a digest that does not match ends in HALT; an accepted configuration raises the rollback
counter to its version, records the owner key and begins INIT; at the first INIT HBM and local memory read 0. -/
def Sys2Proof.Claim.bringUp : Prop :=
  (∀ (s : State), ∃ u : State, exec .powerOn s = .next u ∧ u.phase = .romchk ∧ (∀ h, u.thread h = Thread.reset) ∧ (∀ c, u.core c = Core.reset) ∧
    (∀ t, u.tile t = Tile.reset) ∧ u.time = 0 ∧ u.queues = [] ∧ u.lqueues = [] ∧ u.rollback = s.rollback ∧ u.ownerKey = s.ownerKey) ∧
  (∀ (s : State), s.phase = .romchk → exec (.romchkComplete true) s = .next { s with phase := .train } ∧
    exec (.romchkComplete false) s = .next { s with phase := .failed }) ∧
  (∀ (s : State), s.phase = .train → (∀ d < 4, (s.die d).failedTest = []) → ∃ u : State, exec .trainingComplete s = .next u ∧ u.phase = .config ∧
    (∀ l : BitVec 2, (get4 u.links l).state = (if (get4 s.links l).state = .train then .up else (get4 s.links l).state)) ∧
    ((∀ l : BitVec 2, (get4 s.links l).state = .train) → u.relays = (1, 0)) ∧
    ((∀ l : BitVec 2, (get4 s.links l).state = if l = 0#2 then .down else .train) → u.relays = (2, 3))) ∧
  (∀ (s : State) (d c : Nat), s.phase = .train → d < 4 → (∀ e < 4, (s.die e).failedTest = if e = d then [c] else []) → 0 < (s.die d).spares →
    ∃ u : State, exec .trainingComplete s = .next u ∧ u.phase = .config ∧ (u.die d).spares = (s.die d).spares - 1 ∧
      assocFind c (u.die d).spareMap = some (20 - (s.die d).spares) ∧ u.mem = s.mem) ∧
  (∀ (s : State) (tile a : Nat), s.phase = .train → (s.die (tile / 128)).failedTest = [] →
    ∃ u : State, exec (.uncorrectableError 18 tile a) s = .next u ∧ (u.die (tile / 128)).failedTest = [logicalTile tile / 4] ∧
      u.phase = .train ∧ u.mem = s.mem) ∧
  (∀ (s : State) (h : CmdHeader) (b : BootConfig), s.phase = .config → s.hears h →
    let i : Instr := .bootcfg h b.version b.rdcGiB b.powerCap b.portMask b.ownerKey b.sigR b.sigS
    let good (k : BitVec 1064) : Prop := Config.verifies k b.digest b.sigR b.sigS = true
    let verified : Prop := good (s.ownerKey.getD b.ownerKey) ∨
      (Config.development = true ∧ s.ownerKey ≠ none ∧ ∃ k ∈ Config.developmentKeys, good k)
    ∃ (u : State) (c : Nat), exec i s = .next u ∧ (¬verified → u = s.answering 3 h 4 0 []) ∧
      (verified → (s.rollback ≤ b.version ∧ b.rdcGiB ∈ [0, 8, 16, 24, 32] ∧ 1500 ≤ b.powerCap ∧ b.powerCap ≤ 3000 ∧
          (s.ownerKey = none ∨ s.ownerKey = some b.ownerKey)) →
        u = { s.answering 3 h 0 0 [] with boot := some b, ownerKey := some b.ownerKey, rollback := b.version, rdcGiB := b.rdcGiB
                                          powerCap := b.powerCap, phase := .init }) ∧
      (verified → ¬(s.rollback ≤ b.version ∧ b.rdcGiB ∈ [0, 8, 16, 24, 32] ∧ 1500 ≤ b.powerCap ∧ b.powerCap ≤ 3000 ∧
          (s.ownerKey = none ∨ s.ownerKey = some b.ownerKey)) →
        u.sent = s.sent ++ [.answer 3 h 2 c []] ∧ u.rollback = s.rollback ∧ u.ownerKey = s.ownerKey ∧ u.boot = s.boot ∧ u.phase = .config)) ∧
  (∀ (s : State) (b : BootConfig), s.boot = some b → s.phase = .config → s.warm = true →
    ∃ u : State, exec .keptConfigurationReapplied s = .next u ∧ u.phase = .init ∧ u.rdcGiB = b.rdcGiB ∧ u.powerCap = b.powerCap) ∧
  (∀ (s : State), s.phase = .init →
    (s.warm = false → ∃ u : State, exec .initComplete s = .next u ∧ u.phase = .run ∧
      (∀ a, inHbm a = true ∨ inLm a = true → u.byte a = 0#8)) ∧
    (s.warm = true → ∃ u : State, exec .initComplete s = .next u ∧ u.phase = .run ∧ sameMemory s u))

/-- R145, R412, R455: an orderly reset is answered and leaves memory as the latest stores made it; a fatal one leaves what was last written back; either
puts every slot and core at its reset values; during a reset neither starts another. -/
def Sys2Proof.Claim.resets : Prop :=
  ∀ (s : State) (h : CmdHeader), s.phase ≠ .off → s.phase ≠ .failed → s.hears h →
    (s.resetting = false → ∃ u : State, exec (.resetOrderly h) s = .next u ∧ u.sent = s.sent ++ [.answer 0xF0 h 0 0 []] ∧ u.phase = .romchk ∧
      sameMemory s u ∧ (∀ h, u.thread h = Thread.reset) ∧ (∀ c, u.core c = Core.reset) ∧ u.ownerKey = s.ownerKey ∧ u.rollback = s.rollback) ∧
    (s.resetting = false → ∃ u : State, exec (.resetFatal h) s = .next u ∧ u.sent = s.sent ++ [.answer 0xF0 h 0 0 []] ∧ u.phase = .romchk ∧
      u.fatal = true ∧ (∀ h, u.thread h = Thread.reset) ∧ (∀ c, u.core c = Core.reset) ∧
      (Memory.wf s = true → (∀ a, (∀ b ∈ s.behind, a < 128 * b.1 ∨ 128 * b.1 + b.2.length ≤ a) → u.byte a = s.byte a) ∧
        ((s.behind.map (·.1)).Nodup → (∀ b ∈ s.behind, b.2.length = 128) → ∀ b ∈ s.behind, inHbm (128 * b.1) = true →
          u.bytes (128 * b.1) 128 = b.2))) ∧
    (s.resetting = true → exec (.resetOrderly h) s = .next (s.answering 0xF0 h 0 0 []) ∧
      exec (.resetFatal h) s = .next (s.answering 0xF0 h 0 0 []))

/-- R402, R403: a command frame whose reserved bytes are not zero or whose LEN is not the length received is answered with BADARG; one that has to wait
for an earlier frame of its queue pair changes nothing yet. -/
def Sys2Proof.Claim.frames : Prop :=
  ∀ (s : State) (i : Instr) (h : CmdHeader), commandHeader i = some h → h.port < 4 → s.phase ≠ .off → s.phase ≠ .failed →
    (s.commandWaits h = true → exec i s = .next s) ∧
    (s.commandWaits h = false → h.reserved ≠ 0 ∨ h.len ≠ h.received → ∃ (u : State) (op c : Nat), exec i s = .next u ∧
      u.sent = s.sent ++ [.answer op h 2 c []] ∧ c < 512 ∧ u.phase = s.phase ∧ u.mem = s.mem)

/-- R355, R363, R366, R400, R402 to R407, R413, R414: the firmware commands of a running device: what each answers and changes; a command of another
phase is answered NOTREADY, and an unknown one BADOP. -/
def Sys2Proof.Claim.commands : Prop :=
  ∀ (s : State) (h : CmdHeader), s.hears h → s.phase ≠ .off → s.phase ≠ .failed →
    (∀ op, exec (.badop h op) s = .next (s.answering op h 1 0 [])) ∧
    (exec (.identity h) s = .next (s.answering 1 h 0 0 ([0x46, 0x4A, 0x2D, 0x5A, 0x56, 0x34, 0x31, 0x32] ++
      (if Config.development then [0x44, 0x31, 1] else [0x41, 0x31, 0]) ++ Config.certificateChain.take 4085))) ∧
    (∀ n : BitVec 512, s.phase = .config ∨ s.phase = .run → ∃ (u : State) (ds state : List Byte) (k : Nat),
      let report := leBytes 64 n.toNat ++ leBytes 64 Config.romDigest.toNat ++ ds ++ state
      let sig := Config.sign Config.identitySecret report k
      exec (.attest h n) s = .next u ∧ u.mem = s.mem ∧
      u.sent = s.sent ++ [.answer 2 h 0 0 (report ++ (leBytes 66 sig.1.toNat).reverse ++ (leBytes 66 sig.2.toNat).reverse)] ∧ ds.length = 64 ∧
      (∀ b, s.boot = some b → ds = leBytes 64 b.digest.toNat) ∧ state.length = 32 ∧
      state.take 11 = (if Config.development then [0x44, 0x31, 1] else [0x41, 0x31, 0]) ++ leBytes 8 s.rollback) ∧
    (∀ (i : Instr) (op q : Nat) (d : BitVec 512), s.phase ∈ [.romchk, .train, .config, .init] →
      (i = .qdelete h q ∧ op = 0x12) ∨ (i = .qstatus h q ∧ op = 0x14) ∨ (i = .launch h q d ∧ op = 0x13) ∨ (i = .errlog h q ∧ op = 0x30) ∨
        (i = .cxlinfo h ∧ op = 0x32) → exec i s = .next (s.answering op h 3 0 [])) ∧
    (∃ bs, exec (.linkstat h) s = .next (s.answering 0x31 h 0 0 bs) ∧ bs.length = 36) ∧
    ((∀ d, (s.die d).spareMap = []) → ∃ bs, exec (.sparemap h) s = .next (s.answering 0x34 h 0 0 bs) ∧
      ∀ i < 72, bs[i]? = some (BitVec.ofNat 8 (i % 18))) ∧
    (s.phase = .run →
      (∀ asid pt tt mode w p first nt q, asid < 16384 → mode < 2 → 1 ≤ w → w ≤ 255 → p ≤ 3 → 1 ≤ nt → first + nt ≤ 288 →
        lowestFree 4096 (s.lqueues.map (·.1)) = some q →
        ∃ (u : State) (x : LQueue), exec (.qcreate h asid pt tt mode w p first nt) s = .next u ∧
          u.sent = s.sent ++ [.answer 0x10 h 0 0 (leBytes 4 q)] ∧ u.lqueue q = some x ∧ x.asid = asid ∧ x.weight = w ∧ x.maxPrio = p ∧
          x.first = first ∧ x.nt = nt ∧ x.launches = [] ∧ u.mem = s.mem) ∧
      (∀ q x w p, s.lqueue q = some x → 1 ≤ w → w ≤ 255 → p ≤ 3 →
        ∃ u : State, exec (.qset h q w p) s = .next u ∧ u.sent = s.sent ++ [.answer 0x11 h 0 0 []] ∧
          u.lqueue q = some { x with pending := some (w, p) } ∧ u.mem = s.mem) ∧
      (∀ q x, s.lqueue q = some x → s.queueHolds q = true → exec (.qdelete h q) s = .next (s.answering 0x12 h 5 0 [])) ∧
      (∀ q x, s.lqueue q = some x → s.queueHolds q = false →
        ∃ u : State, exec (.qdelete h q) s = .next u ∧ u.sent = s.sent ++ [.answer 0x12 h 0 0 []] ∧ u.lqueue q = none ∧ u.mem = s.mem) ∧
      (∀ q x d, s.lqueue q = some x → s.launchCheck q x d = none →
        (x.launches.length < 16 → exec (.launch h q d) s = .next (((s.taken h).acceptLaunch q x d).answerOk { op := 0x13, h := h } [])) ∧
        (16 ≤ x.launches.length → exec (.launch h q d) s = .next (s.answering 0x13 h 5 0 []))) ∧
      (∀ q x, s.lqueue q = some x → ∃ (u : State) (bs : List Byte), exec (.qstatus h q) s = .next u ∧
        u.sent = s.sent ++ [.answer 0x14 h 0 0 bs] ∧ bs.length = 16 ∧ bs.take 4 = leBytes 4 x.launches.length ∧
        u.lqueue q = some { x with record := none } ∧ u.mem = s.mem) ∧
      (∀ q i op d, s.lqueue q = none → (i = .qdelete h q ∧ op = 0x12) ∨ (i = .qstatus h q ∧ op = 0x14) ∨ (i = .launch h q d ∧ op = 0x13) →
        exec i s = .next (s.answering op h 2 (5 * 64 + 5) [])) ∧
      (∀ index port peer qp rkey asid, index < 65536 → port < 32 → asid < 16384 →
        ∃ (u : State) (k : Nat), exec (.epset h index port peer qp rkey asid) s = .next u ∧ u.sent = s.sent ++ [.answer 0x20 h 0 0 []] ∧
          assocFind index u.endpoints = some { port := port, peer := peer, qp := qp, rkey := rkey, asid := asid, mtu := 256 * 2 ^ k } ∧
          k ≤ 4 ∧ u.mem = s.mem) ∧
      (∀ asid base len r w, asid < 16384 → base < 2 ^ 56 → len ≤ 2 ^ 40 → s.regions = [] →
        ∃ (u : State) (k : Nat), exec (.mrreg h asid base len r w) s = .next u ∧ k < 65536 ∧
          u.sent = s.sent ++ [.answer 0x21 h 0 0 (leBytes 2 k)] ∧
          u.regions = [(k, { asid := asid, base := base, len := len, r := r, w := w })]) ∧
      (∀ n, (∀ d < 4, (s.die d).errlog = []) → s.losses = [] → s.fwlog.length ≤ n → ∃ (u : State) (bs : List Byte),
        exec (.errlog h n) s = .next u ∧ u.sent = s.sent ++ [.answer 0x30 h 0 0 bs] ∧ bs.length = 16 * s.fwlog.length ∧ u.fwlog = [] ∧
        u.mem = s.mem) ∧
      (∃ bs, exec (.cxlinfo h) s = .next (s.answering 0x32 h 0 0 bs) ∧ bs.length = 72) ∧
      (∀ cap, 1500 ≤ cap → cap ≤ 3000 → ∃ u : State, exec (.power h cap []) s = .next u ∧ u.powerCap = cap ∧
        u.sent = s.sent ++ [.answer 0x33 h 0 0 []] ∧ u.mem = s.mem) ∧
      (∀ cap g, 1500 ≤ cap → cap ≤ 3000 → g < 288 → s.tileInUse (tileKey g) = true →
        exec (.power h cap [g]) s = .next (s.answering 0x33 h 6 0 [])))

/-- R14, R145, R355, R363, R366, R396, R400, R402 to R407, R409 to R414, R455: bring-up, resets and the firmware commands. Where it goes beyond the manual's words it rests on
the model's choices of logs 4, 39, 77, 78 and 98. -/
def Obligations.FirmwareResults : Prop := Claim.bringUp ∧ Claim.resets ∧ Claim.frames ∧ Claim.commands

/-! Errors, links and packets. -/

/-- R144, R146, R147, R396, R398, R407, R413 to R415: a corrected error is counted; an uncorrectable error in local memory poisons the 8-byte word that holds it and
is logged as 7.16; a spare takes over its cluster's number; the states of a link and of a port; the power controller delays no tile while
the power is within the cap; a cluster's tiles that were to be gated and are not in use are gated, once their cores have no miss outstanding. -/
def Sys2Proof.Claim.hardwareEvents : Prop :=
  (∀ (s : State) (t : Nat), ∃ u : State, exec (.correctedError t) s = .next u ∧ (u.tile t).corrected = (s.tile t).corrected + 1 ∧
    u.mem = s.mem ∧ u.th = s.th) ∧
  (∀ (s : State) (t a : Nat), inLm a = true → (s.die (t / 128)).errlog.length < 64 →
    ∃ u : State, exec (.uncorrectableError 16 t a) s = .next u ∧ u.poison = (a / 8 * 8, 8) :: s.poison ∧ u.poisoned a 1 = true ∧ u.mem = s.mem ∧
      ((u.die (t / 128)).errlog.getLast?.map fun r => (r.code, r.tval)) = some (7 * 64 + 16, BitVec.ofNat 64 a)) ∧
  (∀ (s : State) (d c : Nat), c ∈ (s.die d).takeover → (s.die d).errlog.length < 64 →
    ∃ u : State, exec (.takeoverComplete d c) s = .next u ∧ c ∉ (u.die d).takeover ∧ (u.die d).spares = (s.die d).spares - 1 ∧
      assocFind c (u.die d).spareMap = some (20 - (s.die d).spares) ∧
      ((u.die d).errlog.getLast?.map (·.code)) = some (7 * 64 + 19) ∧ u.mem = s.mem) ∧
  (∀ (s : State) (l : Nat), l < 4 → (s.link l).state = .up →
    (∃ u : State, exec (.flitCrcFailure l) s = .next u ∧ (u.link l).errors = (s.link l).errors + 1 ∧ (u.link l).state = .up ∧ u.mem = s.mem) ∧
    (∃ u : State, exec (.linkDegraded l) s = .next u ∧ (u.link l).state = .degraded ∧ u.mem = s.mem) ∧
    ((∀ k < 4, k ≠ l → (s.link k).state ≠ .down) → ∃ u : State, exec (.linkDown l) s = .next u ∧ (u.link l).state = .down ∧
      (∀ k < 4, k ≠ l → u.link k = s.link k) ∧ u.phase = s.phase ∧ u.th = s.th ∧ u.mem = s.mem)) ∧
  (∀ (s : State) (p a : Nat), p < 8 →
    (∃ u : State, exec (.cxlFailure p true a) s = .next u ∧ u.poisoned a 1 = true ∧ u.mem = s.mem) ∧
    (∃ u : State, exec (.cxlFailure p false a) s = .next u ∧ p ∈ u.cxlDown ∧ u.mem = s.mem)) ∧
  (∀ (s : State) (w : Nat), w ≤ s.powerCap → ∃ u : State, exec (.powerControlSample w) s = .next u ∧
    (∀ t, (u.tile t).delayed = false) ∧ u.mem = s.mem) ∧
  (∀ (s : State) (d c t : Nat), t ∈ clusterTiles d c → (∀ x ∈ clusterTiles d c, x ≠ t → (s.tile x).gating = false) →
    (s.tile t).gating = true →
    (s.tileInUse t = false → (∀ x ∈ tileCores t, (s.core x).misses = []) → ∃ u : State, exec (.regionGating d c) s = .next u ∧
      (u.tile t).gated = true ∧ (u.tile t).gating = false ∧ (u.tile t).l2 = [] ∧ u.mem = s.mem) ∧
    (s.tileInUse t = false → (∃ x ∈ tileCores t, (s.core x).misses ≠ []) → ∃ u : State, exec (.regionGating d c) s = .next u ∧
      (u.tile t).gated = (s.tile t).gated ∧ (u.tile t).gating = true ∧ u.mem = s.mem) ∧
    (s.tileInUse t = true → ∃ u : State, exec (.regionGating d c) s = .next u ∧ (u.tile t).gated = (s.tile t).gated ∧
      (u.tile t).gating = false ∧ u.mem = s.mem))

/-- R400, R406: an operation that is not supported, a key without a region, or an access outside its region or against its rights is answered with a NAK
on its connection and changes no other state of the device but the count of the packets received; an access whose bytes all pass their checks is
performed and answered; a packet waits behind an earlier one of its queue pair. -/
def Sys2Proof.Claim.packets : Prop :=
  (∀ (s : State) (via : Via), exec (.unsupportedOperation via) s = .next { s with sent := s.sent ++ [.nak via] }) ∧
  (∀ (s : State) (via : Via) (key va len : Nat) (bs : List Byte), s.quietPair via →
    let w : Inbound := { num := s.fresh, via := via, key := key, va := va, data := some bs, len := 0 }
    let r : Inbound := { num := s.fresh, via := via, key := key, va := va, data := none, len := len }
    let nak : State := { s with fresh := s.fresh + 1, sent := s.sent ++ [.nak via] }
    (assocFind key s.regions = none → exec (.inboundRdmaWrite ⟨via, key⟩ va bs) s = .next nak ∧ exec (.inboundRdmaRead ⟨via, key⟩ va len) s = .next nak) ∧
    (∀ x : Region, assocFind key s.regions = some x →
      (va < x.base ∨ x.base + x.len < va + bs.length ∨ x.w = false → exec (.inboundRdmaWrite ⟨via, key⟩ va bs) s = .next nak) ∧
      (va < x.base ∨ x.base + x.len < va + len ∨ x.r = false → exec (.inboundRdmaRead ⟨via, key⟩ va len) s = .next nak) ∧
      (∀ u, (inboundEffect x w).run' { s with fresh := s.fresh + 1 } = (u, .ok []) →
        exec (.inboundRdmaWrite ⟨via, key⟩ va bs) s = .next { u with inbound := u.inbound.erase w, sent := u.sent ++ [.reply via []] }) ∧
      (∀ u out, (inboundEffect x r).run' { s with fresh := s.fresh + 1 } = (u, .ok out) →
        exec (.inboundRdmaRead ⟨via, key⟩ va len) s = .next { u with inbound := u.inbound.erase r, sent := u.sent ++ [.reply via out] }))) ∧
  (∀ (s : State) (via : Via) (key va : Nat) (bs : List Byte) (x : Inbound), x ∈ s.inbound → x.via.port = via.port → x.via.qp = via.qp →
    x.num < s.fresh → (∀ y ∈ s.inbound, y.via ≠ via ∧ y.num ≠ s.fresh) →
    exec (.inboundRdmaWrite ⟨via, key⟩ va bs) s = .next { s with
      fresh := s.fresh + 1
      inbound := s.inbound ++ [{ num := s.fresh, via := via, key := key, va := va, data := some bs, len := 0 }] })

/-- R144, R146, R147, R396, R398, R400, R406, R407, R413 to R415: events of the hardware, and packets from outside. Where it goes beyond the manual's words it rests on
the model's choices of logs 37 and 38. -/
def Obligations.HardwareResults : Prop := Claim.hardwareEvents ∧ Claim.packets
end

