-- ==== Sys2Proof/Laws/Memory.lean ====
section
/-! SUPPORT. Laws of memory: reading after writing, and the canonical form that every memory operation keeps. -/

namespace Sys2Proof.Machine

/-! Lists of cells. -/

theorem cellsAbove_mono {a b : Nat} {l : List Host.Cell} (h : b ≤ a) (hl : cellsAbove a l = true) : cellsAbove b l = true := by
  simp only [cellsAbove, List.all_eq_true, decide_eq_true_eq] at *
  exact fun c hc => Nat.lt_of_le_of_lt h (hl c hc)

theorem cellGet_above {a : Nat} {l : List Host.Cell} (h : cellsAbove a l = true) : cellGet a l = 0#8 := by
  induction l with
  | nil => rfl
  | cons c l ih =>
    obtain ⟨x, v⟩ := c
    simp only [cellsAbove, List.all_cons, Bool.and_eq_true, decide_eq_true_eq] at h
    simp only [cellGet, if_neg (Nat.ne_of_gt h.1)]
    exact ih (by simpa [cellsAbove] using h.2)

theorem cellsAbove_cellSet {a b : Nat} {v : Byte} {l : List Host.Cell} (hb : b < a) (h : cellsAbove b l = true) :
    cellsAbove b (cellSet a v l) = true := by
  induction l with
  | nil => unfold cellSet; split <;> simp [cellsAbove, hb]
  | cons c l ih =>
    obtain ⟨x, w⟩ := c
    have h' : b < x ∧ cellsAbove b l = true := by simpa [cellsAbove] using h
    have hl := h'.2
    have hi := ih hl
    unfold cellSet
    simp only [cellsAbove, List.all_eq_true, decide_eq_true_eq] at hi hl
    split
    · split
      · simpa [cellsAbove] using hl
      · simpa [cellsAbove, hb] using hl
    · split
      · split
        · simpa [cellsAbove, h'.1] using hl
        · simpa [cellsAbove, h'.1, hb] using hl
      · simpa [cellsAbove, h'.1] using hi

/-- Writing a byte keeps the canonical form. -/
theorem cellsWf_cellSet {a : Nat} {v : Byte} {l : List Host.Cell} (h : cellsWf l = true) : cellsWf (cellSet a v l) = true := by
  induction l with
  | nil => unfold cellSet; split <;> simp_all [cellsWf, cellsAbove]
  | cons c l ih =>
    obtain ⟨x, w⟩ := c
    simp only [cellsWf, Bool.and_eq_true, bne_iff_ne, ne_eq] at h
    obtain ⟨⟨hw, hx⟩, hl⟩ := h
    unfold cellSet
    split
    · rename_i hxa
      subst hxa
      split
      · exact hl
      · rename_i hv
        simp [cellsWf, hv, hx, hl]
    · rename_i hne
      split
      · rename_i hlt
        split
        · simp [cellsWf, hw, hx, hl]
        · rename_i hv
          simp only [cellsWf, Bool.and_eq_true, bne_iff_ne, ne_eq]
          refine ⟨⟨hv, ?_⟩, ⟨hw, hx⟩, hl⟩
          have := cellsAbove_mono (Nat.le_of_lt hlt) hx
          simp only [cellsAbove, List.all_cons, Bool.and_eq_true, decide_eq_true_eq]
          exact ⟨hlt, by simpa [cellsAbove] using this⟩
      · rename_i hge
        simp only [cellsWf, Bool.and_eq_true, bne_iff_ne, ne_eq]
        exact ⟨⟨hw, cellsAbove_cellSet (by omega) hx⟩, ih hl⟩

/-- Dropping entries keeps the canonical form. -/
theorem cellsWf_filter {p : Host.Cell → Bool} {l : List Host.Cell} (h : cellsWf l = true) : cellsWf (l.filter p) = true := by
  induction l with
  | nil => rfl
  | cons c l ih =>
    obtain ⟨x, w⟩ := c
    simp only [cellsWf, Bool.and_eq_true] at h
    simp only [List.filter_cons]
    split
    · simp only [cellsWf, Bool.and_eq_true]
      refine ⟨⟨h.1.1, ?_⟩, ih h.2⟩
      have hx := h.1.2
      simp only [cellsAbove, List.all_eq_true, decide_eq_true_eq] at *
      exact fun c hc => hx c (List.mem_filter.mp hc).1
    · exact ih h.2

/-- Reading after writing a byte. -/
theorem cellGet_cellSet {a b : Nat} {v : Byte} {l : List Host.Cell} (h : cellsWf l = true) :
    cellGet b (cellSet a v l) = if b = a then v else cellGet b l := by
  induction l with
  | nil =>
    unfold cellSet
    by_cases hb : b = a <;> split <;> simp_all [cellGet]
    exact fun e => hb e.symm
  | cons c l ih =>
    obtain ⟨x, w⟩ := c
    simp only [cellsWf, Bool.and_eq_true] at h
    obtain ⟨⟨-, hx⟩, hl⟩ := h
    unfold cellSet
    split
    · rename_i hxa
      subst hxa
      split
      · rename_i hv
        subst hv
        split
        · rename_i hb
          subst hb
          exact cellGet_above hx
        · rename_i hb
          simp [cellGet, Ne.symm hb]
      · simp only [cellGet, eq_comm (a := b)]
        split <;> rfl
    · rename_i hne
      split
      · rename_i hlt
        split
        · rename_i hv
          subst hv
          split
          · rename_i hb
            subst hb
            simp only [cellGet, if_neg hne]
            exact cellGet_above (cellsAbove_mono (Nat.le_of_lt hlt) hx)
          · rfl
        · simp only [cellGet, eq_comm (a := b)]
      · simp only [cellGet, ih hl]
        by_cases hb : b = a
        · subst hb; simp [hne]
        · simp [hb]

/-! Memory. -/

/-- Writing a byte of memory keeps the canonical form. -/
theorem State.setByte_wf {s : State} {pa : Nat} {v : Byte} (h : Memory.wf s = true) : Memory.wf (s.setByte pa v) = true := by
  unfold State.setByte
  split
  · exact h
  · exact cellsWf_cellSet h

/-- Writing bytes of memory keeps the canonical form. -/
theorem State.setBytes_wf {bs : List Byte} {s : State} {pa : Nat} (h : Memory.wf s = true) : Memory.wf (s.setBytes pa bs) = true := by
  induction bs generalizing s pa with
  | nil => exact h
  | cons b bs ih => exact ih (State.setByte_wf h)

/-- Performing a store keeps the canonical form. -/
theorem State.perform_wf {s : State} {pa : Nat} {bs : List Byte} (h : Memory.wf s = true) : Memory.wf (s.perform pa bs) = true := by
  unfold State.perform
  split
  · exact h
  · exact State.setBytes_wf (s := s.clearPoison pa bs.length) h

/-- Reading after writing a byte of memory. -/
theorem State.byte_setByte {s : State} {pa a : Nat} {v : Byte} (h : Memory.wf s = true) :
    (s.setByte pa v).byte a = if a = pa ∧ inRom pa = false then v else s.byte a := by
  unfold State.setByte
  split
  · rename_i hr; simp [hr]
  · rename_i hr
    simp only [Bool.not_eq_true] at hr
    unfold State.byte
    by_cases ha : inRom a = true
    · have : a ≠ pa := by rintro rfl; simp [hr] at ha
      simp [ha, this]
    · simp only [ha, hr, and_true]
      exact cellGet_cellSet h

/-- Reading after writing bytes of memory, outside the firmware ROM. -/
theorem State.byte_setBytes {bs : List Byte} {s : State} {pa a : Nat} (h : Memory.wf s = true)
    (hr : ∀ i < bs.length, inRom (pa + i) = false) :
    (s.setBytes pa bs).byte a = if h : pa ≤ a ∧ a - pa < bs.length then bs[a - pa]'h.2 else s.byte a := by
  induction bs generalizing s pa with
  | nil => simp [State.setBytes]
  | cons b bs ih =>
    have h0 := hr 0 (by simp)
    simp only [Nat.add_zero] at h0
    have hs : ∀ i < bs.length, inRom (pa + 1 + i) = false := fun i hi => by
      have := hr (i + 1) (by simpa using hi)
      simpa [Nat.add_assoc, Nat.add_comm 1 i] using this
    rw [State.setBytes, ih (State.setByte_wf h) hs, State.byte_setByte h]
    by_cases ha : pa = a
    · subst ha
      simp [h0] <;> (intro h; omega)
    · by_cases hlt : pa < a
      · obtain ⟨k, rfl⟩ : ∃ k, a = pa + 1 + k := ⟨a - pa - 1, by omega⟩
        have e1 : pa + 1 + k - (pa + 1) = k := by omega
        have e2 : pa + 1 + k - pa = k + 1 := by omega
        simp only [e1, e2, List.length_cons, Nat.add_lt_add_iff_right, List.getElem_cons_succ]
        have e3 : pa + 1 ≤ pa + 1 + k := by omega
        have e4 : pa ≤ pa + 1 + k := by omega
        have e5 : ¬pa + 1 + k = pa := by omega
        simp [e3, e4, e5]
      · have e1 : ¬pa + 1 ≤ a := by omega
        have e2 : ¬pa ≤ a := by omega
        have e3 : ¬a = pa := by omega
        simp [e1, e2, e3]

end Sys2Proof.Machine
end

