-- ==== Sys2Proof/Laws/Ops.lean ====
section
/-! SUPPORT. What the shared operations do: how an action runs, when register operands pass their checks, and how waits, faults and
the end of an instruction act. Meanings are computed through these lemmas. -/

namespace Sys2Proof.Machine

/-! How an action runs. -/

theorem act_bind (a : Act α) (f : α → Act β) (s : State) :
    (a >>= f) s = (match a s with | .ok (x, s') => f x s' | .error s' => .error s') := by
  simp only [bind, StateT.bind, Except.bind]
  cases a s <;> rfl

theorem act_bind_ok (a : Act α) (f : α → Act β) (s s' : State) (x : α) (h : a s = .ok (x, s')) : (a >>= f) s = f x s' := by
  rw [act_bind, h]

theorem act_bind_error (a : Act α) (f : α → Act β) (s s' : State) (h : a s = .error s') : (a >>= f) s = .error s' := by
  rw [act_bind, h]

@[simp] theorem act_pure (x : α) (s : State) : (pure x : Act α) s = .ok (x, s) := rfl
@[simp] theorem act_get (s : State) : (get : Act State) s = .ok (s, s) := rfl
@[simp] theorem act_set (x s : State) : (set x : Act PUnit) s = .ok ((), x) := rfl
@[simp] theorem act_modify (f : State → State) (s : State) : (modify f : Act PUnit) s = .ok ((), f s) := rfl
@[simp] theorem act_modTh (f : Thread → Thread) (s : State) : modTh f s = .ok ((), { s with th := f s.th }) := rfl
@[simp] theorem act_stopHere (s : State) : (stopHere : Act α) s = .error s := rfl
@[simp] theorem act_waitFor (w : Wait) (s : State) :
    (waitFor w : Act α) s = .error { s with th := { s.th with wait := some w } } := rfl
@[simp] theorem act_finish (len : Nat) (srcs : List Reg) (ws : List (Reg × Word)) (s : State) :
    finish len srcs ws s = .ok ((), s.finish len srcs ws) := rfl
theorem act_ite (c : Prop) [Decidable c] (a b : Act α) (s : State) : (if c then a else b) s = if c then a s else b s := by
  split <;> rfl

@[simp] theorem after_of_ok (a : Act Unit) (s s' : State) (h : a s = .ok ((), s')) : after a s = s' := by
  simp [after, h]
@[simp] theorem after_of_error (a : Act Unit) (s s' : State) (h : a s = .error s') : after a s = s' := by
  simp [after, h]
theorem done_of_ok (a : Act Unit) (s s' : State) (h : a s = .ok ((), s')) : done a s = .next s' := by
  simp [done, after, h]
theorem done_of_error (a : Act Unit) (s s' : State) (h : a s = .error s') : done a s = .next s' := by
  simp [done, after, h]

theorem act_require_true (src cause : Nat) (v : Word) (s : State) : require true src cause v s = .ok ((), s) := rfl
theorem act_require (c : Bool) (src cause : Nat) (v : Word) (s : State) (h : c = true) : require c src cause v s = .ok ((), s) := by
  subst h; rfl

/-! Register operands. -/

theorem speculative_escalate (s : State) (h : s.speculative = false) : escalate s = .ok ((), s) := by
  unfold escalate State.speculative at *
  rw [act_bind, act_get]
  cases he : s.myEntry with
  | none => simp [he]
  | some p =>
    obtain ⟨t, e, x⟩ := p
    simp only [he, Bool.not_eq_false'] at h
    simp [he, h]

theorem seqActs_ok (l : List (Act Unit)) (s : State) (h : ∀ a ∈ l, a s = .ok ((), s)) : seqActs l s = .ok ((), s) := by
  induction l with
  | nil => rfl
  | cons a l ih =>
    unfold seqActs
    rw [act_bind_ok _ _ _ _ _ (h a (by simp))]
    exact ih fun b hb => h b (by simp [hb])

/-- An access that meets no speculative task, by an issuer that is none, changes nothing before it. -/
theorem specAccess_free (s : State) (pa n : Nat) (write : Bool) (hs : s.speculative = false)
    (hc : s.conflicts .nonSpec (some (coreOf s.cur)) pa n write = []) : specAccess pa n write s = .ok ((), s) := by
  have hr : s.requester = .nonSpec := by
    unfold State.requester State.speculative at *
    cases he : s.myEntry with
    | none => rfl
    | some p => simp only [he, Bool.not_eq_false'] at hs; simp [hs]
  have hl (b : Nat) : logBlock b s = .ok ((), s) := by
    unfold logBlock State.speculative at *
    rw [act_bind, act_get]
    cases he : s.myEntry with
    | none => simp [he]
    | some p => simp only [he, Bool.not_eq_false'] at hs; simp [he, hs]
  have hm : (s.recordAccess (blocksOf pa n) write).recordVisit pa = s := by
    unfold State.recordAccess State.recordVisit State.speculative at *
    cases he : s.myEntry with
    | none => simp [he]
    | some p => simp only [he, Bool.not_eq_false'] at hs; simp [he, hs]
  unfold specAccess
  rw [act_bind, act_get]
  simp only [hr, State.forceAborts, hc]
  rw [act_bind, act_set]
  simp only [if_true]
  cases write with
  | false => simp [hm]
  | true =>
    simp only [if_true]
    rw [act_bind_ok _ _ s s () (seqActs_ok _ s (by simp only [List.mem_map]; rintro a ⟨b, -, rfl⟩; exact hl b))]
    simp [hm]

/-- A ring access that is ready changes nothing before it. -/
theorem ringAccess_ready (s : State) (x : Stream) (write : Bool) (hs : s.speculative = false) (h : s.ringReady x write = true) :
    ringAccess (x.place s.myWindow x.used) x.esize write s = .ok ((), s) := by
  simp only [State.ringReady, Bool.and_eq_true, Bool.not_eq_true', List.isEmpty_iff] at h
  unfold ringAccess
  rw [act_bind, act_get]
  simp only [h.1.1, Bool.false_eq_true, if_false]
  rw [act_bind_ok _ _ _ _ _ (specAccess_free s _ _ _ hs h.1.2), act_bind, act_get]
  cases write <;> simp_all

theorem checkSource_ready (v : Word) (s : State) (r : Reg) (h : s.sourceReady r = true) : checkSource v r s = .ok ((), s) := by
  unfold checkSource State.sourceReady at *
  rw [act_bind, act_get]
  cases hb : s.th.gBind r with
  | some b =>
    simp only [hb, Bool.and_eq_true, Bool.not_eq_true'] at h
    simp only [hb, act_bind_ok _ _ _ _ _ (speculative_escalate s h.1.1), h.1.2]
    cases hq : s.queue b.queue with
    | none => simp
    | some q => simp only [hq, Bool.and_eq_true, Bool.not_eq_true', beq_iff_eq] at h; simp [h.2.1, h.2.2]
  | none =>
    cases hx : s.th.gStream r with
    | none => simp [hb, hx]
    | some x =>
      simp only [hb, hx, Bool.and_eq_true, Bool.not_eq_true', decide_eq_true_eq] at h
      simp [hb, hx, act_bind_ok _ _ _ _ _ (speculative_escalate s h.1.1.1), h.1.1.2, h.1.2, ringAccess_ready s x false h.1.1.1 h.2]

theorem checkDest_ready (v : Word) (s : State) (r : Reg) (h : s.destReady r = true) : checkDest v r s = .ok ((), s) := by
  unfold checkDest State.destReady at *
  rw [act_bind, act_get]
  cases hb : s.th.gBind r with
  | some b =>
    simp only [hb, Bool.and_eq_true, Bool.not_eq_true'] at h
    simp only [hb, act_bind_ok _ _ _ _ _ (speculative_escalate s h.1.1), h.1.2]
    cases hq : s.queue b.queue with
    | none => simp
    | some q => simp only [hq, Bool.and_eq_true, beq_iff_eq] at h; simp [h.2.1.1, h.2.1.2, h.2.2]
  | none =>
    cases hx : s.th.gStream r with
    | none => simp [hb, hx]
    | some x =>
      simp only [hb, hx, Bool.and_eq_true, Bool.not_eq_true'] at h
      simp only [hb, hx, act_bind_ok _ _ _ _ _ (speculative_escalate s h.1)]
      cases ho : x.output with
      | false => simp
      | true =>
        simp only [ho, Bool.not_true, Bool.false_or, Bool.and_eq_true, decide_eq_true_eq] at h
        simp [h.2.1.1, h.2.1.2, ringAccess_ready s x true h.1 h.2.2]

/-- Operands that can be used now pass their checks, and the checks change nothing. -/
theorem useRegsAs_ready (v : Word) (s : State) (srcs dsts : List Reg) (h : s.ready srcs dsts = true) :
    useRegsAs v srcs dsts s = .ok ((), s) := by
  simp only [State.ready, Bool.and_eq_true, List.all_eq_true] at h
  unfold useRegsAs
  rw [act_bind_ok _ _ _ _ _ (seqActs_ok _ s _)]
  · apply seqActs_ok
    simp only [List.mem_map]
    rintro a ⟨r, hr, rfl⟩
    exact checkDest_ready v s r (h.2 r hr)
  · simp only [List.mem_map]
    rintro a ⟨r, hr, rfl⟩
    exact checkSource_ready v s r (h.1 r hr)

theorem useRegs_ready (s : State) (srcs dsts : List Reg) (h : s.ready srcs dsts = true) : useRegs srcs dsts s = .ok ((), s) := by
  unfold useRegs
  rw [act_bind, act_get]
  exact useRegsAs_ready _ s srcs dsts h

/-- An instruction of one result, on operands that can be used now. -/
theorem compute_ready (d : Reg) (srcs : List Reg) (f : State → Word) (s : State) (h : s.ready srcs [d] = true) :
    done (compute d srcs f) s = .next (s.finish 4 srcs [(d, f s)]) := by
  apply done_of_ok
  unfold compute
  rw [act_bind_ok _ _ _ _ _ (useRegs_ready s srcs [d] h), act_bind, act_get]
  rfl

end Sys2Proof.Machine
end

