-- ==== Sys2Proof/Laws/State.lean ====
section
/-! SUPPORT. What the updates of single components leave: one lemma for each field of State and each update. -/

namespace Sys2Proof.Machine

@[simp] theorem State.setCore_cur (s : State) (c : Nat) (x : Core) : (s.setCore c x).cur = s.cur := rfl
@[simp] theorem State.setCore_th (s : State) (c : Nat) (x : Core) : (s.setCore c x).th = s.th := rfl
@[simp] theorem State.setCore_threads (s : State) (c : Nat) (x : Core) : (s.setCore c x).threads = s.threads := rfl
@[simp] theorem State.setCore_tiles (s : State) (c : Nat) (x : Core) : (s.setCore c x).tiles = s.tiles := rfl
@[simp] theorem State.setCore_dies (s : State) (c : Nat) (x : Core) : (s.setCore c x).dies = s.dies := rfl
@[simp] theorem State.setCore_mem (s : State) (c : Nat) (x : Core) : (s.setCore c x).mem = s.mem := rfl
@[simp] theorem State.setCore_poison (s : State) (c : Nat) (x : Core) : (s.setCore c x).poison = s.poison := rfl
@[simp] theorem State.setCore_queues (s : State) (c : Nat) (x : Core) : (s.setCore c x).queues = s.queues := rfl
@[simp] theorem State.setCore_domains (s : State) (c : Nat) (x : Core) : (s.setCore c x).domains = s.domains := rfl
@[simp] theorem State.setCore_lqueues (s : State) (c : Nat) (x : Core) : (s.setCore c x).lqueues = s.lqueues := rfl
@[simp] theorem State.setCore_launches (s : State) (c : Nat) (x : Core) : (s.setCore c x).launches = s.launches := rfl
@[simp] theorem State.setCore_drops (s : State) (c : Nat) (x : Core) : (s.setCore c x).drops = s.drops := rfl
@[simp] theorem State.setCore_time (s : State) (c : Nat) (x : Core) : (s.setCore c x).time = s.time := rfl
@[simp] theorem State.setCore_agenda (s : State) (c : Nat) (x : Core) : (s.setCore c x).agenda = s.agenda := rfl
@[simp] theorem State.setCore_free (s : State) (c : Nat) (x : Core) : (s.setCore c x).free = s.free := rfl
@[simp] theorem State.setCore_progress (s : State) (c : Nat) (x : Core) : (s.setCore c x).progress = s.progress := rfl
@[simp] theorem State.setCore_fresh (s : State) (c : Nat) (x : Core) : (s.setCore c x).fresh = s.fresh := rfl
@[simp] theorem State.setCore_fwlog (s : State) (c : Nat) (x : Core) : (s.setCore c x).fwlog = s.fwlog := rfl
@[simp] theorem State.setCore_rdcGiB (s : State) (c : Nat) (x : Core) : (s.setCore c x).rdcGiB = s.rdcGiB := rfl
@[simp] theorem State.setCore_cxl (s : State) (c : Nat) (x : Core) : (s.setCore c x).cxl = s.cxl := rfl
@[simp] theorem State.setCore_migrating (s : State) (c : Nat) (x : Core) : (s.setCore c x).migrating = s.migrating := rfl
@[simp] theorem State.setCore_phase (s : State) (c : Nat) (x : Core) : (s.setCore c x).phase = s.phase := rfl
@[simp] theorem State.setCore_pdir (s : State) (c : Nat) (x : Core) : (s.setCore c x).pdir = s.pdir := rfl
@[simp] theorem State.setCore_txns (s : State) (c : Nat) (x : Core) : (s.setCore c x).txns = s.txns := rfl
@[simp] theorem State.setCore_homeReqs (s : State) (c : Nat) (x : Core) : (s.setCore c x).homeReqs = s.homeReqs := rfl
@[simp] theorem State.setCore_walkAnswers (s : State) (c : Nat) (x : Core) : (s.setCore c x).walkAnswers = s.walkAnswers := rfl
@[simp] theorem State.setCore_behind (s : State) (c : Nat) (x : Core) : (s.setCore c x).behind = s.behind := rfl
@[simp] theorem State.setCore_l2behind (s : State) (c : Nat) (x : Core) : (s.setCore c x).l2behind = s.l2behind := rfl
@[simp] theorem State.setCore_endpoints (s : State) (c : Nat) (x : Core) : (s.setCore c x).endpoints = s.endpoints := rfl
@[simp] theorem State.setCore_regions (s : State) (c : Nat) (x : Core) : (s.setCore c x).regions = s.regions := rfl
@[simp] theorem State.setCore_inbound (s : State) (c : Nat) (x : Core) : (s.setCore c x).inbound = s.inbound := rfl
@[simp] theorem State.setCore_commands (s : State) (c : Nat) (x : Core) : (s.setCore c x).commands = s.commands := rfl
@[simp] theorem State.setCore_sent (s : State) (c : Nat) (x : Core) : (s.setCore c x).sent = s.sent := rfl
@[simp] theorem State.setCore_links (s : State) (c : Nat) (x : Core) : (s.setCore c x).links = s.links := rfl
@[simp] theorem State.setCore_relays (s : State) (c : Nat) (x : Core) : (s.setCore c x).relays = s.relays := rfl
@[simp] theorem State.setCore_cxlDown (s : State) (c : Nat) (x : Core) : (s.setCore c x).cxlDown = s.cxlDown := rfl
@[simp] theorem State.setCore_boot (s : State) (c : Nat) (x : Core) : (s.setCore c x).boot = s.boot := rfl
@[simp] theorem State.setCore_ownerKey (s : State) (c : Nat) (x : Core) : (s.setCore c x).ownerKey = s.ownerKey := rfl
@[simp] theorem State.setCore_rollback (s : State) (c : Nat) (x : Core) : (s.setCore c x).rollback = s.rollback := rfl
@[simp] theorem State.setCore_powerCap (s : State) (c : Nat) (x : Core) : (s.setCore c x).powerCap = s.powerCap := rfl
@[simp] theorem State.setCore_warm (s : State) (c : Nat) (x : Core) : (s.setCore c x).warm = s.warm := rfl
@[simp] theorem State.setCore_fatal (s : State) (c : Nat) (x : Core) : (s.setCore c x).fatal = s.fatal := rfl
@[simp] theorem State.setCore_losses (s : State) (c : Nat) (x : Core) : (s.setCore c x).losses = s.losses := rfl

@[simp] theorem State.setTile_cur (s : State) (c : Nat) (x : Tile) : (s.setTile c x).cur = s.cur := rfl
@[simp] theorem State.setTile_th (s : State) (c : Nat) (x : Tile) : (s.setTile c x).th = s.th := rfl
@[simp] theorem State.setTile_threads (s : State) (c : Nat) (x : Tile) : (s.setTile c x).threads = s.threads := rfl
@[simp] theorem State.setTile_cores (s : State) (c : Nat) (x : Tile) : (s.setTile c x).cores = s.cores := rfl
@[simp] theorem State.setTile_dies (s : State) (c : Nat) (x : Tile) : (s.setTile c x).dies = s.dies := rfl
@[simp] theorem State.setTile_mem (s : State) (c : Nat) (x : Tile) : (s.setTile c x).mem = s.mem := rfl
@[simp] theorem State.setTile_poison (s : State) (c : Nat) (x : Tile) : (s.setTile c x).poison = s.poison := rfl
@[simp] theorem State.setTile_queues (s : State) (c : Nat) (x : Tile) : (s.setTile c x).queues = s.queues := rfl
@[simp] theorem State.setTile_domains (s : State) (c : Nat) (x : Tile) : (s.setTile c x).domains = s.domains := rfl
@[simp] theorem State.setTile_lqueues (s : State) (c : Nat) (x : Tile) : (s.setTile c x).lqueues = s.lqueues := rfl
@[simp] theorem State.setTile_launches (s : State) (c : Nat) (x : Tile) : (s.setTile c x).launches = s.launches := rfl
@[simp] theorem State.setTile_drops (s : State) (c : Nat) (x : Tile) : (s.setTile c x).drops = s.drops := rfl
@[simp] theorem State.setTile_time (s : State) (c : Nat) (x : Tile) : (s.setTile c x).time = s.time := rfl
@[simp] theorem State.setTile_agenda (s : State) (c : Nat) (x : Tile) : (s.setTile c x).agenda = s.agenda := rfl
@[simp] theorem State.setTile_free (s : State) (c : Nat) (x : Tile) : (s.setTile c x).free = s.free := rfl
@[simp] theorem State.setTile_progress (s : State) (c : Nat) (x : Tile) : (s.setTile c x).progress = s.progress := rfl
@[simp] theorem State.setTile_fresh (s : State) (c : Nat) (x : Tile) : (s.setTile c x).fresh = s.fresh := rfl
@[simp] theorem State.setTile_fwlog (s : State) (c : Nat) (x : Tile) : (s.setTile c x).fwlog = s.fwlog := rfl
@[simp] theorem State.setTile_rdcGiB (s : State) (c : Nat) (x : Tile) : (s.setTile c x).rdcGiB = s.rdcGiB := rfl
@[simp] theorem State.setTile_cxl (s : State) (c : Nat) (x : Tile) : (s.setTile c x).cxl = s.cxl := rfl
@[simp] theorem State.setTile_migrating (s : State) (c : Nat) (x : Tile) : (s.setTile c x).migrating = s.migrating := rfl
@[simp] theorem State.setTile_phase (s : State) (c : Nat) (x : Tile) : (s.setTile c x).phase = s.phase := rfl
@[simp] theorem State.setTile_pdir (s : State) (c : Nat) (x : Tile) : (s.setTile c x).pdir = s.pdir := rfl
@[simp] theorem State.setTile_txns (s : State) (c : Nat) (x : Tile) : (s.setTile c x).txns = s.txns := rfl
@[simp] theorem State.setTile_homeReqs (s : State) (c : Nat) (x : Tile) : (s.setTile c x).homeReqs = s.homeReqs := rfl
@[simp] theorem State.setTile_walkAnswers (s : State) (c : Nat) (x : Tile) : (s.setTile c x).walkAnswers = s.walkAnswers := rfl
@[simp] theorem State.setTile_behind (s : State) (c : Nat) (x : Tile) : (s.setTile c x).behind = s.behind := rfl
@[simp] theorem State.setTile_l2behind (s : State) (c : Nat) (x : Tile) : (s.setTile c x).l2behind = s.l2behind := rfl
@[simp] theorem State.setTile_endpoints (s : State) (c : Nat) (x : Tile) : (s.setTile c x).endpoints = s.endpoints := rfl
@[simp] theorem State.setTile_regions (s : State) (c : Nat) (x : Tile) : (s.setTile c x).regions = s.regions := rfl
@[simp] theorem State.setTile_inbound (s : State) (c : Nat) (x : Tile) : (s.setTile c x).inbound = s.inbound := rfl
@[simp] theorem State.setTile_commands (s : State) (c : Nat) (x : Tile) : (s.setTile c x).commands = s.commands := rfl
@[simp] theorem State.setTile_sent (s : State) (c : Nat) (x : Tile) : (s.setTile c x).sent = s.sent := rfl
@[simp] theorem State.setTile_links (s : State) (c : Nat) (x : Tile) : (s.setTile c x).links = s.links := rfl
@[simp] theorem State.setTile_relays (s : State) (c : Nat) (x : Tile) : (s.setTile c x).relays = s.relays := rfl
@[simp] theorem State.setTile_cxlDown (s : State) (c : Nat) (x : Tile) : (s.setTile c x).cxlDown = s.cxlDown := rfl
@[simp] theorem State.setTile_boot (s : State) (c : Nat) (x : Tile) : (s.setTile c x).boot = s.boot := rfl
@[simp] theorem State.setTile_ownerKey (s : State) (c : Nat) (x : Tile) : (s.setTile c x).ownerKey = s.ownerKey := rfl
@[simp] theorem State.setTile_rollback (s : State) (c : Nat) (x : Tile) : (s.setTile c x).rollback = s.rollback := rfl
@[simp] theorem State.setTile_powerCap (s : State) (c : Nat) (x : Tile) : (s.setTile c x).powerCap = s.powerCap := rfl
@[simp] theorem State.setTile_warm (s : State) (c : Nat) (x : Tile) : (s.setTile c x).warm = s.warm := rfl
@[simp] theorem State.setTile_fatal (s : State) (c : Nat) (x : Tile) : (s.setTile c x).fatal = s.fatal := rfl
@[simp] theorem State.setTile_losses (s : State) (c : Nat) (x : Tile) : (s.setTile c x).losses = s.losses := rfl

@[simp] theorem State.setDie_cur (s : State) (c : Nat) (x : Die) : (s.setDie c x).cur = s.cur := rfl
@[simp] theorem State.setDie_th (s : State) (c : Nat) (x : Die) : (s.setDie c x).th = s.th := rfl
@[simp] theorem State.setDie_threads (s : State) (c : Nat) (x : Die) : (s.setDie c x).threads = s.threads := rfl
@[simp] theorem State.setDie_cores (s : State) (c : Nat) (x : Die) : (s.setDie c x).cores = s.cores := rfl
@[simp] theorem State.setDie_tiles (s : State) (c : Nat) (x : Die) : (s.setDie c x).tiles = s.tiles := rfl
@[simp] theorem State.setDie_mem (s : State) (c : Nat) (x : Die) : (s.setDie c x).mem = s.mem := rfl
@[simp] theorem State.setDie_poison (s : State) (c : Nat) (x : Die) : (s.setDie c x).poison = s.poison := rfl
@[simp] theorem State.setDie_queues (s : State) (c : Nat) (x : Die) : (s.setDie c x).queues = s.queues := rfl
@[simp] theorem State.setDie_domains (s : State) (c : Nat) (x : Die) : (s.setDie c x).domains = s.domains := rfl
@[simp] theorem State.setDie_lqueues (s : State) (c : Nat) (x : Die) : (s.setDie c x).lqueues = s.lqueues := rfl
@[simp] theorem State.setDie_launches (s : State) (c : Nat) (x : Die) : (s.setDie c x).launches = s.launches := rfl
@[simp] theorem State.setDie_drops (s : State) (c : Nat) (x : Die) : (s.setDie c x).drops = s.drops := rfl
@[simp] theorem State.setDie_time (s : State) (c : Nat) (x : Die) : (s.setDie c x).time = s.time := rfl
@[simp] theorem State.setDie_agenda (s : State) (c : Nat) (x : Die) : (s.setDie c x).agenda = s.agenda := rfl
@[simp] theorem State.setDie_free (s : State) (c : Nat) (x : Die) : (s.setDie c x).free = s.free := rfl
@[simp] theorem State.setDie_progress (s : State) (c : Nat) (x : Die) : (s.setDie c x).progress = s.progress := rfl
@[simp] theorem State.setDie_fresh (s : State) (c : Nat) (x : Die) : (s.setDie c x).fresh = s.fresh := rfl
@[simp] theorem State.setDie_fwlog (s : State) (c : Nat) (x : Die) : (s.setDie c x).fwlog = s.fwlog := rfl
@[simp] theorem State.setDie_rdcGiB (s : State) (c : Nat) (x : Die) : (s.setDie c x).rdcGiB = s.rdcGiB := rfl
@[simp] theorem State.setDie_cxl (s : State) (c : Nat) (x : Die) : (s.setDie c x).cxl = s.cxl := rfl
@[simp] theorem State.setDie_migrating (s : State) (c : Nat) (x : Die) : (s.setDie c x).migrating = s.migrating := rfl
@[simp] theorem State.setDie_phase (s : State) (c : Nat) (x : Die) : (s.setDie c x).phase = s.phase := rfl
@[simp] theorem State.setDie_pdir (s : State) (c : Nat) (x : Die) : (s.setDie c x).pdir = s.pdir := rfl
@[simp] theorem State.setDie_txns (s : State) (c : Nat) (x : Die) : (s.setDie c x).txns = s.txns := rfl
@[simp] theorem State.setDie_homeReqs (s : State) (c : Nat) (x : Die) : (s.setDie c x).homeReqs = s.homeReqs := rfl
@[simp] theorem State.setDie_walkAnswers (s : State) (c : Nat) (x : Die) : (s.setDie c x).walkAnswers = s.walkAnswers := rfl
@[simp] theorem State.setDie_behind (s : State) (c : Nat) (x : Die) : (s.setDie c x).behind = s.behind := rfl
@[simp] theorem State.setDie_l2behind (s : State) (c : Nat) (x : Die) : (s.setDie c x).l2behind = s.l2behind := rfl
@[simp] theorem State.setDie_endpoints (s : State) (c : Nat) (x : Die) : (s.setDie c x).endpoints = s.endpoints := rfl
@[simp] theorem State.setDie_regions (s : State) (c : Nat) (x : Die) : (s.setDie c x).regions = s.regions := rfl
@[simp] theorem State.setDie_inbound (s : State) (c : Nat) (x : Die) : (s.setDie c x).inbound = s.inbound := rfl
@[simp] theorem State.setDie_commands (s : State) (c : Nat) (x : Die) : (s.setDie c x).commands = s.commands := rfl
@[simp] theorem State.setDie_sent (s : State) (c : Nat) (x : Die) : (s.setDie c x).sent = s.sent := rfl
@[simp] theorem State.setDie_links (s : State) (c : Nat) (x : Die) : (s.setDie c x).links = s.links := rfl
@[simp] theorem State.setDie_relays (s : State) (c : Nat) (x : Die) : (s.setDie c x).relays = s.relays := rfl
@[simp] theorem State.setDie_cxlDown (s : State) (c : Nat) (x : Die) : (s.setDie c x).cxlDown = s.cxlDown := rfl
@[simp] theorem State.setDie_boot (s : State) (c : Nat) (x : Die) : (s.setDie c x).boot = s.boot := rfl
@[simp] theorem State.setDie_ownerKey (s : State) (c : Nat) (x : Die) : (s.setDie c x).ownerKey = s.ownerKey := rfl
@[simp] theorem State.setDie_rollback (s : State) (c : Nat) (x : Die) : (s.setDie c x).rollback = s.rollback := rfl
@[simp] theorem State.setDie_powerCap (s : State) (c : Nat) (x : Die) : (s.setDie c x).powerCap = s.powerCap := rfl
@[simp] theorem State.setDie_warm (s : State) (c : Nat) (x : Die) : (s.setDie c x).warm = s.warm := rfl
@[simp] theorem State.setDie_fatal (s : State) (c : Nat) (x : Die) : (s.setDie c x).fatal = s.fatal := rfl
@[simp] theorem State.setDie_losses (s : State) (c : Nat) (x : Die) : (s.setDie c x).losses = s.losses := rfl

@[simp] theorem State.setDomain_cur (s : State) (c : Nat) (x : Domain) : (s.setDomain c x).cur = s.cur := rfl
@[simp] theorem State.setDomain_th (s : State) (c : Nat) (x : Domain) : (s.setDomain c x).th = s.th := rfl
@[simp] theorem State.setDomain_threads (s : State) (c : Nat) (x : Domain) : (s.setDomain c x).threads = s.threads := rfl
@[simp] theorem State.setDomain_cores (s : State) (c : Nat) (x : Domain) : (s.setDomain c x).cores = s.cores := rfl
@[simp] theorem State.setDomain_tiles (s : State) (c : Nat) (x : Domain) : (s.setDomain c x).tiles = s.tiles := rfl
@[simp] theorem State.setDomain_dies (s : State) (c : Nat) (x : Domain) : (s.setDomain c x).dies = s.dies := rfl
@[simp] theorem State.setDomain_mem (s : State) (c : Nat) (x : Domain) : (s.setDomain c x).mem = s.mem := rfl
@[simp] theorem State.setDomain_poison (s : State) (c : Nat) (x : Domain) : (s.setDomain c x).poison = s.poison := rfl
@[simp] theorem State.setDomain_queues (s : State) (c : Nat) (x : Domain) : (s.setDomain c x).queues = s.queues := rfl
@[simp] theorem State.setDomain_lqueues (s : State) (c : Nat) (x : Domain) : (s.setDomain c x).lqueues = s.lqueues := rfl
@[simp] theorem State.setDomain_launches (s : State) (c : Nat) (x : Domain) : (s.setDomain c x).launches = s.launches := rfl
@[simp] theorem State.setDomain_drops (s : State) (c : Nat) (x : Domain) : (s.setDomain c x).drops = s.drops := rfl
@[simp] theorem State.setDomain_time (s : State) (c : Nat) (x : Domain) : (s.setDomain c x).time = s.time := rfl
@[simp] theorem State.setDomain_agenda (s : State) (c : Nat) (x : Domain) : (s.setDomain c x).agenda = s.agenda := rfl
@[simp] theorem State.setDomain_free (s : State) (c : Nat) (x : Domain) : (s.setDomain c x).free = s.free := rfl
@[simp] theorem State.setDomain_progress (s : State) (c : Nat) (x : Domain) : (s.setDomain c x).progress = s.progress := rfl
@[simp] theorem State.setDomain_fresh (s : State) (c : Nat) (x : Domain) : (s.setDomain c x).fresh = s.fresh := rfl
@[simp] theorem State.setDomain_fwlog (s : State) (c : Nat) (x : Domain) : (s.setDomain c x).fwlog = s.fwlog := rfl
@[simp] theorem State.setDomain_rdcGiB (s : State) (c : Nat) (x : Domain) : (s.setDomain c x).rdcGiB = s.rdcGiB := rfl
@[simp] theorem State.setDomain_cxl (s : State) (c : Nat) (x : Domain) : (s.setDomain c x).cxl = s.cxl := rfl
@[simp] theorem State.setDomain_migrating (s : State) (c : Nat) (x : Domain) : (s.setDomain c x).migrating = s.migrating := rfl
@[simp] theorem State.setDomain_phase (s : State) (c : Nat) (x : Domain) : (s.setDomain c x).phase = s.phase := rfl
@[simp] theorem State.setDomain_pdir (s : State) (c : Nat) (x : Domain) : (s.setDomain c x).pdir = s.pdir := rfl
@[simp] theorem State.setDomain_txns (s : State) (c : Nat) (x : Domain) : (s.setDomain c x).txns = s.txns := rfl
@[simp] theorem State.setDomain_homeReqs (s : State) (c : Nat) (x : Domain) : (s.setDomain c x).homeReqs = s.homeReqs := rfl
@[simp] theorem State.setDomain_walkAnswers (s : State) (c : Nat) (x : Domain) : (s.setDomain c x).walkAnswers = s.walkAnswers := rfl
@[simp] theorem State.setDomain_behind (s : State) (c : Nat) (x : Domain) : (s.setDomain c x).behind = s.behind := rfl
@[simp] theorem State.setDomain_l2behind (s : State) (c : Nat) (x : Domain) : (s.setDomain c x).l2behind = s.l2behind := rfl
@[simp] theorem State.setDomain_endpoints (s : State) (c : Nat) (x : Domain) : (s.setDomain c x).endpoints = s.endpoints := rfl
@[simp] theorem State.setDomain_regions (s : State) (c : Nat) (x : Domain) : (s.setDomain c x).regions = s.regions := rfl
@[simp] theorem State.setDomain_inbound (s : State) (c : Nat) (x : Domain) : (s.setDomain c x).inbound = s.inbound := rfl
@[simp] theorem State.setDomain_commands (s : State) (c : Nat) (x : Domain) : (s.setDomain c x).commands = s.commands := rfl
@[simp] theorem State.setDomain_sent (s : State) (c : Nat) (x : Domain) : (s.setDomain c x).sent = s.sent := rfl
@[simp] theorem State.setDomain_links (s : State) (c : Nat) (x : Domain) : (s.setDomain c x).links = s.links := rfl
@[simp] theorem State.setDomain_relays (s : State) (c : Nat) (x : Domain) : (s.setDomain c x).relays = s.relays := rfl
@[simp] theorem State.setDomain_cxlDown (s : State) (c : Nat) (x : Domain) : (s.setDomain c x).cxlDown = s.cxlDown := rfl
@[simp] theorem State.setDomain_boot (s : State) (c : Nat) (x : Domain) : (s.setDomain c x).boot = s.boot := rfl
@[simp] theorem State.setDomain_ownerKey (s : State) (c : Nat) (x : Domain) : (s.setDomain c x).ownerKey = s.ownerKey := rfl
@[simp] theorem State.setDomain_rollback (s : State) (c : Nat) (x : Domain) : (s.setDomain c x).rollback = s.rollback := rfl
@[simp] theorem State.setDomain_powerCap (s : State) (c : Nat) (x : Domain) : (s.setDomain c x).powerCap = s.powerCap := rfl
@[simp] theorem State.setDomain_warm (s : State) (c : Nat) (x : Domain) : (s.setDomain c x).warm = s.warm := rfl
@[simp] theorem State.setDomain_fatal (s : State) (c : Nat) (x : Domain) : (s.setDomain c x).fatal = s.fatal := rfl
@[simp] theorem State.setDomain_losses (s : State) (c : Nat) (x : Domain) : (s.setDomain c x).losses = s.losses := rfl

@[simp] theorem State.modCoreAt_cur (s : State) (c : Nat) (f : Core → Core) : (s.modCoreAt c f).cur = s.cur := rfl
@[simp] theorem State.modCoreAt_th (s : State) (c : Nat) (f : Core → Core) : (s.modCoreAt c f).th = s.th := rfl
@[simp] theorem State.modCoreAt_threads (s : State) (c : Nat) (f : Core → Core) : (s.modCoreAt c f).threads = s.threads := rfl
@[simp] theorem State.modCoreAt_tiles (s : State) (c : Nat) (f : Core → Core) : (s.modCoreAt c f).tiles = s.tiles := rfl
@[simp] theorem State.modCoreAt_dies (s : State) (c : Nat) (f : Core → Core) : (s.modCoreAt c f).dies = s.dies := rfl
@[simp] theorem State.modCoreAt_mem (s : State) (c : Nat) (f : Core → Core) : (s.modCoreAt c f).mem = s.mem := rfl
@[simp] theorem State.modCoreAt_poison (s : State) (c : Nat) (f : Core → Core) : (s.modCoreAt c f).poison = s.poison := rfl
@[simp] theorem State.modCoreAt_queues (s : State) (c : Nat) (f : Core → Core) : (s.modCoreAt c f).queues = s.queues := rfl
@[simp] theorem State.modCoreAt_domains (s : State) (c : Nat) (f : Core → Core) : (s.modCoreAt c f).domains = s.domains := rfl
@[simp] theorem State.modCoreAt_lqueues (s : State) (c : Nat) (f : Core → Core) : (s.modCoreAt c f).lqueues = s.lqueues := rfl
@[simp] theorem State.modCoreAt_launches (s : State) (c : Nat) (f : Core → Core) : (s.modCoreAt c f).launches = s.launches := rfl
@[simp] theorem State.modCoreAt_drops (s : State) (c : Nat) (f : Core → Core) : (s.modCoreAt c f).drops = s.drops := rfl
@[simp] theorem State.modCoreAt_time (s : State) (c : Nat) (f : Core → Core) : (s.modCoreAt c f).time = s.time := rfl
@[simp] theorem State.modCoreAt_agenda (s : State) (c : Nat) (f : Core → Core) : (s.modCoreAt c f).agenda = s.agenda := rfl
@[simp] theorem State.modCoreAt_free (s : State) (c : Nat) (f : Core → Core) : (s.modCoreAt c f).free = s.free := rfl
@[simp] theorem State.modCoreAt_progress (s : State) (c : Nat) (f : Core → Core) : (s.modCoreAt c f).progress = s.progress := rfl
@[simp] theorem State.modCoreAt_fresh (s : State) (c : Nat) (f : Core → Core) : (s.modCoreAt c f).fresh = s.fresh := rfl
@[simp] theorem State.modCoreAt_fwlog (s : State) (c : Nat) (f : Core → Core) : (s.modCoreAt c f).fwlog = s.fwlog := rfl
@[simp] theorem State.modCoreAt_rdcGiB (s : State) (c : Nat) (f : Core → Core) : (s.modCoreAt c f).rdcGiB = s.rdcGiB := rfl
@[simp] theorem State.modCoreAt_cxl (s : State) (c : Nat) (f : Core → Core) : (s.modCoreAt c f).cxl = s.cxl := rfl
@[simp] theorem State.modCoreAt_migrating (s : State) (c : Nat) (f : Core → Core) : (s.modCoreAt c f).migrating = s.migrating := rfl
@[simp] theorem State.modCoreAt_phase (s : State) (c : Nat) (f : Core → Core) : (s.modCoreAt c f).phase = s.phase := rfl
@[simp] theorem State.modCoreAt_pdir (s : State) (c : Nat) (f : Core → Core) : (s.modCoreAt c f).pdir = s.pdir := rfl
@[simp] theorem State.modCoreAt_txns (s : State) (c : Nat) (f : Core → Core) : (s.modCoreAt c f).txns = s.txns := rfl
@[simp] theorem State.modCoreAt_homeReqs (s : State) (c : Nat) (f : Core → Core) : (s.modCoreAt c f).homeReqs = s.homeReqs := rfl
@[simp] theorem State.modCoreAt_walkAnswers (s : State) (c : Nat) (f : Core → Core) : (s.modCoreAt c f).walkAnswers = s.walkAnswers := rfl
@[simp] theorem State.modCoreAt_behind (s : State) (c : Nat) (f : Core → Core) : (s.modCoreAt c f).behind = s.behind := rfl
@[simp] theorem State.modCoreAt_l2behind (s : State) (c : Nat) (f : Core → Core) : (s.modCoreAt c f).l2behind = s.l2behind := rfl
@[simp] theorem State.modCoreAt_endpoints (s : State) (c : Nat) (f : Core → Core) : (s.modCoreAt c f).endpoints = s.endpoints := rfl
@[simp] theorem State.modCoreAt_regions (s : State) (c : Nat) (f : Core → Core) : (s.modCoreAt c f).regions = s.regions := rfl
@[simp] theorem State.modCoreAt_inbound (s : State) (c : Nat) (f : Core → Core) : (s.modCoreAt c f).inbound = s.inbound := rfl
@[simp] theorem State.modCoreAt_commands (s : State) (c : Nat) (f : Core → Core) : (s.modCoreAt c f).commands = s.commands := rfl
@[simp] theorem State.modCoreAt_sent (s : State) (c : Nat) (f : Core → Core) : (s.modCoreAt c f).sent = s.sent := rfl
@[simp] theorem State.modCoreAt_links (s : State) (c : Nat) (f : Core → Core) : (s.modCoreAt c f).links = s.links := rfl
@[simp] theorem State.modCoreAt_relays (s : State) (c : Nat) (f : Core → Core) : (s.modCoreAt c f).relays = s.relays := rfl
@[simp] theorem State.modCoreAt_cxlDown (s : State) (c : Nat) (f : Core → Core) : (s.modCoreAt c f).cxlDown = s.cxlDown := rfl
@[simp] theorem State.modCoreAt_boot (s : State) (c : Nat) (f : Core → Core) : (s.modCoreAt c f).boot = s.boot := rfl
@[simp] theorem State.modCoreAt_ownerKey (s : State) (c : Nat) (f : Core → Core) : (s.modCoreAt c f).ownerKey = s.ownerKey := rfl
@[simp] theorem State.modCoreAt_rollback (s : State) (c : Nat) (f : Core → Core) : (s.modCoreAt c f).rollback = s.rollback := rfl
@[simp] theorem State.modCoreAt_powerCap (s : State) (c : Nat) (f : Core → Core) : (s.modCoreAt c f).powerCap = s.powerCap := rfl
@[simp] theorem State.modCoreAt_warm (s : State) (c : Nat) (f : Core → Core) : (s.modCoreAt c f).warm = s.warm := rfl
@[simp] theorem State.modCoreAt_fatal (s : State) (c : Nat) (f : Core → Core) : (s.modCoreAt c f).fatal = s.fatal := rfl
@[simp] theorem State.modCoreAt_losses (s : State) (c : Nat) (f : Core → Core) : (s.modCoreAt c f).losses = s.losses := rfl

@[simp] theorem State.modTileAt_cur (s : State) (c : Nat) (f : Tile → Tile) : (s.modTileAt c f).cur = s.cur := rfl
@[simp] theorem State.modTileAt_th (s : State) (c : Nat) (f : Tile → Tile) : (s.modTileAt c f).th = s.th := rfl
@[simp] theorem State.modTileAt_threads (s : State) (c : Nat) (f : Tile → Tile) : (s.modTileAt c f).threads = s.threads := rfl
@[simp] theorem State.modTileAt_cores (s : State) (c : Nat) (f : Tile → Tile) : (s.modTileAt c f).cores = s.cores := rfl
@[simp] theorem State.modTileAt_dies (s : State) (c : Nat) (f : Tile → Tile) : (s.modTileAt c f).dies = s.dies := rfl
@[simp] theorem State.modTileAt_mem (s : State) (c : Nat) (f : Tile → Tile) : (s.modTileAt c f).mem = s.mem := rfl
@[simp] theorem State.modTileAt_poison (s : State) (c : Nat) (f : Tile → Tile) : (s.modTileAt c f).poison = s.poison := rfl
@[simp] theorem State.modTileAt_queues (s : State) (c : Nat) (f : Tile → Tile) : (s.modTileAt c f).queues = s.queues := rfl
@[simp] theorem State.modTileAt_domains (s : State) (c : Nat) (f : Tile → Tile) : (s.modTileAt c f).domains = s.domains := rfl
@[simp] theorem State.modTileAt_lqueues (s : State) (c : Nat) (f : Tile → Tile) : (s.modTileAt c f).lqueues = s.lqueues := rfl
@[simp] theorem State.modTileAt_launches (s : State) (c : Nat) (f : Tile → Tile) : (s.modTileAt c f).launches = s.launches := rfl
@[simp] theorem State.modTileAt_drops (s : State) (c : Nat) (f : Tile → Tile) : (s.modTileAt c f).drops = s.drops := rfl
@[simp] theorem State.modTileAt_time (s : State) (c : Nat) (f : Tile → Tile) : (s.modTileAt c f).time = s.time := rfl
@[simp] theorem State.modTileAt_agenda (s : State) (c : Nat) (f : Tile → Tile) : (s.modTileAt c f).agenda = s.agenda := rfl
@[simp] theorem State.modTileAt_free (s : State) (c : Nat) (f : Tile → Tile) : (s.modTileAt c f).free = s.free := rfl
@[simp] theorem State.modTileAt_progress (s : State) (c : Nat) (f : Tile → Tile) : (s.modTileAt c f).progress = s.progress := rfl
@[simp] theorem State.modTileAt_fresh (s : State) (c : Nat) (f : Tile → Tile) : (s.modTileAt c f).fresh = s.fresh := rfl
@[simp] theorem State.modTileAt_fwlog (s : State) (c : Nat) (f : Tile → Tile) : (s.modTileAt c f).fwlog = s.fwlog := rfl
@[simp] theorem State.modTileAt_rdcGiB (s : State) (c : Nat) (f : Tile → Tile) : (s.modTileAt c f).rdcGiB = s.rdcGiB := rfl
@[simp] theorem State.modTileAt_cxl (s : State) (c : Nat) (f : Tile → Tile) : (s.modTileAt c f).cxl = s.cxl := rfl
@[simp] theorem State.modTileAt_migrating (s : State) (c : Nat) (f : Tile → Tile) : (s.modTileAt c f).migrating = s.migrating := rfl
@[simp] theorem State.modTileAt_phase (s : State) (c : Nat) (f : Tile → Tile) : (s.modTileAt c f).phase = s.phase := rfl
@[simp] theorem State.modTileAt_pdir (s : State) (c : Nat) (f : Tile → Tile) : (s.modTileAt c f).pdir = s.pdir := rfl
@[simp] theorem State.modTileAt_txns (s : State) (c : Nat) (f : Tile → Tile) : (s.modTileAt c f).txns = s.txns := rfl
@[simp] theorem State.modTileAt_homeReqs (s : State) (c : Nat) (f : Tile → Tile) : (s.modTileAt c f).homeReqs = s.homeReqs := rfl
@[simp] theorem State.modTileAt_walkAnswers (s : State) (c : Nat) (f : Tile → Tile) : (s.modTileAt c f).walkAnswers = s.walkAnswers := rfl
@[simp] theorem State.modTileAt_behind (s : State) (c : Nat) (f : Tile → Tile) : (s.modTileAt c f).behind = s.behind := rfl
@[simp] theorem State.modTileAt_l2behind (s : State) (c : Nat) (f : Tile → Tile) : (s.modTileAt c f).l2behind = s.l2behind := rfl
@[simp] theorem State.modTileAt_endpoints (s : State) (c : Nat) (f : Tile → Tile) : (s.modTileAt c f).endpoints = s.endpoints := rfl
@[simp] theorem State.modTileAt_regions (s : State) (c : Nat) (f : Tile → Tile) : (s.modTileAt c f).regions = s.regions := rfl
@[simp] theorem State.modTileAt_inbound (s : State) (c : Nat) (f : Tile → Tile) : (s.modTileAt c f).inbound = s.inbound := rfl
@[simp] theorem State.modTileAt_commands (s : State) (c : Nat) (f : Tile → Tile) : (s.modTileAt c f).commands = s.commands := rfl
@[simp] theorem State.modTileAt_sent (s : State) (c : Nat) (f : Tile → Tile) : (s.modTileAt c f).sent = s.sent := rfl
@[simp] theorem State.modTileAt_links (s : State) (c : Nat) (f : Tile → Tile) : (s.modTileAt c f).links = s.links := rfl
@[simp] theorem State.modTileAt_relays (s : State) (c : Nat) (f : Tile → Tile) : (s.modTileAt c f).relays = s.relays := rfl
@[simp] theorem State.modTileAt_cxlDown (s : State) (c : Nat) (f : Tile → Tile) : (s.modTileAt c f).cxlDown = s.cxlDown := rfl
@[simp] theorem State.modTileAt_boot (s : State) (c : Nat) (f : Tile → Tile) : (s.modTileAt c f).boot = s.boot := rfl
@[simp] theorem State.modTileAt_ownerKey (s : State) (c : Nat) (f : Tile → Tile) : (s.modTileAt c f).ownerKey = s.ownerKey := rfl
@[simp] theorem State.modTileAt_rollback (s : State) (c : Nat) (f : Tile → Tile) : (s.modTileAt c f).rollback = s.rollback := rfl
@[simp] theorem State.modTileAt_powerCap (s : State) (c : Nat) (f : Tile → Tile) : (s.modTileAt c f).powerCap = s.powerCap := rfl
@[simp] theorem State.modTileAt_warm (s : State) (c : Nat) (f : Tile → Tile) : (s.modTileAt c f).warm = s.warm := rfl
@[simp] theorem State.modTileAt_fatal (s : State) (c : Nat) (f : Tile → Tile) : (s.modTileAt c f).fatal = s.fatal := rfl
@[simp] theorem State.modTileAt_losses (s : State) (c : Nat) (f : Tile → Tile) : (s.modTileAt c f).losses = s.losses := rfl

@[simp] theorem State.modDie_cur (s : State) (c : Nat) (f : Die → Die) : (s.modDie c f).cur = s.cur := rfl
@[simp] theorem State.modDie_th (s : State) (c : Nat) (f : Die → Die) : (s.modDie c f).th = s.th := rfl
@[simp] theorem State.modDie_threads (s : State) (c : Nat) (f : Die → Die) : (s.modDie c f).threads = s.threads := rfl
@[simp] theorem State.modDie_cores (s : State) (c : Nat) (f : Die → Die) : (s.modDie c f).cores = s.cores := rfl
@[simp] theorem State.modDie_tiles (s : State) (c : Nat) (f : Die → Die) : (s.modDie c f).tiles = s.tiles := rfl
@[simp] theorem State.modDie_mem (s : State) (c : Nat) (f : Die → Die) : (s.modDie c f).mem = s.mem := rfl
@[simp] theorem State.modDie_poison (s : State) (c : Nat) (f : Die → Die) : (s.modDie c f).poison = s.poison := rfl
@[simp] theorem State.modDie_queues (s : State) (c : Nat) (f : Die → Die) : (s.modDie c f).queues = s.queues := rfl
@[simp] theorem State.modDie_domains (s : State) (c : Nat) (f : Die → Die) : (s.modDie c f).domains = s.domains := rfl
@[simp] theorem State.modDie_lqueues (s : State) (c : Nat) (f : Die → Die) : (s.modDie c f).lqueues = s.lqueues := rfl
@[simp] theorem State.modDie_launches (s : State) (c : Nat) (f : Die → Die) : (s.modDie c f).launches = s.launches := rfl
@[simp] theorem State.modDie_drops (s : State) (c : Nat) (f : Die → Die) : (s.modDie c f).drops = s.drops := rfl
@[simp] theorem State.modDie_time (s : State) (c : Nat) (f : Die → Die) : (s.modDie c f).time = s.time := rfl
@[simp] theorem State.modDie_agenda (s : State) (c : Nat) (f : Die → Die) : (s.modDie c f).agenda = s.agenda := rfl
@[simp] theorem State.modDie_free (s : State) (c : Nat) (f : Die → Die) : (s.modDie c f).free = s.free := rfl
@[simp] theorem State.modDie_progress (s : State) (c : Nat) (f : Die → Die) : (s.modDie c f).progress = s.progress := rfl
@[simp] theorem State.modDie_fresh (s : State) (c : Nat) (f : Die → Die) : (s.modDie c f).fresh = s.fresh := rfl
@[simp] theorem State.modDie_fwlog (s : State) (c : Nat) (f : Die → Die) : (s.modDie c f).fwlog = s.fwlog := rfl
@[simp] theorem State.modDie_rdcGiB (s : State) (c : Nat) (f : Die → Die) : (s.modDie c f).rdcGiB = s.rdcGiB := rfl
@[simp] theorem State.modDie_cxl (s : State) (c : Nat) (f : Die → Die) : (s.modDie c f).cxl = s.cxl := rfl
@[simp] theorem State.modDie_migrating (s : State) (c : Nat) (f : Die → Die) : (s.modDie c f).migrating = s.migrating := rfl
@[simp] theorem State.modDie_phase (s : State) (c : Nat) (f : Die → Die) : (s.modDie c f).phase = s.phase := rfl
@[simp] theorem State.modDie_pdir (s : State) (c : Nat) (f : Die → Die) : (s.modDie c f).pdir = s.pdir := rfl
@[simp] theorem State.modDie_txns (s : State) (c : Nat) (f : Die → Die) : (s.modDie c f).txns = s.txns := rfl
@[simp] theorem State.modDie_homeReqs (s : State) (c : Nat) (f : Die → Die) : (s.modDie c f).homeReqs = s.homeReqs := rfl
@[simp] theorem State.modDie_walkAnswers (s : State) (c : Nat) (f : Die → Die) : (s.modDie c f).walkAnswers = s.walkAnswers := rfl
@[simp] theorem State.modDie_behind (s : State) (c : Nat) (f : Die → Die) : (s.modDie c f).behind = s.behind := rfl
@[simp] theorem State.modDie_l2behind (s : State) (c : Nat) (f : Die → Die) : (s.modDie c f).l2behind = s.l2behind := rfl
@[simp] theorem State.modDie_endpoints (s : State) (c : Nat) (f : Die → Die) : (s.modDie c f).endpoints = s.endpoints := rfl
@[simp] theorem State.modDie_regions (s : State) (c : Nat) (f : Die → Die) : (s.modDie c f).regions = s.regions := rfl
@[simp] theorem State.modDie_inbound (s : State) (c : Nat) (f : Die → Die) : (s.modDie c f).inbound = s.inbound := rfl
@[simp] theorem State.modDie_commands (s : State) (c : Nat) (f : Die → Die) : (s.modDie c f).commands = s.commands := rfl
@[simp] theorem State.modDie_sent (s : State) (c : Nat) (f : Die → Die) : (s.modDie c f).sent = s.sent := rfl
@[simp] theorem State.modDie_links (s : State) (c : Nat) (f : Die → Die) : (s.modDie c f).links = s.links := rfl
@[simp] theorem State.modDie_relays (s : State) (c : Nat) (f : Die → Die) : (s.modDie c f).relays = s.relays := rfl
@[simp] theorem State.modDie_cxlDown (s : State) (c : Nat) (f : Die → Die) : (s.modDie c f).cxlDown = s.cxlDown := rfl
@[simp] theorem State.modDie_boot (s : State) (c : Nat) (f : Die → Die) : (s.modDie c f).boot = s.boot := rfl
@[simp] theorem State.modDie_ownerKey (s : State) (c : Nat) (f : Die → Die) : (s.modDie c f).ownerKey = s.ownerKey := rfl
@[simp] theorem State.modDie_rollback (s : State) (c : Nat) (f : Die → Die) : (s.modDie c f).rollback = s.rollback := rfl
@[simp] theorem State.modDie_powerCap (s : State) (c : Nat) (f : Die → Die) : (s.modDie c f).powerCap = s.powerCap := rfl
@[simp] theorem State.modDie_warm (s : State) (c : Nat) (f : Die → Die) : (s.modDie c f).warm = s.warm := rfl
@[simp] theorem State.modDie_fatal (s : State) (c : Nat) (f : Die → Die) : (s.modDie c f).fatal = s.fatal := rfl
@[simp] theorem State.modDie_losses (s : State) (c : Nat) (f : Die → Die) : (s.modDie c f).losses = s.losses := rfl

@[simp] theorem State.setThread_cur (s : State) (h : Nat) (x : Thread) : (s.setThread h x).cur = s.cur := by unfold State.setThread; split <;> rfl
@[simp] theorem State.setThread_cores (s : State) (h : Nat) (x : Thread) : (s.setThread h x).cores = s.cores := by unfold State.setThread; split <;> rfl
@[simp] theorem State.setThread_tiles (s : State) (h : Nat) (x : Thread) : (s.setThread h x).tiles = s.tiles := by unfold State.setThread; split <;> rfl
@[simp] theorem State.setThread_dies (s : State) (h : Nat) (x : Thread) : (s.setThread h x).dies = s.dies := by unfold State.setThread; split <;> rfl
@[simp] theorem State.setThread_mem (s : State) (h : Nat) (x : Thread) : (s.setThread h x).mem = s.mem := by unfold State.setThread; split <;> rfl
@[simp] theorem State.setThread_poison (s : State) (h : Nat) (x : Thread) : (s.setThread h x).poison = s.poison := by unfold State.setThread; split <;> rfl
@[simp] theorem State.setThread_queues (s : State) (h : Nat) (x : Thread) : (s.setThread h x).queues = s.queues := by unfold State.setThread; split <;> rfl
@[simp] theorem State.setThread_domains (s : State) (h : Nat) (x : Thread) : (s.setThread h x).domains = s.domains := by unfold State.setThread; split <;> rfl
@[simp] theorem State.setThread_lqueues (s : State) (h : Nat) (x : Thread) : (s.setThread h x).lqueues = s.lqueues := by unfold State.setThread; split <;> rfl
@[simp] theorem State.setThread_launches (s : State) (h : Nat) (x : Thread) : (s.setThread h x).launches = s.launches := by unfold State.setThread; split <;> rfl
@[simp] theorem State.setThread_drops (s : State) (h : Nat) (x : Thread) : (s.setThread h x).drops = s.drops := by unfold State.setThread; split <;> rfl
@[simp] theorem State.setThread_time (s : State) (h : Nat) (x : Thread) : (s.setThread h x).time = s.time := by unfold State.setThread; split <;> rfl
@[simp] theorem State.setThread_agenda (s : State) (h : Nat) (x : Thread) : (s.setThread h x).agenda = s.agenda := by unfold State.setThread; split <;> rfl
@[simp] theorem State.setThread_free (s : State) (h : Nat) (x : Thread) : (s.setThread h x).free = s.free := by unfold State.setThread; split <;> rfl
@[simp] theorem State.setThread_progress (s : State) (h : Nat) (x : Thread) : (s.setThread h x).progress = s.progress := by unfold State.setThread; split <;> rfl
@[simp] theorem State.setThread_fresh (s : State) (h : Nat) (x : Thread) : (s.setThread h x).fresh = s.fresh := by unfold State.setThread; split <;> rfl
@[simp] theorem State.setThread_fwlog (s : State) (h : Nat) (x : Thread) : (s.setThread h x).fwlog = s.fwlog := by unfold State.setThread; split <;> rfl
@[simp] theorem State.setThread_rdcGiB (s : State) (h : Nat) (x : Thread) : (s.setThread h x).rdcGiB = s.rdcGiB := by unfold State.setThread; split <;> rfl
@[simp] theorem State.setThread_cxl (s : State) (h : Nat) (x : Thread) : (s.setThread h x).cxl = s.cxl := by unfold State.setThread; split <;> rfl
@[simp] theorem State.setThread_migrating (s : State) (h : Nat) (x : Thread) : (s.setThread h x).migrating = s.migrating := by unfold State.setThread; split <;> rfl
@[simp] theorem State.setThread_phase (s : State) (h : Nat) (x : Thread) : (s.setThread h x).phase = s.phase := by unfold State.setThread; split <;> rfl
@[simp] theorem State.setThread_pdir (s : State) (h : Nat) (x : Thread) : (s.setThread h x).pdir = s.pdir := by unfold State.setThread; split <;> rfl
@[simp] theorem State.setThread_txns (s : State) (h : Nat) (x : Thread) : (s.setThread h x).txns = s.txns := by unfold State.setThread; split <;> rfl
@[simp] theorem State.setThread_homeReqs (s : State) (h : Nat) (x : Thread) : (s.setThread h x).homeReqs = s.homeReqs := by unfold State.setThread; split <;> rfl
@[simp] theorem State.setThread_walkAnswers (s : State) (h : Nat) (x : Thread) : (s.setThread h x).walkAnswers = s.walkAnswers := by unfold State.setThread; split <;> rfl
@[simp] theorem State.setThread_behind (s : State) (h : Nat) (x : Thread) : (s.setThread h x).behind = s.behind := by unfold State.setThread; split <;> rfl
@[simp] theorem State.setThread_l2behind (s : State) (h : Nat) (x : Thread) : (s.setThread h x).l2behind = s.l2behind := by unfold State.setThread; split <;> rfl
@[simp] theorem State.setThread_endpoints (s : State) (h : Nat) (x : Thread) : (s.setThread h x).endpoints = s.endpoints := by unfold State.setThread; split <;> rfl
@[simp] theorem State.setThread_regions (s : State) (h : Nat) (x : Thread) : (s.setThread h x).regions = s.regions := by unfold State.setThread; split <;> rfl
@[simp] theorem State.setThread_inbound (s : State) (h : Nat) (x : Thread) : (s.setThread h x).inbound = s.inbound := by unfold State.setThread; split <;> rfl
@[simp] theorem State.setThread_commands (s : State) (h : Nat) (x : Thread) : (s.setThread h x).commands = s.commands := by unfold State.setThread; split <;> rfl
@[simp] theorem State.setThread_sent (s : State) (h : Nat) (x : Thread) : (s.setThread h x).sent = s.sent := by unfold State.setThread; split <;> rfl
@[simp] theorem State.setThread_links (s : State) (h : Nat) (x : Thread) : (s.setThread h x).links = s.links := by unfold State.setThread; split <;> rfl
@[simp] theorem State.setThread_relays (s : State) (h : Nat) (x : Thread) : (s.setThread h x).relays = s.relays := by unfold State.setThread; split <;> rfl
@[simp] theorem State.setThread_cxlDown (s : State) (h : Nat) (x : Thread) : (s.setThread h x).cxlDown = s.cxlDown := by unfold State.setThread; split <;> rfl
@[simp] theorem State.setThread_boot (s : State) (h : Nat) (x : Thread) : (s.setThread h x).boot = s.boot := by unfold State.setThread; split <;> rfl
@[simp] theorem State.setThread_ownerKey (s : State) (h : Nat) (x : Thread) : (s.setThread h x).ownerKey = s.ownerKey := by unfold State.setThread; split <;> rfl
@[simp] theorem State.setThread_rollback (s : State) (h : Nat) (x : Thread) : (s.setThread h x).rollback = s.rollback := by unfold State.setThread; split <;> rfl
@[simp] theorem State.setThread_powerCap (s : State) (h : Nat) (x : Thread) : (s.setThread h x).powerCap = s.powerCap := by unfold State.setThread; split <;> rfl
@[simp] theorem State.setThread_warm (s : State) (h : Nat) (x : Thread) : (s.setThread h x).warm = s.warm := by unfold State.setThread; split <;> rfl
@[simp] theorem State.setThread_fatal (s : State) (h : Nat) (x : Thread) : (s.setThread h x).fatal = s.fatal := by unfold State.setThread; split <;> rfl
@[simp] theorem State.setThread_losses (s : State) (h : Nat) (x : Thread) : (s.setThread h x).losses = s.losses := by unfold State.setThread; split <;> rfl

@[simp] theorem State.focus_cores (s : State) (h : Nat) : (s.focus h).cores = s.cores := by unfold State.focus; split <;> rfl
@[simp] theorem State.focus_tiles (s : State) (h : Nat) : (s.focus h).tiles = s.tiles := by unfold State.focus; split <;> rfl
@[simp] theorem State.focus_dies (s : State) (h : Nat) : (s.focus h).dies = s.dies := by unfold State.focus; split <;> rfl
@[simp] theorem State.focus_mem (s : State) (h : Nat) : (s.focus h).mem = s.mem := by unfold State.focus; split <;> rfl
@[simp] theorem State.focus_poison (s : State) (h : Nat) : (s.focus h).poison = s.poison := by unfold State.focus; split <;> rfl
@[simp] theorem State.focus_queues (s : State) (h : Nat) : (s.focus h).queues = s.queues := by unfold State.focus; split <;> rfl
@[simp] theorem State.focus_domains (s : State) (h : Nat) : (s.focus h).domains = s.domains := by unfold State.focus; split <;> rfl
@[simp] theorem State.focus_lqueues (s : State) (h : Nat) : (s.focus h).lqueues = s.lqueues := by unfold State.focus; split <;> rfl
@[simp] theorem State.focus_launches (s : State) (h : Nat) : (s.focus h).launches = s.launches := by unfold State.focus; split <;> rfl
@[simp] theorem State.focus_drops (s : State) (h : Nat) : (s.focus h).drops = s.drops := by unfold State.focus; split <;> rfl
@[simp] theorem State.focus_time (s : State) (h : Nat) : (s.focus h).time = s.time := by unfold State.focus; split <;> rfl
@[simp] theorem State.focus_agenda (s : State) (h : Nat) : (s.focus h).agenda = s.agenda := by unfold State.focus; split <;> rfl
@[simp] theorem State.focus_free (s : State) (h : Nat) : (s.focus h).free = s.free := by unfold State.focus; split <;> rfl
@[simp] theorem State.focus_progress (s : State) (h : Nat) : (s.focus h).progress = s.progress := by unfold State.focus; split <;> rfl
@[simp] theorem State.focus_fresh (s : State) (h : Nat) : (s.focus h).fresh = s.fresh := by unfold State.focus; split <;> rfl
@[simp] theorem State.focus_fwlog (s : State) (h : Nat) : (s.focus h).fwlog = s.fwlog := by unfold State.focus; split <;> rfl
@[simp] theorem State.focus_rdcGiB (s : State) (h : Nat) : (s.focus h).rdcGiB = s.rdcGiB := by unfold State.focus; split <;> rfl
@[simp] theorem State.focus_cxl (s : State) (h : Nat) : (s.focus h).cxl = s.cxl := by unfold State.focus; split <;> rfl
@[simp] theorem State.focus_migrating (s : State) (h : Nat) : (s.focus h).migrating = s.migrating := by unfold State.focus; split <;> rfl
@[simp] theorem State.focus_phase (s : State) (h : Nat) : (s.focus h).phase = s.phase := by unfold State.focus; split <;> rfl
@[simp] theorem State.focus_pdir (s : State) (h : Nat) : (s.focus h).pdir = s.pdir := by unfold State.focus; split <;> rfl
@[simp] theorem State.focus_txns (s : State) (h : Nat) : (s.focus h).txns = s.txns := by unfold State.focus; split <;> rfl
@[simp] theorem State.focus_homeReqs (s : State) (h : Nat) : (s.focus h).homeReqs = s.homeReqs := by unfold State.focus; split <;> rfl
@[simp] theorem State.focus_walkAnswers (s : State) (h : Nat) : (s.focus h).walkAnswers = s.walkAnswers := by unfold State.focus; split <;> rfl
@[simp] theorem State.focus_behind (s : State) (h : Nat) : (s.focus h).behind = s.behind := by unfold State.focus; split <;> rfl
@[simp] theorem State.focus_l2behind (s : State) (h : Nat) : (s.focus h).l2behind = s.l2behind := by unfold State.focus; split <;> rfl
@[simp] theorem State.focus_endpoints (s : State) (h : Nat) : (s.focus h).endpoints = s.endpoints := by unfold State.focus; split <;> rfl
@[simp] theorem State.focus_regions (s : State) (h : Nat) : (s.focus h).regions = s.regions := by unfold State.focus; split <;> rfl
@[simp] theorem State.focus_inbound (s : State) (h : Nat) : (s.focus h).inbound = s.inbound := by unfold State.focus; split <;> rfl
@[simp] theorem State.focus_commands (s : State) (h : Nat) : (s.focus h).commands = s.commands := by unfold State.focus; split <;> rfl
@[simp] theorem State.focus_sent (s : State) (h : Nat) : (s.focus h).sent = s.sent := by unfold State.focus; split <;> rfl
@[simp] theorem State.focus_links (s : State) (h : Nat) : (s.focus h).links = s.links := by unfold State.focus; split <;> rfl
@[simp] theorem State.focus_relays (s : State) (h : Nat) : (s.focus h).relays = s.relays := by unfold State.focus; split <;> rfl
@[simp] theorem State.focus_cxlDown (s : State) (h : Nat) : (s.focus h).cxlDown = s.cxlDown := by unfold State.focus; split <;> rfl
@[simp] theorem State.focus_boot (s : State) (h : Nat) : (s.focus h).boot = s.boot := by unfold State.focus; split <;> rfl
@[simp] theorem State.focus_ownerKey (s : State) (h : Nat) : (s.focus h).ownerKey = s.ownerKey := by unfold State.focus; split <;> rfl
@[simp] theorem State.focus_rollback (s : State) (h : Nat) : (s.focus h).rollback = s.rollback := by unfold State.focus; split <;> rfl
@[simp] theorem State.focus_powerCap (s : State) (h : Nat) : (s.focus h).powerCap = s.powerCap := by unfold State.focus; split <;> rfl
@[simp] theorem State.focus_warm (s : State) (h : Nat) : (s.focus h).warm = s.warm := by unfold State.focus; split <;> rfl
@[simp] theorem State.focus_fatal (s : State) (h : Nat) : (s.focus h).fatal = s.fatal := by unfold State.focus; split <;> rfl
@[simp] theorem State.focus_losses (s : State) (h : Nat) : (s.focus h).losses = s.losses := by unfold State.focus; split <;> rfl

@[simp] theorem State.setByte_cur (s : State) (a : Nat) (b : Byte) : (s.setByte a b).cur = s.cur := by unfold State.setByte; split <;> rfl
@[simp] theorem State.setByte_th (s : State) (a : Nat) (b : Byte) : (s.setByte a b).th = s.th := by unfold State.setByte; split <;> rfl
@[simp] theorem State.setByte_threads (s : State) (a : Nat) (b : Byte) : (s.setByte a b).threads = s.threads := by unfold State.setByte; split <;> rfl
@[simp] theorem State.setByte_cores (s : State) (a : Nat) (b : Byte) : (s.setByte a b).cores = s.cores := by unfold State.setByte; split <;> rfl
@[simp] theorem State.setByte_tiles (s : State) (a : Nat) (b : Byte) : (s.setByte a b).tiles = s.tiles := by unfold State.setByte; split <;> rfl
@[simp] theorem State.setByte_dies (s : State) (a : Nat) (b : Byte) : (s.setByte a b).dies = s.dies := by unfold State.setByte; split <;> rfl
@[simp] theorem State.setByte_poison (s : State) (a : Nat) (b : Byte) : (s.setByte a b).poison = s.poison := by unfold State.setByte; split <;> rfl
@[simp] theorem State.setByte_queues (s : State) (a : Nat) (b : Byte) : (s.setByte a b).queues = s.queues := by unfold State.setByte; split <;> rfl
@[simp] theorem State.setByte_domains (s : State) (a : Nat) (b : Byte) : (s.setByte a b).domains = s.domains := by unfold State.setByte; split <;> rfl
@[simp] theorem State.setByte_lqueues (s : State) (a : Nat) (b : Byte) : (s.setByte a b).lqueues = s.lqueues := by unfold State.setByte; split <;> rfl
@[simp] theorem State.setByte_launches (s : State) (a : Nat) (b : Byte) : (s.setByte a b).launches = s.launches := by unfold State.setByte; split <;> rfl
@[simp] theorem State.setByte_drops (s : State) (a : Nat) (b : Byte) : (s.setByte a b).drops = s.drops := by unfold State.setByte; split <;> rfl
@[simp] theorem State.setByte_time (s : State) (a : Nat) (b : Byte) : (s.setByte a b).time = s.time := by unfold State.setByte; split <;> rfl
@[simp] theorem State.setByte_agenda (s : State) (a : Nat) (b : Byte) : (s.setByte a b).agenda = s.agenda := by unfold State.setByte; split <;> rfl
@[simp] theorem State.setByte_free (s : State) (a : Nat) (b : Byte) : (s.setByte a b).free = s.free := by unfold State.setByte; split <;> rfl
@[simp] theorem State.setByte_progress (s : State) (a : Nat) (b : Byte) : (s.setByte a b).progress = s.progress := by unfold State.setByte; split <;> rfl
@[simp] theorem State.setByte_fresh (s : State) (a : Nat) (b : Byte) : (s.setByte a b).fresh = s.fresh := by unfold State.setByte; split <;> rfl
@[simp] theorem State.setByte_fwlog (s : State) (a : Nat) (b : Byte) : (s.setByte a b).fwlog = s.fwlog := by unfold State.setByte; split <;> rfl
@[simp] theorem State.setByte_rdcGiB (s : State) (a : Nat) (b : Byte) : (s.setByte a b).rdcGiB = s.rdcGiB := by unfold State.setByte; split <;> rfl
@[simp] theorem State.setByte_cxl (s : State) (a : Nat) (b : Byte) : (s.setByte a b).cxl = s.cxl := by unfold State.setByte; split <;> rfl
@[simp] theorem State.setByte_migrating (s : State) (a : Nat) (b : Byte) : (s.setByte a b).migrating = s.migrating := by unfold State.setByte; split <;> rfl
@[simp] theorem State.setByte_phase (s : State) (a : Nat) (b : Byte) : (s.setByte a b).phase = s.phase := by unfold State.setByte; split <;> rfl
@[simp] theorem State.setByte_pdir (s : State) (a : Nat) (b : Byte) : (s.setByte a b).pdir = s.pdir := by unfold State.setByte; split <;> rfl
@[simp] theorem State.setByte_txns (s : State) (a : Nat) (b : Byte) : (s.setByte a b).txns = s.txns := by unfold State.setByte; split <;> rfl
@[simp] theorem State.setByte_homeReqs (s : State) (a : Nat) (b : Byte) : (s.setByte a b).homeReqs = s.homeReqs := by unfold State.setByte; split <;> rfl
@[simp] theorem State.setByte_walkAnswers (s : State) (a : Nat) (b : Byte) : (s.setByte a b).walkAnswers = s.walkAnswers := by unfold State.setByte; split <;> rfl
@[simp] theorem State.setByte_behind (s : State) (a : Nat) (b : Byte) : (s.setByte a b).behind = s.behind := by unfold State.setByte; split <;> rfl
@[simp] theorem State.setByte_l2behind (s : State) (a : Nat) (b : Byte) : (s.setByte a b).l2behind = s.l2behind := by unfold State.setByte; split <;> rfl
@[simp] theorem State.setByte_endpoints (s : State) (a : Nat) (b : Byte) : (s.setByte a b).endpoints = s.endpoints := by unfold State.setByte; split <;> rfl
@[simp] theorem State.setByte_regions (s : State) (a : Nat) (b : Byte) : (s.setByte a b).regions = s.regions := by unfold State.setByte; split <;> rfl
@[simp] theorem State.setByte_inbound (s : State) (a : Nat) (b : Byte) : (s.setByte a b).inbound = s.inbound := by unfold State.setByte; split <;> rfl
@[simp] theorem State.setByte_commands (s : State) (a : Nat) (b : Byte) : (s.setByte a b).commands = s.commands := by unfold State.setByte; split <;> rfl
@[simp] theorem State.setByte_sent (s : State) (a : Nat) (b : Byte) : (s.setByte a b).sent = s.sent := by unfold State.setByte; split <;> rfl
@[simp] theorem State.setByte_links (s : State) (a : Nat) (b : Byte) : (s.setByte a b).links = s.links := by unfold State.setByte; split <;> rfl
@[simp] theorem State.setByte_relays (s : State) (a : Nat) (b : Byte) : (s.setByte a b).relays = s.relays := by unfold State.setByte; split <;> rfl
@[simp] theorem State.setByte_cxlDown (s : State) (a : Nat) (b : Byte) : (s.setByte a b).cxlDown = s.cxlDown := by unfold State.setByte; split <;> rfl
@[simp] theorem State.setByte_boot (s : State) (a : Nat) (b : Byte) : (s.setByte a b).boot = s.boot := by unfold State.setByte; split <;> rfl
@[simp] theorem State.setByte_ownerKey (s : State) (a : Nat) (b : Byte) : (s.setByte a b).ownerKey = s.ownerKey := by unfold State.setByte; split <;> rfl
@[simp] theorem State.setByte_rollback (s : State) (a : Nat) (b : Byte) : (s.setByte a b).rollback = s.rollback := by unfold State.setByte; split <;> rfl
@[simp] theorem State.setByte_powerCap (s : State) (a : Nat) (b : Byte) : (s.setByte a b).powerCap = s.powerCap := by unfold State.setByte; split <;> rfl
@[simp] theorem State.setByte_warm (s : State) (a : Nat) (b : Byte) : (s.setByte a b).warm = s.warm := by unfold State.setByte; split <;> rfl
@[simp] theorem State.setByte_fatal (s : State) (a : Nat) (b : Byte) : (s.setByte a b).fatal = s.fatal := by unfold State.setByte; split <;> rfl
@[simp] theorem State.setByte_losses (s : State) (a : Nat) (b : Byte) : (s.setByte a b).losses = s.losses := by unfold State.setByte; split <;> rfl

@[simp] theorem State.setQ_cur (s : State) (i : BitVec 3) (b : Bool) : (s.setQ i b).cur = s.cur := by unfold State.setQ; split <;> rfl
@[simp] theorem State.setQ_threads (s : State) (i : BitVec 3) (b : Bool) : (s.setQ i b).threads = s.threads := by unfold State.setQ; split <;> rfl
@[simp] theorem State.setQ_cores (s : State) (i : BitVec 3) (b : Bool) : (s.setQ i b).cores = s.cores := by unfold State.setQ; split <;> rfl
@[simp] theorem State.setQ_tiles (s : State) (i : BitVec 3) (b : Bool) : (s.setQ i b).tiles = s.tiles := by unfold State.setQ; split <;> rfl
@[simp] theorem State.setQ_dies (s : State) (i : BitVec 3) (b : Bool) : (s.setQ i b).dies = s.dies := by unfold State.setQ; split <;> rfl
@[simp] theorem State.setQ_mem (s : State) (i : BitVec 3) (b : Bool) : (s.setQ i b).mem = s.mem := by unfold State.setQ; split <;> rfl
@[simp] theorem State.setQ_poison (s : State) (i : BitVec 3) (b : Bool) : (s.setQ i b).poison = s.poison := by unfold State.setQ; split <;> rfl
@[simp] theorem State.setQ_queues (s : State) (i : BitVec 3) (b : Bool) : (s.setQ i b).queues = s.queues := by unfold State.setQ; split <;> rfl
@[simp] theorem State.setQ_domains (s : State) (i : BitVec 3) (b : Bool) : (s.setQ i b).domains = s.domains := by unfold State.setQ; split <;> rfl
@[simp] theorem State.setQ_lqueues (s : State) (i : BitVec 3) (b : Bool) : (s.setQ i b).lqueues = s.lqueues := by unfold State.setQ; split <;> rfl
@[simp] theorem State.setQ_launches (s : State) (i : BitVec 3) (b : Bool) : (s.setQ i b).launches = s.launches := by unfold State.setQ; split <;> rfl
@[simp] theorem State.setQ_drops (s : State) (i : BitVec 3) (b : Bool) : (s.setQ i b).drops = s.drops := by unfold State.setQ; split <;> rfl
@[simp] theorem State.setQ_time (s : State) (i : BitVec 3) (b : Bool) : (s.setQ i b).time = s.time := by unfold State.setQ; split <;> rfl
@[simp] theorem State.setQ_agenda (s : State) (i : BitVec 3) (b : Bool) : (s.setQ i b).agenda = s.agenda := by unfold State.setQ; split <;> rfl
@[simp] theorem State.setQ_free (s : State) (i : BitVec 3) (b : Bool) : (s.setQ i b).free = s.free := by unfold State.setQ; split <;> rfl
@[simp] theorem State.setQ_progress (s : State) (i : BitVec 3) (b : Bool) : (s.setQ i b).progress = s.progress := by unfold State.setQ; split <;> rfl
@[simp] theorem State.setQ_fresh (s : State) (i : BitVec 3) (b : Bool) : (s.setQ i b).fresh = s.fresh := by unfold State.setQ; split <;> rfl
@[simp] theorem State.setQ_fwlog (s : State) (i : BitVec 3) (b : Bool) : (s.setQ i b).fwlog = s.fwlog := by unfold State.setQ; split <;> rfl
@[simp] theorem State.setQ_rdcGiB (s : State) (i : BitVec 3) (b : Bool) : (s.setQ i b).rdcGiB = s.rdcGiB := by unfold State.setQ; split <;> rfl
@[simp] theorem State.setQ_cxl (s : State) (i : BitVec 3) (b : Bool) : (s.setQ i b).cxl = s.cxl := by unfold State.setQ; split <;> rfl
@[simp] theorem State.setQ_migrating (s : State) (i : BitVec 3) (b : Bool) : (s.setQ i b).migrating = s.migrating := by unfold State.setQ; split <;> rfl
@[simp] theorem State.setQ_phase (s : State) (i : BitVec 3) (b : Bool) : (s.setQ i b).phase = s.phase := by unfold State.setQ; split <;> rfl
@[simp] theorem State.setQ_pdir (s : State) (i : BitVec 3) (b : Bool) : (s.setQ i b).pdir = s.pdir := by unfold State.setQ; split <;> rfl
@[simp] theorem State.setQ_txns (s : State) (i : BitVec 3) (b : Bool) : (s.setQ i b).txns = s.txns := by unfold State.setQ; split <;> rfl
@[simp] theorem State.setQ_homeReqs (s : State) (i : BitVec 3) (b : Bool) : (s.setQ i b).homeReqs = s.homeReqs := by unfold State.setQ; split <;> rfl
@[simp] theorem State.setQ_walkAnswers (s : State) (i : BitVec 3) (b : Bool) : (s.setQ i b).walkAnswers = s.walkAnswers := by unfold State.setQ; split <;> rfl
@[simp] theorem State.setQ_behind (s : State) (i : BitVec 3) (b : Bool) : (s.setQ i b).behind = s.behind := by unfold State.setQ; split <;> rfl
@[simp] theorem State.setQ_l2behind (s : State) (i : BitVec 3) (b : Bool) : (s.setQ i b).l2behind = s.l2behind := by unfold State.setQ; split <;> rfl
@[simp] theorem State.setQ_endpoints (s : State) (i : BitVec 3) (b : Bool) : (s.setQ i b).endpoints = s.endpoints := by unfold State.setQ; split <;> rfl
@[simp] theorem State.setQ_regions (s : State) (i : BitVec 3) (b : Bool) : (s.setQ i b).regions = s.regions := by unfold State.setQ; split <;> rfl
@[simp] theorem State.setQ_inbound (s : State) (i : BitVec 3) (b : Bool) : (s.setQ i b).inbound = s.inbound := by unfold State.setQ; split <;> rfl
@[simp] theorem State.setQ_commands (s : State) (i : BitVec 3) (b : Bool) : (s.setQ i b).commands = s.commands := by unfold State.setQ; split <;> rfl
@[simp] theorem State.setQ_sent (s : State) (i : BitVec 3) (b : Bool) : (s.setQ i b).sent = s.sent := by unfold State.setQ; split <;> rfl
@[simp] theorem State.setQ_links (s : State) (i : BitVec 3) (b : Bool) : (s.setQ i b).links = s.links := by unfold State.setQ; split <;> rfl
@[simp] theorem State.setQ_relays (s : State) (i : BitVec 3) (b : Bool) : (s.setQ i b).relays = s.relays := by unfold State.setQ; split <;> rfl
@[simp] theorem State.setQ_cxlDown (s : State) (i : BitVec 3) (b : Bool) : (s.setQ i b).cxlDown = s.cxlDown := by unfold State.setQ; split <;> rfl
@[simp] theorem State.setQ_boot (s : State) (i : BitVec 3) (b : Bool) : (s.setQ i b).boot = s.boot := by unfold State.setQ; split <;> rfl
@[simp] theorem State.setQ_ownerKey (s : State) (i : BitVec 3) (b : Bool) : (s.setQ i b).ownerKey = s.ownerKey := by unfold State.setQ; split <;> rfl
@[simp] theorem State.setQ_rollback (s : State) (i : BitVec 3) (b : Bool) : (s.setQ i b).rollback = s.rollback := by unfold State.setQ; split <;> rfl
@[simp] theorem State.setQ_powerCap (s : State) (i : BitVec 3) (b : Bool) : (s.setQ i b).powerCap = s.powerCap := by unfold State.setQ; split <;> rfl
@[simp] theorem State.setQ_warm (s : State) (i : BitVec 3) (b : Bool) : (s.setQ i b).warm = s.warm := by unfold State.setQ; split <;> rfl
@[simp] theorem State.setQ_fatal (s : State) (i : BitVec 3) (b : Bool) : (s.setQ i b).fatal = s.fatal := by unfold State.setQ; split <;> rfl
@[simp] theorem State.setQ_losses (s : State) (i : BitVec 3) (b : Bool) : (s.setQ i b).losses = s.losses := by unfold State.setQ; split <;> rfl

@[simp] theorem State.retire_cur (s : State) (n : Nat) : (s.retire n).cur = s.cur := rfl
@[simp] theorem State.retire_threads (s : State) (n : Nat) : (s.retire n).threads = s.threads := rfl
@[simp] theorem State.retire_cores (s : State) (n : Nat) : (s.retire n).cores = s.cores := rfl
@[simp] theorem State.retire_tiles (s : State) (n : Nat) : (s.retire n).tiles = s.tiles := rfl
@[simp] theorem State.retire_dies (s : State) (n : Nat) : (s.retire n).dies = s.dies := rfl
@[simp] theorem State.retire_mem (s : State) (n : Nat) : (s.retire n).mem = s.mem := rfl
@[simp] theorem State.retire_poison (s : State) (n : Nat) : (s.retire n).poison = s.poison := rfl
@[simp] theorem State.retire_queues (s : State) (n : Nat) : (s.retire n).queues = s.queues := rfl
@[simp] theorem State.retire_domains (s : State) (n : Nat) : (s.retire n).domains = s.domains := rfl
@[simp] theorem State.retire_lqueues (s : State) (n : Nat) : (s.retire n).lqueues = s.lqueues := rfl
@[simp] theorem State.retire_launches (s : State) (n : Nat) : (s.retire n).launches = s.launches := rfl
@[simp] theorem State.retire_drops (s : State) (n : Nat) : (s.retire n).drops = s.drops := rfl
@[simp] theorem State.retire_time (s : State) (n : Nat) : (s.retire n).time = s.time := rfl
@[simp] theorem State.retire_agenda (s : State) (n : Nat) : (s.retire n).agenda = s.agenda := rfl
@[simp] theorem State.retire_free (s : State) (n : Nat) : (s.retire n).free = s.free := rfl
@[simp] theorem State.retire_progress (s : State) (n : Nat) : (s.retire n).progress = s.progress := rfl
@[simp] theorem State.retire_fresh (s : State) (n : Nat) : (s.retire n).fresh = s.fresh := rfl
@[simp] theorem State.retire_fwlog (s : State) (n : Nat) : (s.retire n).fwlog = s.fwlog := rfl
@[simp] theorem State.retire_rdcGiB (s : State) (n : Nat) : (s.retire n).rdcGiB = s.rdcGiB := rfl
@[simp] theorem State.retire_cxl (s : State) (n : Nat) : (s.retire n).cxl = s.cxl := rfl
@[simp] theorem State.retire_migrating (s : State) (n : Nat) : (s.retire n).migrating = s.migrating := rfl
@[simp] theorem State.retire_phase (s : State) (n : Nat) : (s.retire n).phase = s.phase := rfl
@[simp] theorem State.retire_pdir (s : State) (n : Nat) : (s.retire n).pdir = s.pdir := rfl
@[simp] theorem State.retire_txns (s : State) (n : Nat) : (s.retire n).txns = s.txns := rfl
@[simp] theorem State.retire_homeReqs (s : State) (n : Nat) : (s.retire n).homeReqs = s.homeReqs := rfl
@[simp] theorem State.retire_walkAnswers (s : State) (n : Nat) : (s.retire n).walkAnswers = s.walkAnswers := rfl
@[simp] theorem State.retire_behind (s : State) (n : Nat) : (s.retire n).behind = s.behind := rfl
@[simp] theorem State.retire_l2behind (s : State) (n : Nat) : (s.retire n).l2behind = s.l2behind := rfl
@[simp] theorem State.retire_endpoints (s : State) (n : Nat) : (s.retire n).endpoints = s.endpoints := rfl
@[simp] theorem State.retire_regions (s : State) (n : Nat) : (s.retire n).regions = s.regions := rfl
@[simp] theorem State.retire_inbound (s : State) (n : Nat) : (s.retire n).inbound = s.inbound := rfl
@[simp] theorem State.retire_commands (s : State) (n : Nat) : (s.retire n).commands = s.commands := rfl
@[simp] theorem State.retire_sent (s : State) (n : Nat) : (s.retire n).sent = s.sent := rfl
@[simp] theorem State.retire_links (s : State) (n : Nat) : (s.retire n).links = s.links := rfl
@[simp] theorem State.retire_relays (s : State) (n : Nat) : (s.retire n).relays = s.relays := rfl
@[simp] theorem State.retire_cxlDown (s : State) (n : Nat) : (s.retire n).cxlDown = s.cxlDown := rfl
@[simp] theorem State.retire_boot (s : State) (n : Nat) : (s.retire n).boot = s.boot := rfl
@[simp] theorem State.retire_ownerKey (s : State) (n : Nat) : (s.retire n).ownerKey = s.ownerKey := rfl
@[simp] theorem State.retire_rollback (s : State) (n : Nat) : (s.retire n).rollback = s.rollback := rfl
@[simp] theorem State.retire_powerCap (s : State) (n : Nat) : (s.retire n).powerCap = s.powerCap := rfl
@[simp] theorem State.retire_warm (s : State) (n : Nat) : (s.retire n).warm = s.warm := rfl
@[simp] theorem State.retire_fatal (s : State) (n : Nat) : (s.retire n).fatal = s.fatal := rfl
@[simp] theorem State.retire_losses (s : State) (n : Nat) : (s.retire n).losses = s.losses := rfl

@[simp] theorem State.freshen_cur (s : State)  : (s.freshen.2).cur = s.cur := rfl
@[simp] theorem State.freshen_th (s : State)  : (s.freshen.2).th = s.th := rfl
@[simp] theorem State.freshen_threads (s : State)  : (s.freshen.2).threads = s.threads := rfl
@[simp] theorem State.freshen_cores (s : State)  : (s.freshen.2).cores = s.cores := rfl
@[simp] theorem State.freshen_tiles (s : State)  : (s.freshen.2).tiles = s.tiles := rfl
@[simp] theorem State.freshen_dies (s : State)  : (s.freshen.2).dies = s.dies := rfl
@[simp] theorem State.freshen_mem (s : State)  : (s.freshen.2).mem = s.mem := rfl
@[simp] theorem State.freshen_poison (s : State)  : (s.freshen.2).poison = s.poison := rfl
@[simp] theorem State.freshen_queues (s : State)  : (s.freshen.2).queues = s.queues := rfl
@[simp] theorem State.freshen_domains (s : State)  : (s.freshen.2).domains = s.domains := rfl
@[simp] theorem State.freshen_lqueues (s : State)  : (s.freshen.2).lqueues = s.lqueues := rfl
@[simp] theorem State.freshen_launches (s : State)  : (s.freshen.2).launches = s.launches := rfl
@[simp] theorem State.freshen_drops (s : State)  : (s.freshen.2).drops = s.drops := rfl
@[simp] theorem State.freshen_time (s : State)  : (s.freshen.2).time = s.time := rfl
@[simp] theorem State.freshen_agenda (s : State)  : (s.freshen.2).agenda = s.agenda := rfl
@[simp] theorem State.freshen_free (s : State)  : (s.freshen.2).free = s.free := rfl
@[simp] theorem State.freshen_progress (s : State)  : (s.freshen.2).progress = s.progress := rfl
@[simp] theorem State.freshen_fwlog (s : State)  : (s.freshen.2).fwlog = s.fwlog := rfl
@[simp] theorem State.freshen_rdcGiB (s : State)  : (s.freshen.2).rdcGiB = s.rdcGiB := rfl
@[simp] theorem State.freshen_cxl (s : State)  : (s.freshen.2).cxl = s.cxl := rfl
@[simp] theorem State.freshen_migrating (s : State)  : (s.freshen.2).migrating = s.migrating := rfl
@[simp] theorem State.freshen_phase (s : State)  : (s.freshen.2).phase = s.phase := rfl
@[simp] theorem State.freshen_pdir (s : State)  : (s.freshen.2).pdir = s.pdir := rfl
@[simp] theorem State.freshen_txns (s : State)  : (s.freshen.2).txns = s.txns := rfl
@[simp] theorem State.freshen_homeReqs (s : State)  : (s.freshen.2).homeReqs = s.homeReqs := rfl
@[simp] theorem State.freshen_walkAnswers (s : State)  : (s.freshen.2).walkAnswers = s.walkAnswers := rfl
@[simp] theorem State.freshen_behind (s : State)  : (s.freshen.2).behind = s.behind := rfl
@[simp] theorem State.freshen_l2behind (s : State)  : (s.freshen.2).l2behind = s.l2behind := rfl
@[simp] theorem State.freshen_endpoints (s : State)  : (s.freshen.2).endpoints = s.endpoints := rfl
@[simp] theorem State.freshen_regions (s : State)  : (s.freshen.2).regions = s.regions := rfl
@[simp] theorem State.freshen_inbound (s : State)  : (s.freshen.2).inbound = s.inbound := rfl
@[simp] theorem State.freshen_commands (s : State)  : (s.freshen.2).commands = s.commands := rfl
@[simp] theorem State.freshen_sent (s : State)  : (s.freshen.2).sent = s.sent := rfl
@[simp] theorem State.freshen_links (s : State)  : (s.freshen.2).links = s.links := rfl
@[simp] theorem State.freshen_relays (s : State)  : (s.freshen.2).relays = s.relays := rfl
@[simp] theorem State.freshen_cxlDown (s : State)  : (s.freshen.2).cxlDown = s.cxlDown := rfl
@[simp] theorem State.freshen_boot (s : State)  : (s.freshen.2).boot = s.boot := rfl
@[simp] theorem State.freshen_ownerKey (s : State)  : (s.freshen.2).ownerKey = s.ownerKey := rfl
@[simp] theorem State.freshen_rollback (s : State)  : (s.freshen.2).rollback = s.rollback := rfl
@[simp] theorem State.freshen_powerCap (s : State)  : (s.freshen.2).powerCap = s.powerCap := rfl
@[simp] theorem State.freshen_warm (s : State)  : (s.freshen.2).warm = s.warm := rfl
@[simp] theorem State.freshen_fatal (s : State)  : (s.freshen.2).fatal = s.fatal := rfl
@[simp] theorem State.freshen_losses (s : State)  : (s.freshen.2).losses = s.losses := rfl

@[simp] theorem State.choose_cur (s : State) (n : Nat) : ((s.choose n).2).cur = s.cur := rfl
@[simp] theorem State.choose_th (s : State) (n : Nat) : ((s.choose n).2).th = s.th := rfl
@[simp] theorem State.choose_threads (s : State) (n : Nat) : ((s.choose n).2).threads = s.threads := rfl
@[simp] theorem State.choose_cores (s : State) (n : Nat) : ((s.choose n).2).cores = s.cores := rfl
@[simp] theorem State.choose_tiles (s : State) (n : Nat) : ((s.choose n).2).tiles = s.tiles := rfl
@[simp] theorem State.choose_dies (s : State) (n : Nat) : ((s.choose n).2).dies = s.dies := rfl
@[simp] theorem State.choose_mem (s : State) (n : Nat) : ((s.choose n).2).mem = s.mem := rfl
@[simp] theorem State.choose_poison (s : State) (n : Nat) : ((s.choose n).2).poison = s.poison := rfl
@[simp] theorem State.choose_queues (s : State) (n : Nat) : ((s.choose n).2).queues = s.queues := rfl
@[simp] theorem State.choose_domains (s : State) (n : Nat) : ((s.choose n).2).domains = s.domains := rfl
@[simp] theorem State.choose_lqueues (s : State) (n : Nat) : ((s.choose n).2).lqueues = s.lqueues := rfl
@[simp] theorem State.choose_launches (s : State) (n : Nat) : ((s.choose n).2).launches = s.launches := rfl
@[simp] theorem State.choose_drops (s : State) (n : Nat) : ((s.choose n).2).drops = s.drops := rfl
@[simp] theorem State.choose_time (s : State) (n : Nat) : ((s.choose n).2).time = s.time := rfl
@[simp] theorem State.choose_agenda (s : State) (n : Nat) : ((s.choose n).2).agenda = s.agenda := rfl
@[simp] theorem State.choose_progress (s : State) (n : Nat) : ((s.choose n).2).progress = s.progress := rfl
@[simp] theorem State.choose_fresh (s : State) (n : Nat) : ((s.choose n).2).fresh = s.fresh := rfl
@[simp] theorem State.choose_fwlog (s : State) (n : Nat) : ((s.choose n).2).fwlog = s.fwlog := rfl
@[simp] theorem State.choose_rdcGiB (s : State) (n : Nat) : ((s.choose n).2).rdcGiB = s.rdcGiB := rfl
@[simp] theorem State.choose_cxl (s : State) (n : Nat) : ((s.choose n).2).cxl = s.cxl := rfl
@[simp] theorem State.choose_migrating (s : State) (n : Nat) : ((s.choose n).2).migrating = s.migrating := rfl
@[simp] theorem State.choose_phase (s : State) (n : Nat) : ((s.choose n).2).phase = s.phase := rfl
@[simp] theorem State.choose_pdir (s : State) (n : Nat) : ((s.choose n).2).pdir = s.pdir := rfl
@[simp] theorem State.choose_txns (s : State) (n : Nat) : ((s.choose n).2).txns = s.txns := rfl
@[simp] theorem State.choose_homeReqs (s : State) (n : Nat) : ((s.choose n).2).homeReqs = s.homeReqs := rfl
@[simp] theorem State.choose_walkAnswers (s : State) (n : Nat) : ((s.choose n).2).walkAnswers = s.walkAnswers := rfl
@[simp] theorem State.choose_behind (s : State) (n : Nat) : ((s.choose n).2).behind = s.behind := rfl
@[simp] theorem State.choose_l2behind (s : State) (n : Nat) : ((s.choose n).2).l2behind = s.l2behind := rfl
@[simp] theorem State.choose_endpoints (s : State) (n : Nat) : ((s.choose n).2).endpoints = s.endpoints := rfl
@[simp] theorem State.choose_regions (s : State) (n : Nat) : ((s.choose n).2).regions = s.regions := rfl
@[simp] theorem State.choose_inbound (s : State) (n : Nat) : ((s.choose n).2).inbound = s.inbound := rfl
@[simp] theorem State.choose_commands (s : State) (n : Nat) : ((s.choose n).2).commands = s.commands := rfl
@[simp] theorem State.choose_sent (s : State) (n : Nat) : ((s.choose n).2).sent = s.sent := rfl
@[simp] theorem State.choose_links (s : State) (n : Nat) : ((s.choose n).2).links = s.links := rfl
@[simp] theorem State.choose_relays (s : State) (n : Nat) : ((s.choose n).2).relays = s.relays := rfl
@[simp] theorem State.choose_cxlDown (s : State) (n : Nat) : ((s.choose n).2).cxlDown = s.cxlDown := rfl
@[simp] theorem State.choose_boot (s : State) (n : Nat) : ((s.choose n).2).boot = s.boot := rfl
@[simp] theorem State.choose_ownerKey (s : State) (n : Nat) : ((s.choose n).2).ownerKey = s.ownerKey := rfl
@[simp] theorem State.choose_rollback (s : State) (n : Nat) : ((s.choose n).2).rollback = s.rollback := rfl
@[simp] theorem State.choose_powerCap (s : State) (n : Nat) : ((s.choose n).2).powerCap = s.powerCap := rfl
@[simp] theorem State.choose_warm (s : State) (n : Nat) : ((s.choose n).2).warm = s.warm := rfl
@[simp] theorem State.choose_fatal (s : State) (n : Nat) : ((s.choose n).2).fatal = s.fatal := rfl
@[simp] theorem State.choose_losses (s : State) (n : Nat) : ((s.choose n).2).losses = s.losses := rfl

end Sys2Proof.Machine
end

