-- ==== Sys2Proof/Tests/Slice0.lean ====
section
/-! SUPPORT. Tests: ill-formed terms that WellFormed refuses, words written out from the manual's encodings, single steps on
small states, and for every statement with hypotheses concrete states that meet them. Expected values are the manual's worked
examples, or follow by hand from its rules. -/

namespace Sys2Proof.Tests

-- One theorem at a time: many kernel evaluations side by side would need more threads than the memory limit allows.
set_option Elab.async false

open Sys2Proof.Machine

/-! Ill-formed terms: one for each check. -/

theorem test_wf_refuses_events : [Instr.thawMaster 0 0 0x7FFF, .gets 4095 0, .storeBufferDrain 0 8, .walkRequest 4, .windowArrival 0 11,
    .transferStart 0 16, .arrayCommandStart 127, .crumbRestore 0 128, .domainAgeExpiry 16, .preemptionRequest 0 8, .takeoverComplete 0 18,
    .vectorCommandExecute (72 * 64)].all (fun i => !i.wf) = true := by decide +kernel

theorem test_wf_refuses_vector : [Instr.vmov 0 0 0, .vfadd 1 2 3 0 0, .vfsub 1 2 3 0 0, .vfmul 1 2 3 0 0, .vfma 1 2 3 0 0, .vfmin 1 2 3 0 0,
    .vfmax 1 2 3 0 0, .vrcp 1 2 0 0, .vrsq 1 2 0 0, .vrcps 1 2 3 0 0, .vrsqs 1 2 3 0 0, .vtrans 1 3, .vfrsum 1 2 0 0,
    .vselk 1 2 3 0 0].all (fun i => !i.wf) = true := by decide +kernel

theorem test_wf_refuses_units : [Instr.mma 0 0 1 2 0, .mmas 0 3 1 2 0, .mspx 0 0 1 2 0, .mldacc 0 3 1 2 0, .mstacc 0 3 1 2 0, .mwbld 3 1 2 0,
    .sred 0 1 2 3, .sred 0 1 2 7, .tinv 1 7].all (fun i => !i.wf) = true := by decide +kernel

theorem test_wf_refuses_scalar : [Instr.ceq 1 3 2 3, .cgeni 1 3 2 0, .qand 1 3 2 3, .qnot 1 3 2, .lrd 1 3 0, .lwr 1 3 0, .ldb 1 2 0 3 0,
    .ldq 1 2 0 3 0, .stb 1 2 0 3 0, .stq 1 2 0 3 0, .aadd 1 2 3 0 7, .acasW 1 2 3 0 7, .fence 0 0, .fence 1 7, .faddd 1 2 3 5 0,
    .fsqrts 1 2 6 0, .rmake 1 2 3 5 0, .rtod 1 2 6 0, .mrecv 1 1 2 0, .mrecv 1 2 1 0, .mrecv 1 2 2 0].all (fun i => !i.wf) = true := by
  decide +kernel

/-! Words of the manual, by family. -/

/-- A word decodes to an instruction, and the instruction encodes to the word. -/
noncomputable def both (w : BitVec 32) (i : Instr) : Bool :=
  (match decode32 w with
    | .ok j => j == i
    | .error _ => false) && encode i == wordBytes w

/-- R187, R191. -/
theorem test_words_iop : both 0x000A4A03 (.add 8 9 10) ∧ both 0x340A4A03 (.div 8 9 10) ∧ both 0x81EE6B03 (.madd 12 13 14 15) ∧
    both 0x746A4A03 (.sel 8 9 10 3) ∧ both 0x846E6403 (.addx 16 12 14 3) := by decide +kernel
/-- R192, R28, R44. -/
theorem test_words_iopi : both 0xFC001085 (.addi 2 2 (-64)) ∧ both 0x00364A05 (.srai 8 9 3) ∧ both 0x1C894A05 (.bfxi 8 9 0x1C8) ∧
    both 0x003FC247 (.wimm 9 0 0xFF) ∧ both 0x00007247 (.wimmk 9 2 1) ∧ both 0x00000005 (.addi 0 0 0) := by decide +kernel
/-- R195, R198. -/
theorem test_words_cmp : both 0x08094049 (.clt 1 0 8 9) ∧ both 0x23FF2849 (.ceqi 1 0 5 (-1)) ∧ both 0x34644289 (.cgeni 2 1 8 100) ∧
    both 0x380208C9 (.qand 3 0 1 2) ∧ both 0x44004009 (.qpack 8) ∧ both 0x040000C9 (.cne 3 0 0 0) := by decide +kernel
/-- R308, R310, R317. -/
theorem test_words_control : both 0xFFFF608B (.prep 2 (-20)) ∧ both 0x0004024B (.prepc 1 128) ∧ both 0x0060284D (.prepr 1 5 6) ∧
    both 0x0001284D (.preprc 1 5 0) ∧ both 0x00021A0D (.btrd 8 3) ∧ both 0x000300CD (.btclr 3) ∧ both 0x000001CF (.jmp 7 0 0) ∧
    both 0x0000120F (.jmp 0 1 1) ∧ both 0x0000208F (.call 2 0 0) ∧ both 0x0000250F (.call 4 2 0) ∧ both 0x000040CF (.jmpx 3 0 0) ∧
    both 0x00403051 (.lset 1 6 4) ∧ both 0x00413211 (.lseti 0 100 4) ∧ both 0x00420211 (.lrd 8 0 1) ∧ both 0x00034811 (.lwr 9 0 0) ∧
    both 0x00440011 (.lbrk 1) := by decide +kernel
/-- R198, R199. -/
theorem test_words_memory : both 0x01322213 (.ldw 8 4 2 1 2) ∧ both 0xFF84A253 (.ldbn 9 20 0 0 (-1)) ∧ both 0x01071313 (.ldq 6 2 0 0 2) ∧
    both 0x0023A255 (.std 9 20 0 1 0) ∧ both 0x01891A15 (.sth 8 3 1 0 3) ∧ both 0x00043415 (.stq 8 6 0 0 0) := by decide +kernel
/-- R300, R303. -/
theorem test_words_atomics : both 0x030A4A17 (.aadd 8 9 10 0 6) ∧ both 0x2F0A4A17 (.afaddd 8 9 10 0 6) ∧ both 0x414A4A17 (.aaddW 8 9 10 2 2) ∧
    both 0x03600019 (.fence 3 6) ∧ both 0x01400019 (.fence 2 2) ∧ both 0x02200019 (.fence 1 4) ∧ both 0x04000019 .ifence ∧
    both 0x08003819 (.qfence 7) := by decide +kernel
/-- R209, R214, R218. -/
theorem test_words_float : both 0x080A4A1B (.fmuld 8 9 10 0 0) ∧ both 0x412A4A1B (.fadds 8 9 10 1 1) ∧ both 0x10004A1B (.fsqrtd 8 9 0 0) ∧
    both 0x1D6A4A1B (.fmad 8 9 10 11) ∧ both 0x28004A1B (.fclassd 8 9) ∧ both 0x01684A1D (.fcvt 8 9 8 11) ∧
    both 0x10EA4A1D (.rmake 8 9 10 7 0) ∧ both 0x14004A1D (.rnumer 8 9) ∧ both 0x1C0A4A1D (.rmed 8 9 10 0 0) ∧
    both 0x20004A1D (.rcf 4 9) ∧ both 0x24004A1D (.rfromd 8 9 0 0) ∧ both 0x28004A1D (.rtod 8 9 0 0) := by decide +kernel
/-- R328, R347, R353, R253. -/
theorem test_words_tasks : both 0x018B505F (.tspawn 1 10 11 12) ∧ both 0x040B505F (.tspawnn 1 10 11) ∧ both 0x080B509F (.tspawnu 2 10 11) ∧
    both 0x0C0B509F (.callat 2 10 11) ∧ both 0x1400021F (.tts 4) ∧ both 0x18004A1F (.tgvt 4 9) ∧ both 0x000B5061 (.msend 1 10 11) ∧
    both 0x040B5061 (.msendt 1 10 11) ∧ both 0x082A4A21 (.mrecv 8 9 10 1) ∧ both 0x10094021 (.marm 8 9) ∧ both 0x14294021 (.rqput 8 9 1) ∧
    both 0x18200221 (.rqtake 8 1) ∧ both 0x1C094021 (.kbin 8 9) ∧ both 0x20000021 .kdrain ∧ both 0x04204023 (.gjoin 8 1) ∧
    both 0x08004023 (.gleave 8) ∧ both 0x0C004023 (.gbar 8) ∧ both 0x10004263 (.gcount 9 8) ∧ both 0x14004023 (.gfree 8) := by
  decide +kernel
/-- R239, R248, R250, R251, R254. -/
theorem test_words_vector : both 0x320620A5 (.vdot4 2 4 6 0) ∧ both 0x42231065 (.vfma 1 2 3 1 2) ∧ both 0x02004127 (.vld 4 8 0 2) ∧
    both 0x2A090229 (.vselk 8 0 9 0 2) ∧ both 0x09000229 (.vtrans 1 1) ∧ both 0x36031329 (.ksend 12 2 3 0) ∧ both 0x00004A2B (.vclaim 8 9) ∧
    both 0x1800002B .vfence ∧ both 0x0E00002B (.vsetw 2) := by decide +kernel
/-- R258. -/
theorem test_words_matrix : both 0x009CC22D (.mma 0 1 6 7 1) ∧ both 0x042504AD (.mmas 2 2 8 9 0) ∧ both 0x082D432D (.mspx 4 1 10 11 0) ∧
    both 0x0C00006D (.mzero 1 0) ∧ both 0x1035802D (.mldacc 0 0 12 13 0) ∧ both 0x1435822D (.mstacc 0 1 12 13 0) ∧
    both 0x183DC02D (.mwbld 0 14 15 0) ∧ both 0x1EA1006D (.tzset 1 8 8 5) ∧ both 0x2001202D (.mburst 9) := by decide +kernel
/-- R160, R178. -/
theorem test_words_copy : both 0x0025066F (.cpy 1 3 8 9) ∧ both 0x040180AF (.cpya 2 0 12) ∧ both 0x083582EF (.cpymx 3 1 12 13) ∧
    both 0x0C01062F (.cwm 3 8) ∧ both 0x1001262F (.cwait 3 9) ∧ both 0x142D442F (.cstrm 0 2 10 11) ∧ both 0x182D456F (.cstrmx 5 2 10 11) ∧
    both 0x1C3DC86F (.cperm 1 4 14 15) ∧ both 0x2001062F (.cstop 3 8) ∧ both 0x00252231 (.qnew 8 4 5 1) ∧ both 0x04094031 (.qbind 8 9) ∧
    both 0x08094031 (.qunbind 8 9) ∧ both 0x0C0042B1 (.qcnt 10 8) ∧ both 0x10404331 (.qtry 12 8 2) := by decide +kernel
/-- R104, R74. -/
theorem test_words_stack : both 0x003DC433 (.sgath 0 2 14 15) ∧ both 0x04250073 (.sscat 1 8 9) ∧ both 0x0A2500B3 (.sred 2 8 9 4) ∧
    both 0x0C2D40F3 (.sconv 3 10 11) ∧ both 0x14010033 (.sstat 8) ∧ both 0x000D6035 (.tdef 12 13) ∧ both 0x04056235 (.trd 8 12 5) ∧
    both 0x08803035 (.tinv 6 4) ∧ both 0x0C052035 (.lutld 4 5) ∧ both 0x10002235 (.lutrd 8 4) := by decide +kernel
/-- R98, R380, R417. -/
theorem test_words_sys : both 0x00020237 (.crr 8 2 0) ∧ both 0x04014837 (.crw 0 9 1 0) ∧ both 0x08004A37 (.crs 8 9 0 0) ∧
    both 0x0C194837 (.crc 0 9 25 0) ∧ both 0x10005037 (.trap 10) ∧ both 0x140001F7 (.eret 7) ∧ both 0x18000037 .wfi ∧
    both 0x1C073037 (.tlbi 6 7) ∧ both 0x240B5037 (.ctxpark 10 11) ∧ both 0x28005077 (.ctxload 1 10) ∧ both 0x2C000037 .brkpt ∧
    both 0x30004A37 (.monrd 8 9) := by decide +kernel
/-- R25, R26: the short form's bits written out, m = 1, b = 2, opcode 1, d = 1; and 0x0000 is no instruction. -/
theorem test_words_short : decode16 0b1000100000100000#16 = .ok (.vmov 1 2 1) ∧ decode16 0b1000100000100010#16 = .ok (.vaddShort 1 2 1) ∧
    decode16 0#16 = .error .zeroHalfword := ⟨rfl, rfl, rfl⟩

/-! Small states. -/

/-- A persistent thread in U mode on slot 0 of a running device. -/
noncomputable def user : State := { State.reset with th := { Thread.reset with kind := .persistent }, phase := .run }
/-- The same thread in S mode. -/
noncomputable def super : State := { user with th := { user.th with thstat := 0x108 } }
/-- General registers with other values. -/
noncomputable def put (s : State) (l : List (Reg × Word)) : State := { s with th := { s.th with g := l.foldl (fun g x => regSet g x.1 x.2) s.th.g } }
/-- Bytes of memory with other values. -/
noncomputable def mem (s : State) (pa : Nat) (l : List Byte) : State := s.setBytes pa l
/-- The bytes at the program counter decode to an instruction. -/
noncomputable def fetches (s : State) (i : Instr) : Bool :=
  match s.th.fetch with
  | .bytes bs => (match decode bs with
    | .ok (j, _) => j == i
    | .error _ => false)
  | _ => false
/-- The bytes at the program counter are no instruction. -/
noncomputable def fetchesNone (s : State) : Bool :=
  match s.th.fetch with
  | .bytes bs => (match decode bs with
    | .ok _ => false
    | .error _ => true)
  | _ => false

/-! Witnesses: a step and the end of an instruction. -/

/-- The thread whose next instruction is ADDI g2, g2, −64 (R192). -/
noncomputable def adding : State := put (State.reset.withFetchWord 32 0xFC001085) [(2, 100)]

/-- The state once the agenda's entry is taken. -/
noncomputable def adding' : State := { adding with agenda := [] }
theorem witness_step : adding.agenda = [.issue 0] ∧ adding.coreNext (coreOf 0) = some 0 ∧ slotOk 0 ∧ (adding'.focus 0).th.storeFaults = [] ∧
    (adding'.focus 0).th.reneg = false ∧ (0, adding.th) ∈ adding.issuable ∧ adding'.takesReport 0 = false ∧ adding'.takesInterrupt 0 = false ∧ adding'.heldCause = none ∧
    fetches (adding'.focus 0) (.addi 2 2 (-64)) := by decide +kernel
theorem witness_step_in_rotation : adding'.agenda = [] ∧ adding'.time % 2 = 0 ∧ adding'.nextSlot = some 0 := by decide +kernel
/-- R25: the halfword 0x0000 is no instruction. -/
theorem witness_undecodable : let s := State.reset.withFetchWord 16 0
    s.th.storeFaults = [] ∧ s.th.reneg = false ∧ s.takesReport s.cur = false ∧ s.takesInterrupt s.cur = false ∧ s.heldCause = none ∧ s.myEntry = none ∧ s.th.exl = false ∧
      fetchesNone s := by decide +kernel
/-- ADDI's step leaves 36 in g2 and the program counter after it. -/
theorem test_step_adds : (match step adding with
    | .next t => regGet (t.thread 0).g 2 == 36#64 && (t.thread 0).pc == 4#64 && t.time == 1
    | _ => false) = true := by decide +kernel

theorem witness_finish : [9#5, 10].all user.th.plain = true ∧ [(8#5, 7#64), (0, 1)].all (fun w => user.th.plain w.1) = true ∧
    user.th.noLoopEnd = true := by decide +kernel

/-- Both loop sets end at the program counter with given counts. -/
noncomputable def looping (c1 c0 : BitVec 32) : Thread :=
  { user.th with pc := 0x108, loops := #v[{ LoopSet.reset with lc := c0, ls := 0x100, le := 0x108 }, { LoopSet.reset with lc := c1, ls := 0x104, le := 0x108 }] }
theorem witness_end_of_body : [2#32, 0xFFFFFFFF#32].all (fun c => (get2 (looping c 1).loops 1).lc != 0#32 &&
    (get2 (looping c 1).loops 1).lc != 1#32 && (get2 (looping c 1).loops 1).le.zeroExtend 64 == (looping c 1).pc) ∧
    (get2 (looping 1 2).loops 1).lc = 1#32 ∧ (get2 (looping 1 2).loops 0).lc = 2#32 ∧ (get2 (looping 0 2).loops 1).lc = 0#32 ∧
    (get2 (looping 1 1).loops 0).lc = 1#32 ∧ (get2 (looping 1 1).loops 0).le.zeroExtend 64 = (looping 1 1).pc := by decide +kernel

/-- A queue on one die with two words, bound to a register of slot 0 as consumer or producer. -/
noncomputable def queueing (producer : Bool) : State :=
  let q : HwQueue := { asid := 0, cons := 0, prod := 1, words := [5, 6], transit := [], credits := 0, returning := 0, consBound := some 0, prodBound := none }
  { user with queues := [(3, q)], th := { user.th with bind := set4 user.th.bind 1 (some { queue := 3, producer := producer }) } }
theorem witness_queue_operands : [false, true].all (fun p => (queueing p).th.gBind 29 == some { queue := 3, producer := p } &&
    ((queueing p).queue 3).any (·.local_) && (queueing p).th.noLoopEnd) := by decide +kernel

/-! Witnesses: integer and compare instructions. -/

/-- Operands at the ends of the signed range in g9 and g10. -/
noncomputable def ends : State := put user [(9, 0x8000000000000000), (10, 0xFFFFFFFFFFFFFFFF), (11, 3)]
theorem witness_arithmetic : (arithRule ends (.div 8 9 10)).any (fun x => x.1 == [9, 10] && x.2.1 == 8) = true ∧
    (arithRule ends (.madd 0 9 10 11)).any (fun x => x.1 == [9, 10, 11] && x.2.1 == 0) = true ∧ ends.ready [9, 10, 11] [8] = true ∧
    ends.ready [9, 10, 11] [0] = true := by decide +kernel
theorem witness_bits : (bitRule ends (.clz 8 9)).any (fun x => x.1 == [9] && x.2.1 == 8) = true ∧
    (bitRule ends (.wimmk 9 3 1)).any (fun x => x.1 == [9] && x.2.1 == 9) = true ∧ ends.ready [9] [8] = true ∧ ends.ready [9] [9] = true := by decide +kernel
theorem witness_compare : (truthRule ends (.clt 7 2 9 10)).any (fun x => x.1 == 7 && x.2.1 == 2 && x.2.2.1 == [9, 10]) = true ∧ Instr.wf (.clt 7 2 9 10) = true ∧
    (truthRule ends (.qnot 0 0 3)).any (fun x => x.1 == 0 && x.2.1 == 0 && x.2.2.1 == []) = true ∧ ends.ready [9, 10] [] = true := by decide +kernel
theorem witness_conditions : ends.ready [9, 10] [8] = true ∧ ends.ready [] [9] = true ∧ ends.ready [9] [] = true := by decide +kernel
theorem witness_integer_frame : [8#5, 9, 10].all ends.th.plain = true ∧ ends.th.noLoopEnd = true ∧
    (match Sys2Proof.Machine.exec (.add 8 9 10) ends with
      | .next t => regGet t.th.g 8 == 0x7FFFFFFFFFFFFFFF#64
      | _ => false) = true := by decide +kernel
/-- R198: ADDX with carry out. -/
theorem test_addx_carry : (match Sys2Proof.Machine.exec (.addx 8 10 11 3) ends with
    | .next t => regGet t.th.g 8 == 2#64 && t.q 3
    | _ => false) = true := by decide +kernel
/-- R191: division by zero, and the most negative number by −1. -/
theorem test_div_corners : (match Sys2Proof.Machine.exec (.div 8 9 0) ends, Sys2Proof.Machine.exec (.rem 8 9 10) ends with
    | .next t, .next u => regGet t.th.g 8 == 0xFFFFFFFFFFFFFFFF#64 && regGet u.th.g 8 == 0#64
    | _, _ => false) = true := by decide +kernel

/-! Witnesses: loads, stores and atomics. -/

/-- Base registers at the last byte and the last aligned words of own local memory, and bytes there. -/
noncomputable def edges : State := mem (put user [(9, 0x3FFFF), (10, 0x3FFF8), (11, 0x3FFF0), (12, 0x11223344556677F8)]) (0x10000000000 + 0x3FFF8) [1, 2, 3, 4, 5, 6, 7, 0x80]
theorem witness_loads : (loadRule (.ldb 8 9 1 0 0)).any (fun x => x.1 == [8] && x.2.1 == 9 && x.2.2.1 == 1 && x.2.2.2.2.2.1 == 1) = true ∧
    (loadRule (.ldq 4 11 1 2 0)).any (fun x => x.1 == [8, 9] && x.2.1 == 11 && x.2.2.1 == 1 && x.2.2.2.2.2.1 == 16) = true ∧
    edges.modeOk 1 = true ∧ edges.ready [9] [8] = true ∧ edges.ready [11] [8, 9] = true ∧
    edges.ownReady (edges.address 9 0 1) 1 false = true ∧ edges.ownReady (edges.address 11 0 16) 16 false = true ∧
    edges.ownReady (edges.address 9 (-1) 1) 1 false = true := by decide +kernel
theorem witness_loads_any_mode : super.modeOk 3 = true ∧ super.ready [9] [8] = true ∧
    (match readMem ((put super [(9, 0x10000000008)]).address 9 0 8) 3 8 false (put super [(9, 0x10000000008)]) with
      | .ok _ => true
      | .error _ => false) = true := by decide +kernel
theorem witness_own_stores : (storeRule edges (.stb 12 9 1 0 0)).any (fun x => x.1 == [12] && x.2.1 == 9 && x.2.2.2.2.2.1 == 1) = true ∧ Instr.wf (.stb 12 9 1 0 0) = true ∧
    (storeRule edges (.stq 6 11 1 1 0)).any (fun x => x.1 == [12, 13] && x.2.1 == 11 && x.2.2.2.2.2.1 == 16) = true ∧ edges.ready [9, 12] [] = true ∧
    edges.ownReady (edges.address 9 0 1) 1 true = true ∧ edges.th.sb.length < 8 ∧ [9#5, 12].all edges.th.plain = true ∧
    edges.th.noLoopEnd = true := by decide +kernel
/-- R202: the last byte of local memory, sign-extended. -/
theorem test_ldb_last_byte : (match Sys2Proof.Machine.exec (.ldb 8 9 1 0 0) edges with
    | .next t => regGet t.th.g 8 == 0xFFFFFFFFFFFFFF80#64
    | _ => false) = true := by decide +kernel

/-- A thread with two stores waiting: a byte, and a release after it. -/
noncomputable def storing : State :=
  let e (off : Nat) (k : StoreKind) (n : Nat) : StoreEntry := { pa := 0x10000000000 + off, bytes := [BitVec.ofNat 8 n], kind := k, cacheable := false, asid := 0, va := BitVec.ofNat 64 off, pc := 0, epoch := 0, seq := n }
  { user with fresh := 3, th := { user.th with sb := [e 0x100 .plain 1, e 0x101 .release 2] } }
theorem witness_drain : (storing.thread 0).mayDrain 0 = true ∧ (storing.thread 0).sb[0]?.any (fun e => !storing.stopped e.pa &&
    !storing.poisonNarrow e.pa e.bytes.length && inLm e.pa && inLm (e.pa + e.bytes.length - 1)) = true ∧
    storing.conflicts (storing.requesterOf 0) (some (coreOf 0)) 0x10000000100 1 true = [] := by decide +kernel
/-- The same, its first word poisoned. -/
noncomputable def storingPoisoned : State := { storing with poison := [(0x10000000100, 8)] }
theorem witness_drain_poisoned : (storingPoisoned.thread 0).mayDrain 0 = true ∧ storingPoisoned.poisonNarrow 0x10000000100 1 = true ∧
    storingPoisoned.stopped 0x10000000100 = false ∧ storingPoisoned.conflicts (storingPoisoned.requesterOf 0) (some (coreOf 0)) 0x10000000100 1 true = [] := by
  decide +kernel
/-- A store of a byte that a release still in the buffer holds. -/
noncomputable def merging : State := { put storing [(9, 0x101), (12, 7)] with th := { (put storing [(9, 0x101), (12, 7)]).th with sb := storing.th.sb.drop 1 } }
theorem witness_merge : merging.ready [9, 12] [] = true ∧ merging.ownReady (merging.address 9 0 1) 1 true = true ∧
    merging.th.mergePlace (merging.myWindow + (merging.address 9 0 1).toNat) 1 = some 0 ∧ edges.th.mergePlace 0x10000000100 1 = none := by decide +kernel
theorem witness_forwarding : storing.th.sb.all (fun e => decide (0x10000000102 < e.pa) || decide (e.pa + e.bytes.length ≤ 0x10000000102)) = true ∧
    (storing.th.sb.drop 1).all (fun e => decide (e.pa ≤ 0x10000000101) && decide (0x10000000101 < e.pa + e.bytes.length)) = true ∧
    storing.th.sb.length = 2 := by decide +kernel
/-- R288: a release does not perform before the store ahead of it. -/
theorem test_release_waits : (storing.thread 0).mayDrain 0 = true ∧ (storing.thread 0).mayDrain 1 = false := by decide +kernel

theorem witness_access_faults : user.myEntry = none ∧ user.th.exl = false ∧ (0x40001#64).toNat % 8 ≠ 0 ∧ (0x40000#64).toNat % 16 = 0 ∧
    0x40000 ≤ (0x40000#64).toNat ∧ user.th.privileged = false ∧ (loadRule (.ldd 8 9 3 0 0)).any (fun x => x.2.2.1 == 3#2) = true ∧ (storeRule user (.stq 4 9 3 0 0)).any (fun x => x.2.2.1 == 3#2) = true := by
  decide +kernel

/-- A data TLB that maps virtual page 5 to own local memory, C = 0, with R, W, U, A and D. -/
noncomputable def leafOwn : TlbEntry := { asid := 0, level := 0, vpn := 5, leaf := 0x100000000D7, leafPa := 0 }
noncomputable def mapped : State := mem ({ put user [(9, 0x50100), (10, 0xFFFFFFFFFFFFFFFF)] with
  th := { (put user [(9, 0x50100), (10, 0xFFFFFFFFFFFFFFFF)]).th with ptbase := 1 }, cores := [(0, { Core.reset with dtlb := [leafOwn] })] } ) 0x10000000100 [7]
theorem witness_atomic : (atomicRule mapped (.aadd 8 9 10 0 6)).any (fun x => x.1 == 8 && x.2.1 == 9 && x.2.2.1 == [10] && x.2.2.2.1 == 0 && x.2.2.2.2.1 == 8) = true ∧ mapped.ready [9, 10] [8] = true ∧
    mapped.localLeaf (mapped.rd 9) 8 leafOwn ∧ mapped.th.sb = [] :=
  ⟨by decide +kernel, by decide +kernel, ⟨by decide +kernel, by decide +kernel, by decide +kernel, by decide +kernel, by decide +kernel, by decide +kernel,
    by decide +kernel, by decide +kernel, by decide +kernel, 0x100, by decide +kernel, by decide +kernel⟩, by decide +kernel⟩
/-- R78: the worked example's address lies in local stack 2 of die 2, the global stack 8. -/
theorem test_hbm_stack : hbmStack 0x612345BCDE = 8 := by decide
/-- R301: AADD answers the old value and wraps. -/
theorem test_aadd : (match Sys2Proof.Machine.exec (.aadd 8 9 10 0 6) mapped with
    | .next t => regGet t.th.g 8 == 7#64 && t.word 0x10000000100 == 6#64
    | _ => false) = true := by decide +kernel

/-! Witnesses: fences, branch targets, transfers and loops. -/

theorem witness_fences : (1#2).toNat < 2 ∧ user.th.sb = [] ∧ storing.th.sb ≠ [] ∧ (let s := put user [(7, 0xFFFF0007)]
    s.ready [7] [] = true ∧ s.rd 7 &&& ~~~0xFFFF0007#64 = 0#64 ∧ s.rd 7 ≠ 0#64 ∧ s.th.joins = []) := by decide +kernel
/-- A thread with four joins that wait for its store. -/
noncomputable def joined : State :=
  { put storing [(7, 1), (8, 8)] with th := { (put storing [(7, 1), (8, 8)]).th with joins := List.replicate 4 { set := 1, before := [1], from_ := 3 } } }
theorem witness_joins : joined.ready [7] [] = true ∧ joined.rd 7 &&& ~~~0xFFFF0007#64 = 0#64 ∧ joined.rd 7 ≠ 0#64 ∧
    ({ joined with cores := [(0, { Core.reset with sq := [joined.command .sfence 1 0 0 []] })] } : State).th.joins.length = 4 ∧
    4 ≤ (joined.th.joins.filter (({ joined with cores := [(0, { Core.reset with sq := [joined.command .sfence 1 0 0 []] })] } : State).unresolved 0)).length ∧
    joined.ready [8] [] = true ∧ joined.rd 8 &&& ~~~0xFFFF0007#64 ≠ 0#64 ∧ joined.myEntry = none ∧ joined.th.exl = false ∧ joined.rd 0 = 0#64 := by decide +kernel

/-- A leaf that maps virtual page 5 to own local memory for fetching in U mode, in the instruction TLB. -/
noncomputable def leafCode : TlbEntry := { asid := 0, level := 0, vpn := 5, leaf := 0x10000000059, leafPa := 0 }
noncomputable def coding : State := { put user [(9, 0x50040)] with
  th := { (put user [(9, 0x50040)]).th with pc := 0x50000, ptbase := 1 }, cores := [(0, { Core.reset with itlb := [leafCode] })] }
/-- The address at which a checked prepare of slot 0 finds a target's byte, once its page is in a TLB. -/
noncomputable def codeAt (va : Nat) : Option (Nat × TlbEntry) :=
  match (coding.locateFor (.slot 0 true) coding.issuer va .fetch).2 with
  | some (.ok x) => some x
  | _ => none
theorem witness_prepares : (BitVec.ofInt 64 (coding.th.pc.toNat + 2 * (0x000020#21).toInt)).getLsbD 0 = false ∧
    (BitVec.ofInt 64 (coding.th.pc.toNat + 2 * (0x000020#21).toInt)).toNat < 2 ^ 56 ∧ coding.ready [9] [] = true ∧
    (BitVec.ofInt 64 ((coding.rd 9).toNat + 2 * (0xFFF#12).toInt)).toNat < 2 ^ 56 ∧
    codeAt 0x50040 = some (0x10000000040, leafCode) ∧ codeAt (0x50040 + 63) = some (0x1000000007F, leafCode) := by decide +kernel
theorem witness_btrd : user.ready [] [8] = true := by decide +kernel

/-- Branch-target register 2 prepared, its window of U mode arrived. -/
noncomputable def prepared : State := { user with th := { user.th with pc := 0x100, tvec := 0x8000, bt := set8 user.th.bt 2 { target := 0x200, v := true, s := false, win := .ready 0 [(0x200, 0x47), (0x201, 0xC2)] } } }
theorem witness_transfers : prepared.q 3 = (1#1 == 1#1 && false) ∧ prepared.q 0 = (0#1 == 0#1) ∧ (get8 prepared.th.bt 2).v = true ∧
    (get8 prepared.th.bt 2).s = false ∧ (get8 prepared.th.bt 2).win = .ready prepared.th.mode [(0x200, 0x47), (0x201, 0xC2)] ∧
    prepared.q 3 = (0#1 == 1#1) ∧ prepared.q 3 = (1#1 == 0#1) := by decide +kernel
theorem witness_invalid_target : prepared.q 0 = (0#1 == 0#1) ∧ (get8 prepared.th.bt 3).v = false ∧ prepared.myEntry = none ∧ prepared.th.exl = false := by
  decide +kernel

/-- A body of two instructions after a loop instruction at 0x100, held in the fetch buffer. -/
noncomputable def beforeLoop : State :=
  let s := put user [(9, 2 ^ 32 - 1), (10, 2 ^ 56 - 1)]
  { s with th := { s.th with pc := 0x100, fbuf := { base := 0x100, cells := [(0, 0x51), (1, 0), (2, 0), (3, 0), (4, 0x20), (5, 0x10), (6, 0x03), (7, 0)], fail := none } } }
theorem witness_loops : beforeLoop.ready [9] [] = true ∧ beforeLoop.rd 9 ≠ 0#64 ∧ (beforeLoop.rd 9).toNat < 2 ^ 32 ∧ (511#9) ≠ 0#9 ∧
    (let le := beforeLoop.th.pc + 4#64 + 2#64 * (1#12).zeroExtend 64
     beforeLoop.th.fbuf.from_ le.toNat = [(6, 0x03), (7, 0)] ∧ le.toNat < 2 ^ 56) ∧ beforeLoop.th.plain 8 = true ∧ beforeLoop.rd 8 = 0#64 ∧
    beforeLoop.ready [] [11] = true ∧ (2#2) ≠ 3#2 ∧ beforeLoop.ready [10] [] = true ∧ (beforeLoop.rd 10).toNat < 2 ^ 56 := by decide +kernel
/-- R318: a count of 0 goes on after the body's last instruction, a 32-bit one. -/
theorem test_lset_zero_skips : (match Sys2Proof.Machine.exec (.lset 1 8 1) beforeLoop with
    | .next t => t.th.pc == 0x10A#64 && (get2 t.th.loops 1).lc == 0#32
    | _ => false) = true := by decide +kernel

/-! Witnesses: numbers. -/

theorem witness_formats : ffmtOf 10 = some f32 ∧ (f32.read 0x7F7FFFFF).finite = true ∧ (f32.read 1).finite = true ∧ 0x7F7FFFFF < 2 ^ f32.width := by
  decide +kernel
theorem witness_rationals : fsCanonical (rmakeValue 0 false (-3) 7).1 = true ∧ (fsRead (rmakeValue 0 false (-3) 7).1).finite = true := by decide +kernel

/-- 1.5 and −0.25 in binary64 in g9 and g10, 1.5 and 3.0 in binary32 in g12 and g13. -/
noncomputable def floats : State := put user [(9, 0x3FF8000000000000), (10, 0xBFD0000000000000), (12, 0x3FC00000), (13, 0x40400000), (14, 0x7FF0000000000000)]
theorem witness_floats : (floatRule floats (.faddd 8 9 10 0 0)).any (fun x => x.1 == [9, 10] && x.2.1 == 8) = true ∧ floats.th.rat = false ∧
    (floatRule floats (.fdivs 8 12 13 3 1)).any (fun x => x.1 == [12, 13] && x.2.1 == 8) = true ∧ (rationalRule floats (.fdivs 8 12 13 3 1)).isNone = true ∧
    floats.ready [9, 10, 12, 13] [8] = true := by decide +kernel
theorem witness_conversions : (convertRule floats (.fcvt 8 9 8 11)).isSome = true ∧ floats.ready [9] [8] = true ∧
    (convertRule floats (.icvtf 8 9 11 3)).isSome = true ∧ (convertRule floats (.fcvti 8 9 3 11)).isSome = true := by decide +kernel
/-- R211: 1.5 + (−0.25) is 1.25. -/
theorem test_faddd : (match Sys2Proof.Machine.exec (.faddd 8 9 10 0 0) floats with
    | .next t => regGet t.th.g 8 == 0x3FF4000000000000#64 && t.th.fstat == 0#64
    | _ => false) = true := by decide +kernel

/-- Rational mode. -/
noncomputable def rational : State := { floats with th := { floats.th with rstat := 0x100 } }
theorem witness_rational : (rationalRule rational (.faddd 8 9 10 0 0)).any (fun x => x.1 == [9, 10]) = true ∧ rational.th.rat = true ∧
    rational.ready [9, 10] [8] = true ∧ (rationalRule rational (.rcf 4 9)).any (fun x => x.1 == [9] && rational.ready [9] (x.2.1.map (·.1))) = true := by
  decide +kernel
theorem witness_rational_mode : user.ready [9] [8] = true ∧ user.myEntry = none ∧ user.th.exl = false ∧ user.th.rat = false ∧
    (floatRule user (.rmed 8 9 10 0 0)).isNone = true ∧ (rationalRule user (.rmed 8 9 10 0 0)).isSome = true ∧ rational.th.rat = true := by decide +kernel

/-! Witnesses: messages, groups and queues. -/

/-- An address word: channel 3, tag 63, handle 9 (die 0, tile 0, core 1, slot 1). -/
noncomputable def sending : State := put user [(9, 0xFF0009), (10, 77)]
theorem witness_send : sending.ready [9, 10] [] = true ∧ sending.speculative = false ∧ sending.th.sb = [] ∧ (sending.rd 9).toNat < 2 ^ 24 ∧
    (sending.rd 9).getLsbD 15 = false ∧ wfield (sending.rd 9) 12 6 < 72 := by decide +kernel

/-- The message of such a thread. -/
noncomputable def letter : Message := { payload := 77, tsFlag := false, ch := 3, tag := 63, sender := 0, ts := 0 }
/-- The thread waits for the answer to its message; slot 9 holds a thread. -/
noncomputable def posted (answer : Option Bool) : State :=
  let o : Outstanding := { req := .message 9 letter answer, srcs := [9, 10], ga := 0xFF0009, qd := 2 }
  { sending with th := { sending.th with outstanding := some o, wait := some .memoryReply }, threads := [(9, { Thread.reset with kind := .persistent })] }
theorem witness_message : (∃ o, (posted none).th.outstanding = some o ∧ o.req = .message 9 letter none) ∧ (posted none).accepts 9 = true ∧
    letter.ch = 3#2 ∧ (∃ o, (posted (some true)).th.outstanding = some o ∧ o.req = .message 9 letter (some true)) ∧
    ((posted (some true)).focus 0).th.park = none ∧ (∃ o, (posted (some false)).th.outstanding = some o ∧ o.req = .message 9 letter (some false) ∧ o.qd ≠ 0#3) :=
  ⟨⟨_, rfl, rfl⟩, by decide +kernel, rfl, ⟨_, rfl, rfl⟩, rfl, _, rfl, rfl, by decide⟩

/-- Two messages of the same timestamp and an earlier one behind them. -/
noncomputable def inboxed : State := { user with th := { user.th with inbox := [{ letter with ts := 5, payload := 1 }, { letter with ts := 5, payload := 2 }, { letter with ts := 4, payload := 3 }] } }
theorem witness_receive : (firstMessage inboxed.th.inbox).isSome = true ∧ inboxed.speculative = false ∧ inboxed.ready [] [8, 9, 10] = true ∧
    inboxed.th.inbox ≠ [] ∧ user.th.inbox = [] ∧ user.speculative = false ∧ user.myEntry = none ∧ user.th.exl = false := by decide +kernel
/-- R348: the message of the lowest timestamp comes first. -/
theorem test_mrecv_order : (match Sys2Proof.Machine.exec (.mrecv 8 9 10 1) inboxed with
    | .next t => regGet t.th.g 8 == 3#64 && regGet t.th.g 10 == 4#64 && t.q 1 && t.th.inbox.length == 2
    | _ => false) = true := by decide +kernel

/-- A thread in S mode; level 2 of its core's ready queue holds two handles, level 1 is full. -/
noncomputable def readied : State :=
  { put super [(9, 63), (10, 0x8000000300000007), (11, 2), (12, 1)] with
    cores := [(0, { Core.reset with ready := #v[[], List.replicate 16 7, [5, 6], []] })] }
theorem witness_ready_queue : readied.th.privileged = true ∧ readied.ready [9, 10, 11, 12] [8] = true ∧ readied.speculative = false ∧
    (readied.rd 9).toNat < 64 ∧ wfield (readied.rd 10) 62 34 = 0 ∧ (readied.rd 11).toNat < 4 ∧
    (get4 readied.myCore.ready ((readied.rd 11).truncate 2)).length < 16 ∧ 16 ≤ (get4 readied.myCore.ready ((readied.rd 12).truncate 2)).length ∧
    get4 readied.myCore.ready 2 = [5, 6] ∧ get4 readied.myCore.ready 3 = [] ∧ user.th.privileged = false := by decide +kernel

/-- A thread with a group instruction on its way; group 5 of its die and ASID. -/
noncomputable def grouping (op : GroupOp) (members : List Nat) : State :=
  let o : Outstanding := { req := .group op, srcs := [9], ga := 5, qd := 3 }
  { put user [(9, 5)] with
    th := { (put user [(9, 5)]).th with outstanding := some o, wait := some .memoryReply }
    dies := [(0, { Die.reset with groups := [(5, { asid := 0, members := members, arrived := [], released := [] })] })] }
theorem witness_groups : (put user [(9, 1023)]).ready [9] [8] = true ∧ ((put user [(9, 1023)]).rd 9).toNat < 1024 ∧ user.speculative = false ∧
    (grouping (.new 8) []).th.park = none ∧ lowestFree 256 (((grouping (.new 8) []).die 0).groups.map (·.1)) = some 0 ∧
    ((grouping .join [9]).group 5).any (fun g => g.asid == wfield (grouping .join [9]).th.asid 13 0 && g.members == [9]) = true ∧
    ((grouping .leave [9, 0]).group 5).any (·.members.contains 0) = true ∧ ((grouping .free []).group 5).any (·.members.isEmpty) = true := by
  decide +kernel

/-- A thread at the barrier of group 5. -/
noncomputable def barrier (arrived released : List Nat) : State :=
  { put user [(9, 5)] with dies := [(0, { Die.reset with groups := [(5, { asid := 0, members := [0, 9], arrived := arrived, released := released })] })] }
theorem witness_barrier : (barrier [] []).ready [9] [] = true ∧ (barrier [] []).th.sb = [] ∧ (barrier [] []).th.laneReq = 0 ∧
    ((barrier [] []).rd 9).toNat < 1024 ∧ ((barrier [] []).group 5).any (fun g => g.members.contains 0 && g.members.any fun m => m != 0 && !g.arrived.contains m) = true ∧
    ((barrier [9] []).group 5).any (fun g => g.members.all fun m => m == 0 || g.arrived.contains m) = true ∧
    ((barrier [] [0]).group 5).any (fun g => g.released.contains 0) = true := by decide +kernel

/-- Queue 3 of the thread's core, as the consumer's end. -/
noncomputable def queue3 (words : List Word) : State :=
  { put user [(9, 3), (10, 0), (11, 0), (12, 8), (13, 575)] with
    queues := [(3, { asid := 0, cons := 0, prod := 575, words := words, transit := [], credits := 0, returning := 0, consBound := none, prodBound := none })] }
/-- The same with the consumer's end bound to g28. -/
noncomputable def queue3Bound : State :=
  { queue3 [7] with th := { (queue3 [7]).th with bind := set4 (queue3 [7]).th.bind 0 (some { queue := 3, producer := false }) } }
theorem witness_queues : (queue3 []).ready [10, 13] [8] = true ∧ (queue3 []).speculative = false ∧ ((queue3 []).rd 13).toNat < 2304 ∧
    (queue3 []).freeQueues 0 false ≠ [] ∧ ((queue3 []).rd 9).toNat < 2048 ∧ (assocFind 3 (queue3 [7]).queues).any (fun q =>
      q.asid == wfield (queue3 []).th.asid 13 0 && q.cons == globalCore (coreOf 0) && q.consBound == none && q.words == [7]) = true ∧
    get4 (queue3 []).th.bind 0 = none ∧ queue3Bound.th.plain 9 = true ∧ queue3Bound.th.plain 12 = true ∧ (queue3Bound.rd 12).toNat < 16 ∧
    (queue3Bound.rd 12).getLsbD 3 = true ∧ get4 queue3Bound.th.bind 0 = some { queue := 3, producer := false } := by decide +kernel

/-- A queue between dies with a word at the consumer, one on the way, and a credit on its way back. -/
noncomputable def between : HwQueue := { asid := 0, cons := 0, prod := 600, words := [1], transit := [2], credits := 13, returning := 1, consBound := none, prodBound := none }
theorem witness_transit : between.local_ = false ∧ between.canPush = true ∧ between.words ≠ [] ∧ between.transit = 2 :: [] ∧ 0 < between.returning := by
  decide +kernel

/-! Witnesses: exceptions, control registers and interrupts. -/

theorem witness_traps : user.myEntry = none ∧ user.th.exl = false ∧ user.th.plain 9 = true := by decide +kernel
/-- EXL = 1. -/
noncomputable def handling : State := { user with th := { user.th with thstat := 0x188, epc := 4, cause := 9, tval := 5 } }
theorem witness_nested_fault : handling.myEntry = none ∧ handling.th.exl = true := by decide +kernel

/-- A thread in S mode that came from U mode with IE set; bt5's window fetched under U mode. -/
noncomputable def returning (refetched : Option Nat) : State :=
  { super with th := { super.th with thstat := 0x1C8, refetched := refetched, bt := set8 super.th.bt 5 { target := 0x300, v := true, s := false, win := .ready 0 [(0x300, 1)] } } }
/-- A thread in S mode whose saved mode is M. -/
noncomputable def notReturning : State := { super with th := { super.th with thstat := 0xD08 } }
theorem witness_eret : (returning none).th.privileged = true ∧ (returning none).speculative = false ∧
    (returning none).th.thstat.extractLsb' 10 2 ≠ 3#2 ∧ (get8 (returning none).th.bt 5).v = true ∧ (get8 (returning none).th.bt 5).s = false ∧
    (get8 (returning none).th.bt 5).win = .ready ((returning none).th.thstat.extractLsb' 10 2) [(0x300, 1)] ∧ (returning (some 5)).th.refetched = some (5#3).toNat ∧
    (returning none).th.refetched = none ∧ (returning none).th.sb = [] ∧ user.th.privileged = false ∧
    notReturning.th.thstat.extractLsb' 10 2 = 3#2 ∧ notReturning.th.mode ≠ 3#2 ∧ notReturning.th.exl = false ∧ notReturning.myEntry = none := by
  decide +kernel

/-- A thread with IE = 1 and its timer enabled, which has expired. -/
noncomputable def timed (thstat : Word) : State := { user with time := 10, th := { user.th with thstat := thstat, timecmp := 10 } }
theorem witness_wfi : (timed 0x101).th.privileged = true ∧ (timed 0x101).speculative = false ∧ ((timed 0x101).pendingInterrupt 0).isSome = true ∧
    super.pendingInterrupt super.cur = none ∧ super.th.posted = none ∧ user.th.privileged = false ∧ user.myEntry = none ∧ user.th.exl = false := by
  decide +kernel

theorem witness_control_registers : crLowest (crSelector 2 0) = some true ∧ super.th.privileged = true ∧ super.ready [9] [8] = true ∧
    super.speculative = false ∧ super.holdsCrumb = false ∧ crLowest (crSelector 31 31) = none ∧ user.th.privileged = false ∧ user.myEntry = none ∧
    user.th.exl = false := by decide +kernel
theorem witness_fields : (0x0F#64) &&& 0xF0#64 = 0#64 := by decide
theorem witness_register_events : super.th.privileged = true ∧ super.holdsCrumb = false ∧ wfield (0x401#64 <<< 16) 51 22 * 2 ^ 22 < 4 * hbmPerDie ∧
    hbmDie (wfield (0x401#64 <<< 16) 51 22 * 2 ^ 22) = dieOf super.cur ∧
    wfield (0x401#64 <<< 16) 51 22 * 2 ^ 22 % hbmPerDie + 2 ^ 22 ≤ hbmPerDie - super.rdcGiB * 2 ^ 30 := by decide +kernel
theorem witness_monitor : super.speculative = false ∧ super.ready [9] [8] = true ∧
    (put super [(9, 65536 + 63 * 256 + 3)]).rd 9 = BitVec.ofNat 64 (65536 + 63 * 256 + (3#2).toNat) ∧
    (put super [(9, 2 * 256)]).rd 9 = BitVec.ofNat 64 (2 * 256 + (0#2).toNat) := by decide +kernel

/-- An error-log record for slot 0, with the error interrupt enabled. -/
noncomputable def erring : State :=
  { user with th := { user.th with thstat := 0x28 }, dies := [(0, { Die.reset with errlog := [{ code := 7 * 64 + 16, tval := 64, target := some 0 }] })] }
/-- A message waits, with the message interrupt enabled. -/
noncomputable def called : State := { user with th := { user.th with thstat := 0x22, inbox := [letter] } }
theorem witness_interrupts : erring.takesInterrupt 0 = true ∧ erring.th.wait = none ∧ (erring.errorFor 0).isSome = true ∧
    ((erring.thstat 0).getLsbD 3 && (erring.thstat 0).getLsbD 19) = true ∧
    (timed 0x21).takesInterrupt 0 = true ∧ ((timed 0x21).thstat 0).getLsbD 18 = false ∧ ((timed 0x21).thstat 0).getLsbD 19 = false ∧
    ((timed 0x21).thstat 0).getLsbD 16 = true ∧ (timed 0x40027).takesInterrupt 0 = true ∧ ((timed 0x40027).thstat 0).getLsbD 18 = true ∧
    (called.takesInterrupt 0 = true ∧ (called.thstat 0).getLsbD 17 = true ∧ (called.thstat 0).getLsbD 16 = false) := by decide +kernel
/-- A thread in WFI whose timer has expired, and one with a report waiting. -/
noncomputable def dozing : State := { timed 8 with th := { (timed 8).th with wait := some .wfi } }
noncomputable def reported : State := { user with th := { user.th with reports := [{ master := 3, ch := 0, code := 3 * 64 + 9, addr := 64 }] } }
theorem witness_timer_and_report : (dozing.thread 0).timecmp.toNat ≤ dozing.time ∧ (dozing.thread 0).wait = some .wfi ∧
    reported.takesReport reported.cur = true ∧ reported.th.reports ≠ [] := by decide +kernel

/-- Slot 9 holds a frozen thread of ASID 1, slot 10 one of the thread's own. -/
noncomputable def thawing : State :=
  let f (asid : Word) : Thread := { Thread.reset with kind := .persistent, asid := asid, frozen := some { code := 7 * 64 + 8, tval := 0, violation := true } }
  { user with threads := [(9, f 1), (10, f 0)] }
theorem witness_thaw : thawing.forwarded 10 = 10 ∧ 10 ≠ thawing.cur ∧ (thawing.thread 10).frozen.isSome = true ∧ (thawing.thread 10).park = none ∧
    wfield (thawing.thread 10).asid 13 0 = wfield thawing.th.asid 13 0 ∧ (thawing.thread 10).kind = .persistent ∧ (thawing.thread 10).entry = none ∧
    ((thawing.named 11).find? fun k => thawing.hasFrozen 0 0 k) = none ∧ ((thawing.named 9).find? fun k => thawing.hasFrozen 0 0 k) = some 9 ∧
    thawing.th.mode ≠ 3#2 ∧ wfield (thawing.thread 9).asid 13 0 ≠ wfield thawing.th.asid 13 0 := by decide +kernel

/-! Witnesses: translation and windows. -/

/-- An operand that drops page 5 of ASID 0, and a drop of it on its way to tile 3. -/
noncomputable def dropping : State :=
  let d : Drop := { id := 1, kind := 0, asid := 0, page := 5, targets := [3], applied := [], last := 0 }
  { put super [(9, 0x50000), (10, 0x30000)] with drops := [d], fresh := 2, tiles := [(3, { Tile.reset with l2tlb := [leafOwn, { leafOwn with vpn := 6 }] })] }
theorem witness_tlbi : dropping.th.privileged = true ∧ dropping.ready [9, 10] [] = true ∧ dropping.speculative = false ∧ dropping.th.sb = [] ∧
    wfield (dropping.rd 10) 18 16 ≤ 3 ∧ (dropping.nextTarget 0 false).any (fun x => x.2 == 3 && x.1.selects leafOwn && !x.1.selects { leafOwn with vpn := 6 }) = true ∧
    super.th.tlbis = [] := by decide +kernel

/-- One walk of die 0 for page 5, at a stage; its table's root lies at 0x2000 and holds a leaf of level 2 at entry 0 where the word is given. -/
noncomputable def walking (stage : WalkStage) (root : List Byte) : State :=
  mem { user with th := { user.th with ptbase := 0x2001 }
                  dies := [(0, { Die.reset with walks := [{ asid := 0, page := 5, ptbase := 0x2001, mode := 0, fromRoot := false, dirty := false, requesters := [.slot 0 false], stage := stage, dropped := false }] })] }
    0x2000 root
/-- A root entry that names a node at 0x4000, whose entry 0 is a leaf of level 2 with V, R, W, X, U and A. -/
noncomputable def tables (s : State) : State := mem s 0x4000 (leBytes 8 0x5F)
/-- A second walk of the same page waits. -/
noncomputable def joiningWalk : State :=
  (walking .walking []).modDie 0 fun d => { d with walks := d.walks ++ d.walks.map fun w => { w with stage := .waiting, requesters := [.slot 9 false] } }
theorem witness_walk_joins : ((joiningWalk.die 0).oldest fun w => !w.live && ((joiningWalk.die 0).liveMatch w).isSome).any (fun x =>
    x.1 == 1 && (joiningWalk.die 0).liveMatch x.2 == some 0) = true := by decide +kernel
theorem witness_walks : ((walking .waiting []).die 0).walks.length = 1 ∧ (((walking .waiting []).die 0).oldest fun w => !w.live).isSome = true ∧
    (((walking .waiting []).die 0).oldest fun w => !w.live && (((walking .waiting []).die 0).liveMatch w).isSome).isNone = true ∧
    (((walking .walking []).die 0).oldest fun w => w.stage == .walking).any (fun x => !x.2.dropped && x.2.requesters == [.slot 0 false]) = true ∧
    ((walking .walking []).walkMayRead ((walking .walking []).walk 0 0 0 (5 * 65536) 0x2001 false).reads none).2 = true ∧
    (match ((walking .walking []).walk 0 0 0 (5 * 65536) 0x2001 false).result with
      | .error c => c.code == 64 + 4
      | .ok _ => false) = true ∧
    (match ((tables (walking .walking (leBytes 8 0x4001))).walk 0 0 0 (5 * 65536) 0x2001 false).result with
      | .error _ => false
      | .ok e => e.leaf.getLsbD 6) = true := by decide +kernel
/-- A leaf at 0x4000 whose A is clear. -/
noncomputable def unaccessed : TlbEntry := { asid := 0, level := 2, vpn := 0, leaf := 0x1F, leafPa := 0x4000 }
theorem witness_ad : (((walking (.setting unaccessed) []).die 0).oldest fun w => match w.stage with | .setting _ => true | _ => false).isSome = true ∧
    (mem (walking (.setting unaccessed) []) 0x4000 (leBytes 8 0x1F)).setAD unaccessed false ≠ none ∧
    (walking (.setting unaccessed) []).setAD unaccessed false = none ∧
    ((walking (.setting unaccessed) []).walkMayRead [] (some unaccessed.leafPa)).2 = true := by decide +kernel

/-- Branch-target register 2's window of virtual address 0x50040 is on its way. -/
noncomputable def awaiting (ptbase : Word) : State :=
  { coding with th := { coding.th with ptbase := ptbase, bt := set8 coding.th.bt 2 { target := 0x50040, v := true, s := false, win := .inFlight { mode := 0, asid := 0, ptbase := ptbase } } } }
theorem witness_window : (awaiting 1).th.windowAt 2 = (0x50040, .inFlight { mode := 0, asid := 0, ptbase := 1 }) ∧ (match (awaiting 1).fetchWindow 0 2 0x50040 { mode := 0, asid := 0, ptbase := 1 } with
    | (u, some (.ready m cells)) => u.cur == 0 && m == 0 && cells.length == 64
    | _ => false) = true := by decide +kernel
theorem witness_window_failure : (awaiting 0).th.windowAt 2 = (0x50040, .inFlight { mode := 0, asid := 0, ptbase := 0 }) ∧ (match (awaiting 0).fetchWindow 0 2 0x50040 { mode := 0, asid := 0, ptbase := 0 } with
    | (u, some (.failed m c)) => u.cur == 0 && m == 0 && c.code == 64 + 3 && u.th == (awaiting 0).th
    | _ => false) = true ∧ (awaiting 0).th.entering ≠ some 2 := by decide +kernel
theorem witness_fetch : coding.th.kind ≠ .empty ∧ coding.th.entering = none ∧ coding.th.fbuf.fail = none ∧
    (coding.th.fbuf.from_ coding.th.pc.toNat).length = 0 ∧ (match coding.fetchBytes 0 (.fetch 0 11) (coding.fetchIssuer 0 coding.th.mode) 0x50000 64 with
      | (u, .got cells f) => u.cur == 0 && cells.length == 64 && f == none
      | _ => false) = true := by decide +kernel

/-! Witnesses: tasks. -/

/-- A launch queue of ASID 0 over tiles 0 to 2, which owns slot 0; domain 1 is active. -/
noncomputable def spawning : State :=
  let q : LQueue := { asid := 0, ptbase := 0, ttbase := 0, mode := 0, weight := 1, maxPrio := 0, first := 0, nt := 3, pending := none, launches := [], record := none }
  let s := put user [(9, 0x1000), (10, 7), (11, 0xFFFFFFFF), (12, 0xFFFFFFFFFFFFFFFF), (13, 0x50040)]
  { s with th := { s.th with lqV := true, lqQueue := 4, tdomain := 0x11, ptbase := 1 }, lqueues := [(4, q)]
           domains := [(1, { Domain.reset with active := true, queue := 4, gvt := (7, 0) })] }
/-- A leaf that maps virtual page 5 to HBM for reading in U mode. -/
noncomputable def leafHbm : TlbEntry := { asid := 0, level := 0, vpn := 5, leaf := 0x153, leafPa := 0 }
noncomputable def calling : State := { spawning with cores := [(0, { Core.reset with dtlb := [leafHbm] })] }
theorem witness_spawn : spawning.myEntry = none ∧ spawning.th.sb = [] ∧ spawning.th.lqV = true ∧ spawning.ready [9, 10, 11] [] = true ∧
    (spawning.rd 9).getLsbD 0 = false ∧ (spawning.rd 9).toNat < 2 ^ 56 ∧ spawning.th.tdomain.getLsbD 4 = true ∧
    (spawning.domain (wfield spawning.th.tdomain 3 0)).active = true ∧
    (spawning.lqueue (spawning.domain 1).queue).any (fun l => l.asid == wfield spawning.th.asid 13 0) = true ∧
    (spawning.domain 1).gvt.1.toNat ≤ (spawning.rd 10).toNat ∧ spawning.rd 10 ≠ BitVec.allOnes 64 ∧ (spawning.rd 11).toNat < 2 ^ 32 ∧
    spawning.rd 12 = BitVec.allOnes 64 ∧ calling.ready [9, 13, 11] [] = true ∧ calling.myEntry = none ∧ calling.th.lqV = true ∧
    (match locateMode (calling.rd 13) 0#2 1 .load calling with
      | .ok (l, u) => u.th == calling.th && u.fresh == calling.fresh && u.myEntry.isNone && inHbm l.pa && (u.mapCheck l.pa u.th.mode .load (calling.rd 13)).isNone
      | .error _ => false) = true := by decide +kernel

/-- A task of domain 1, ordered or not. -/
noncomputable def job (ordered : Bool) : Task :=
  { uid := 90, ordered := ordered, func := 0x1000, ts := 9, tiebreak := none, hint := none, g8 := 8, args := #v[4, 5, 6, 7], dom := 1, domEn := true
    queue := 4, prio := 0, launch := none, parent := none, arrival := 0 }
/-- Its spawn on its way to tile 1, or answered. -/
noncomputable def spawned (ordered : Bool) (r : Option SpawnResult) : State :=
  { spawning with th := { spawning.th with outstanding := some { req := .spawn 1 (job ordered) r, srcs := [9], ga := 0x1000, qd := 2 } } }
/-- Tile 1 holds 256 unordered tasks. -/
noncomputable def crowded : State := { spawned false none with tiles := [(1, { Tile.reset with tasks := List.replicate 256 (job false) })] }
/-- Tile 1's only spilled task. -/
noncomputable def spilledState : State :=
  mem { spawning with tiles := [(1, { Tile.reset with spilled := [(0x10010, 0, job true)] })] } (spillPa 0x10010 0) (leBytes 64 (Config.spillRecord 90).toNat)
theorem witness_task_queues : (spawned true none).tileStopped 1 = false ∧ ((spawned true none).tile 1).tasks.length < 1024 ∧
    ((spawned false none).tile 1).unorderedCount < 256 ∧ 256 ≤ (crowded.tile 1).unorderedCount ∧ crowded.tileStopped 1 = false ∧
    (job false).ordered = false ∧ (spawned true (some .taken)).th.park = none ∧ (2#3) ≠ 0#3 := by decide +kernel
theorem witness_spawn_requests : (∃ o, (spawned true none).th.outstanding = some o ∧ o.req = .spawn 1 (job true) none) ∧
    (∃ o, (spawned true (some .taken)).th.outstanding = some o ∧ o.req = .spawn 1 (job true) (some .taken)) ∧
    (∃ o, (spawned true (some .refused)).th.outstanding = some o ∧ o.req = .spawn 1 (job true) (some .refused) ∧ o.qd ≠ 0#3) :=
  ⟨⟨_, rfl, rfl⟩, ⟨_, rfl, rfl⟩, _, rfl, rfl, by decide⟩

/-- Slot 9 of tile 0 is free and has an owner; the tile holds an ordered task. -/
noncomputable def dispatching : State :=
  { spawning with tiles := [(0, { Tile.reset with tasks := [job true] })], threads := [(9, { Thread.reset with lqV := true, lqQueue := 4 })] }
theorem witness_task_slots : slotOk 9 = true ∧ (dispatching.thread 9).lqV = true ∧ dispatching.slotFree 9 = true ∧
    (dispatching.nextTask (tileOf 9) (dispatching.thread 9).lqQueue.toNat).isSome = true ∧
    [0#2, 1#2, 2#2, 3#2].all (fun u => spawning.th.pend u == 0) = true ∧ (spawning.tile (tileOf spawning.cur)).tasks = [] ∧
    (put user [(9, 15)]).ready [9] [8, 10, 11] = true ∧ ((put user [(9, 15)]).rd 9).toNat < 16 ∧ user.speculative = false := by decide +kernel

/-- An entry of tile 0 that aborts, with or without a crumb of block 0x4000000004. -/
noncomputable def aborting (crumbs : List Nat) : State :=
  let x : CommitEntry := { task := job true, slot := 9, stage := .aborting, sigR := 0, sigW := 0, crumbs := crumbs, irrevocable := false, held := none
                           children := [], discard := true, requeueTile := none, reads := [] }
  mem { user with tiles := [(0, { Tile.reset with commit := [(3, x)], crumbbase := 0x400001 })], domains := [(1, { Domain.reset with active := true, sampled := some (8, 0) })] }
    (0x400000 + 32768 * 3) (List.replicate 64 5 ++ leBytes 8 0x10000000100)
/-- A store that waits while a running task of tile 0 has read its block. -/
noncomputable def overwriting : State :=
  let s := aborting []
  { s with th := storing.th
           tiles := s.tiles.map fun t => (t.1, { t.2 with commit := t.2.commit.map fun e => (e.1, { e.2 with stage := .running, reads := [0x10000000100 / 64] }) }) }
theorem witness_drain_conflict : (overwriting.thread 0).mayDrain 0 = true ∧ (overwriting.thread 0).sb[0]?.isSome = true ∧
    overwriting.conflicts (overwriting.requesterOf 0) (some (coreOf 0)) 0x10000000100 1 true = [(0, 3)] := by decide +kernel
theorem witness_domains : ((aborting []).entry 0 3).any (fun x => x.stage == .aborting && x.children.isEmpty && x.crumbs.isEmpty && x.discard) = true ∧
    ((aborting [0x400000004]).entry 0 3).any (fun x => x.crumbs == 0x400000004 :: []) = true ∧
    leNat ((aborting [0x400000004]).bytes ((aborting [0x400000004]).crumbPa 0 3 0 + 64) 8) = 64 * 0x400000004 ∧ inLm (64 * 0x400000004) = true ∧
    (aborting [0x400000004]).conflicts (.spec 1 (job true).key 0 3) (some (coreOf 9)) (64 * 0x400000004) 64 true = [] ∧
    (aborting [0x400000004]).poisonNarrow (64 * 0x400000004) 64 = false ∧ ((aborting []).domain 1).active = true ∧
    ((aborting []).domain 1).sampled = some (8, 0) ∧ ((aborting []).domain 1).stopped = false ∧
    ((aborting []).domain 1).start + 2 ^ 48 ≤ ({ aborting [] with time := 2 ^ 48 } : State).time := by decide +kernel

/-! Witnesses: launches and contexts. -/

/-- A descriptor for one persistent thread. -/
noncomputable def desc0 : BitVec 512 := 0
/-- A descriptor of records: one record at 0x50000. -/
noncomputable def descRecords : BitVec 512 := BitVec.ofNat 512 (2 * 2 ^ 320 + 2 ^ 344 + 0x50000 * 2 ^ 128)
/-- A descriptor of one persistent thread with an image of one unit at 0x50000 and a completion word at 0x50008. -/
noncomputable def descImage : BitVec 512 := BitVec.ofNat 512 (2 ^ 443 + 0x50000 * 2 ^ 456 + 0x50008 * 2 ^ 256)
/-- A launch of queue 4. -/
noncomputable def launchOf (d : BitVec 512) : Launch :=
  { queue := 4, desc := d, made := 0, ended := 0, recs := 0, cur := none, expanded := false, failed := false, prio := 0, held := none, starting := none, copied := 0 }
/-- A piece held for tile 0. -/
noncomputable def pieceHeld : Piece := { tile := 0, task := { job false with func := 0x2000, dom := 0, domEn := false } }
/-- Queue 4 expands a launch; virtual page 5 is own local memory; slot 9 is free with queue 4 as its owner. -/
noncomputable def launching (l : Launch) : State :=
  let q : LQueue := { asid := 0, ptbase := 1, ttbase := 0, mode := 0, weight := 1, maxPrio := 0, first := 0, nt := 3, pending := none, launches := [7], record := none }
  { put user [(9, 0x50040), (10, 4)] with
    th := { (put user [(9, 0x50040), (10, 4)]).th with ptbase := 1 }, lqueues := [(4, q)], launches := [(7, l)]
    cores := [(0, { Core.reset with dtlb := [leafOwn] }), (1, { Core.reset with dtlb := [leafOwn] })], threads := [(9, { Thread.reset with lqV := true, lqQueue := 4 })] }
theorem witness_lnch : (launching (launchOf desc0)).ready [9, 10] [] = true ∧ (launching (launchOf desc0)).speculative = false ∧
    (launching (launchOf desc0)).th.sb = [] ∧ ((launching (launchOf desc0)).rd 10).toNat < 2 ^ 12 ∧
    ((launching (launchOf desc0)).lqueue 4).any (fun x => x.asid == 0 && x.launches.length == 1) = true ∧
    (match readMem ((launching (launchOf desc0)).rd 9) 0#2 64 false (launching (launchOf desc0)) with
      | .ok (bs, u) => u.th == (launching (launchOf desc0)).th && BitVec.ofNat 512 (leNat bs) == desc0 &&
          (u.lqueue 4).any fun x => (u.launchCheck 4 x desc0).isNone
      | .error _ => false) = true := by decide +kernel
theorem witness_lnch_answer : let s : State := { user with th := { user.th with outstanding := some { req := .lnch false, srcs := [], ga := 0, qd := 1 } } }
    ∃ o, s.th.outstanding = some o ∧ s.th.park = none ∧ o.req = .lnch false ∧ o.qd ≠ 0#3 := ⟨_, rfl, rfl, rfl, by decide⟩
theorem witness_expansion : ((launching (launchOf desc0)).expanding 4).any (fun x => x.1 == 7 && x.2.held.isNone && x.2.next == some (0, 0, 0, 0) &&
      (LaunchDesc.ofBits x.2.desc).kind == 0) = true ∧
    ((launching (launchOf descRecords)).expanding 4).any (fun x => x.2.held.isNone && x.2.cur.isNone && (LaunchDesc.ofBits x.2.desc).mode == 2 &&
      decide (x.2.recs < (LaunchDesc.ofBits x.2.desc).nrec)) = true ∧
    (match (eRead ((launching (launchOf descRecords)).launchIssuer 4) 0 0x50000 16 7).run' (launching (launchOf descRecords)) with
      | (_, .ok bs) => bs.length == 16
      | _ => false) = true := by decide +kernel
/-- The same with a piece held, being started on slot 9 or not. -/
noncomputable def starting (slot : Option Nat) (d : BitVec 512) : State := launching { launchOf d with held := some pieceHeld, made := 1, starting := slot }
theorem witness_piece : slotOk 9 = true ∧ ((starting none desc0).thread 9).lqV = true ∧ (starting none desc0).slotFree 9 = true ∧
    ((starting none desc0).expanding 4).any (fun x => x.2.held == some pieceHeld && pieceHeld.tile == tileOf 9 && x.2.starting.isNone &&
      (LaunchDesc.ofBits x.2.desc).lmlen == 0 && !(LaunchDesc.ofBits x.2.desc).gen) = true ∧
    (((starting (some 9) descImage).launches.find? fun l => l.2.starting == some 9).any fun x => x.2.held.isSome && (LaunchDesc.ofBits x.2.desc).lmlen == 1) = true ∧
    (match (copyUnit { (starting (some 9) descImage).launchIssuer 4 with core := coreOf 9 } 7 9 0 (LaunchDesc.ofBits descImage)).run' (starting (some 9) descImage) with
      | (_, .ok ()) => true
      | _ => false) = true := by decide +kernel
/-- A launch whose pieces have ended. -/
noncomputable def completing (d : BitVec 512) : State := launching { launchOf d with expanded := true, made := 1, ended := 1 }
theorem witness_completion : (assocFind 7 (completing desc0).launches).any (fun l => l.expanded && decide (l.made ≤ l.ended) && (LaunchDesc.ofBits l.desc).compl == 0) = true ∧
    (LaunchDesc.ofBits descImage).compl ≠ 0 ∧
    (match (completionUpdate ((completing descImage).launchIssuer 4) 7 0x50008 1).run' (completing descImage) with
      | (_, .ok ()) => true
      | _ => false) = true := by decide +kernel

/-- Queue 4 owns slot 0, which runs work of priority 0, and a task of priority 1 waits; the tile has frames for contexts. -/
noncomputable def preempting : State :=
  { spawning with tiles := [(0, { Tile.reset with tasks := [{ job false with prio := 1 }], ctxbase := 0x100001 })]
                  lqueues := [(4, { asid := 0, ptbase := 0, ttbase := 0, mode := 0, weight := 1, maxPrio := 1, first := 0, nt := 1, pending := some (5, 2), launches := [], record := none })] }
/-- The same once the halt is requested. -/
noncomputable def halting : State := { preempting with th := { preempting.th with halt := some 4 } }
theorem witness_scheduling : (assocFind 4 preempting.lqueues).any (fun x => x.pending == some (5, 2)) = true ∧
    (tileSlots 0).all (fun h => (preempting.thread h).kind == .empty || (preempting.thread h).halt.isNone) = true ∧ preempting.starved 0 1 = some (4, tileSlots 0) ∧ preempting.preemptVictim 0 1 (tileSlots 0) = some 0 ∧
    (preempting.thread 0).entry = none ∧ (halting.thread 0).halt = some 4 ∧ (halting.thread 0).kind ≠ .empty ∧ (halting.thread 0).park = none ∧
    halting.freeFrames (tileOf 0) ≠ [] := by decide +kernel

/-- A context of handle 1 saved with its image in own local memory, on a device where slot 0 runs and slot 1 is free. -/
noncomputable def saved (sched : Bool) (o : Option Outstanding) : State :=
  let p : Park := { image := some 0x10000000800, cluster := none, sched := sched, rsn := .atPc, ans := 0, sbcnt := 0, wait := none, yielded := false }
  let s := put super [(9, 0x4000000000000800), (10, 0x3000)]
  mem { s with th := { s.th with lqV := true, lqQueue := 4 }
               threads := [(1, { Thread.reset with lqV := true, lqQueue := 4 }), (32769, { Thread.reset with kind := .persistent, lqV := true, lqQueue := 4, park := some p, outstanding := o })] }
    (0x10000000800 + 8 * 69) (leBytes 8 0x9800000000019801)
/-- The same on its way to tile 0. -/
noncomputable def migrant : State :=
  { saved true none with migrating := [(1, 0, 32769)]
                         lqueues := [(4, { asid := 0, ptbase := 0, ttbase := 0, mode := 0, weight := 1, maxPrio := 1, first := 0, nt := 1, pending := none, launches := [], record := none })] }
theorem witness_contexts : ((saved true none).thread 32769).park.any (fun p => p.sched && p.image.isSome) = true ∧
    ((saved true none).thread 32769).resumable = true ∧ (saved true none).resumeSlot 1 4 = some 1 ∧
    assocFind 1 (migrant.migrating) = some (0, 32769) ∧ ((migrant.rebalance 0 false).thread 32769).resumable = true ∧
    (migrant.rebalance 0 false).admitting (tileSlots 0) ((migrant.rebalance 0 false).thread 32769).lqQueue.toNat ≠ [] := by decide +kernel
theorem witness_answer : let s := saved true (some { req := .message 9 letter (some true), srcs := [], ga := 0, qd := 2 })
    (s.thread 32769).park.isSome = true ∧ ∃ o, (s.thread 32769).outstanding = some o ∧ o.req = .message 9 letter (some true) :=
  ⟨by decide +kernel, _, rfl, rfl⟩
theorem witness_ctxpark : (saved false none).th.privileged = true ∧ (saved false none).th.plain 9 = true ∧ (saved false none).th.plain 10 = true ∧
    (saved false none).speculative = false ∧ (match imagePlace ((saved false none).rd 9) .store (saved false none) with
      | .ok (p, u) => p == (0x10000000800, none) && u.rd 10 == (saved false none).rd 10 && u.th == (saved false none).th
      | .error _ => false) = true ∧ user.myEntry = none ∧ user.th.exl = false ∧ user.th.privileged = false := by decide +kernel
theorem witness_ctxload : (saved false none).ready [9] [] = true ∧ (match imagePlace ((saved false none).rd 9) .rmw (saved false none) with
      | .ok (p, u) =>
        let ws := u.readImage { image := some p.1, cluster := p.2, sched := false, rsn := .atPc, ans := 0, sbcnt := 0, wait := none, yielded := false }
        u.cur == 0 && imageForm 0 ws && decide (wfield (ws.getD 48 0#64) 9 8 ≤ u.th.mode.toNat) &&
        (u.saved.find? fun k => (u.thread k).park.any fun x => x.image == some p.1 && x.cluster == p.2) == some 32769 &&
        (ws.getD savestIndex 0#64).getLsbD 60 && (ws.getD savestIndex 0#64).getLsbD 59 && (u.thread 32769).resumable && u.th.lqV &&
        u.resumeSlot (wfield (ws.getD savestIndex 0#64) 30 16) u.th.lqQueue.toNat == some 1
      | .error _ => false) = true := by decide +kernel

/-! Witnesses: the vector lane pool. -/

/-- A thread with a grant of 8 lanes and elements in v2 to v4, k1 admitting lanes 0, 1 and 7. -/
noncomputable def vectoring : State :=
  let v := ((regSet (regSet (regSet user.th.v 2 (BitVec.ofNat 2048 0x7F80FF01_00000003_FFFFFFFE_40490FDB_3F800000_C0000000_80000000_7FFFFFFF)) 3
    (BitVec.ofNat 2048 0x02010103_00000002_00000001_40000000_BF800000_3F000000_7FFFFFFF_00000001)) 4 (BitVec.ofNat 2048 0x11111111_22222222)) : Vector (BitVec 2048) 32)
  let s := put user [(9, 0x4000000000000100), (10, 3), (11, 8), (12, 5)]
  { s with th := { s.th with grant := 8, laneReq := 8, v := v, k := set8 user.th.k 1 0x83 } }
theorem witness_vector_acceptance : vectorForm (.vadd 1 2 3 1 2) = some (4, [], [2, 3], [1]) ∧ vectoring.vectorOk (.vadd 1 2 3 1 2) = true ∧
    vectoring.poolReady [2, 3, 1] = true ∧ vectorForm (.vld 31 9 1 2) = some (4, [9], [], [31]) ∧ vectoring.vectorOk (.vld 31 9 1 2) = true ∧
    vectoring.ready [9] [] = true ∧ vectoring.vectorOk (.vselk 1 2 10 0 2) = true ∧ vectoring.vectorOk (.vfneg 1 2 0) = true := by decide +kernel

/-- Tensor 5 of ASID 0 in the tile's cache: F32, 2 rows of 8 columns at 0x10000, in rows of 32 bytes. -/
noncomputable def tensor5 : BitVec 512 := BitVec.ofNat 512 (2 ^ 319 + 10 * 2 ^ 256 + 32 * 2 ^ 192 + 8 * 2 ^ 160 + 2 * 2 ^ 128 + 0x10000)
noncomputable def withTensor (s : State) (e : BitVec 512) : State :=
  { s with tiles := [(0, { Tile.reset with tcache := [(0, 5, e)] })], th := { s.th with ttbase := 1 } }
theorem witness_vldt : (withTensor (put vectoring [(9, 5)]) tensor5).poolReady [1] = true ∧ (withTensor (put vectoring [(9, 5)]) tensor5).ready [9] [] = true ∧
    (withTensor (put vectoring [(9, 5)]) tensor5).resolved 5 tensor5 ∧ (Tensor.ofEntry tensor5).w = 8 * 2 ^ (2#2).toNat ∧ (Tensor.ofEntry tensor5).format ≠ 14 ∧
    sxbOf (Tensor.ofEntry tensor5).format = none ∧ (Tensor.ofEntry tensor5).wprot = false :=
  ⟨by decide +kernel, by decide +kernel, ⟨by decide +kernel, by decide +kernel, by decide +kernel, by decide +kernel⟩, by decide +kernel, by decide +kernel,
    by decide +kernel, by decide +kernel⟩

/-- A fault held by the lane pool. -/
noncomputable def poolFault (u : EUnit) : State :=
  let s : State := { user with th := { user.th with held := set4 user.th.held u (some { code := 1 * 64 + 9, addr := 0x1234, seq := 1 }) } }
  { s with th := s.th.setFlt u 1 }
theorem witness_vector_traps : vectorForm (.vadd 1 2 3 0 2) = some (4, [], [2, 3], [1]) ∧ user.vectorOk (.vadd 1 2 3 0 2) = true ∧ user.ready [] [] = true ∧
    user.myEntry = none ∧ user.th.exl = false ∧ user.th.flt 2#2 = false ∧ user.th.grant = 0 ∧ (poolFault 2).th.flt 2#2 = true ∧
    (get4 (poolFault 2).th.held 2#2).any (fun f => f.code != 8) = true ∧ (put vectoring [(9, 0xC000000000000000)]).poolReady [] = true ∧
    wfield ((put vectoring [(9, 0xC000000000000000)]).rd 9) 63 62 = 3 ∧ vectoring.th.privileged = false := by decide +kernel

/-- The thread with one command queued. -/
noncomputable def pooledOne (i : Instr) (ga : Word) : State :=
  { vectoring with cores := [(0, { Core.reset with vq := [vectoring.command i 1 ga 0 []] })], fresh := 2, th := vectoring.th.pendUp 2 }
theorem witness_pool_head : (pooledOne (.vadd 1 2 3 1 2) 0).poolHead 0 (vectoring.command (.vadd 1 2 3 1 2) 1 0 0 []) :=
  ⟨by decide +kernel, rfl, rfl, rfl, by decide +kernel, by decide +kernel, by decide +kernel⟩
theorem witness_lanes : (laneRule (vectoring.command (.vadd 1 2 3 1 2) 1 0 0 []) vectoring.th).isSome = true ∧ vectoring.th.vStream 1 = none ∧
    (∃ p, maskRule (vectoring.command (.vcmplt 7 2 3 1 0) 1 0 0 []) = some (7, 1, 2, 3, 32, p)) ∧ (7#3) ≠ 0#3 ∧
    (fillRule (vectoring.command (.vcompress 1 2 1 0) 1 0 0 []) vectoring.th).isSome = true ∧ (1 : Nat) < vectoring.th.count 32 :=
  ⟨by decide +kernel, by decide +kernel, ⟨_, rfl⟩, by decide, by decide +kernel, by decide +kernel⟩
theorem witness_vector_memory : slotOk 0 = true ∧ (pooledOne (.vst 2 9 1 2) 0x400000000003FFE0).still ∧ vectoring.th.sb = [] ∧ vectoring.th.entry = none ∧
    (vectoring.command (.vst 2 9 1 2) 1 0x400000000003FFE0 0 []).done = 0 ∧ wfield (0x400000000003FFE0#64) 63 62 = 1 ∧
    wfield (0x400000000003FFE0#64) 55 0 % 4 = 0 ∧ wfield (0x400000000003FFE0#64) 55 0 + 4 * vectoring.th.count 32 ≤ 0x40000 :=
  ⟨by decide +kernel, ⟨rfl, rfl, by decide +kernel, fun _ => rfl⟩, rfl, rfl, rfl, by decide, by decide, by decide +kernel⟩

/-- Group 5 has one member, slot 9 of core 1. -/
noncomputable def grouped (s : State) : State := { s with dies := [(0, { Die.reset with groups := [(5, { asid := 0, members := [9], arrived := [], released := [] })] })] }
theorem witness_ksend : (grouped (pooledOne (.ksend 12 2 3 1) 5)).poolHead 0 (vectoring.command (.ksend 12 2 3 1) 1 5 0 []) ∧
    (grouped (pooledOne (.ksend 12 2 3 1) 5)).group 5 = some { asid := 0, members := [9], arrived := [], released := [] } ∧
    (grouped (pooledOne (.ksend 12 2 3 1) 5)).storesBefore 0 1 = true ∧
    (((List.range 8).filter (vectoring.th.laneSet 1)).all fun j => (grouped (pooledOne (.ksend 12 2 3 1) 5)).lmPermits
      ((vectoring.command (.ksend 12 2 3 1) 1 5 0 []).issuer 0) ((grouped (pooledOne (.ksend 12 2 3 1) 5)).binPa 1 (vectoring.th.elem 2 32 j)) .store) = true :=
  ⟨⟨by decide +kernel, rfl, rfl, rfl, by decide +kernel, by decide +kernel, by decide +kernel⟩, by decide +kernel, by decide +kernel, by decide +kernel⟩
/-- Core 1's receiving unit, enabled or not, with two elements. -/
noncomputable def receiving (krcv : Word) : State :=
  { user with cores := [(1, { Core.reset with krcv := krcv, keys := [{ slot := 0, key := 17, value := 0xFFFFFFFF }, { slot := 0, key := 1, value := 2 }] })] }
theorem witness_bins : ((receiving 0).core 1).keys.length = 2 ∧ (0#64).getLsbD 41 = false ∧ (0x2CC000F0040#64).getLsbD 41 = true ∧
    (let bin := window (globalCore 1) + (4 * 0x40 + 4 * (17 % 16))
     (receiving 0x2CC000F0040).unlanded bin 4 0 = false ∧ (receiving 0x2CC000F0040).conflicts .nonSpec none bin 4 true = [] ∧
     (receiving 0x2CC000F0040).poisonNarrow bin 4 = false ∧ bin + 4 ≤ romBase) := by decide +kernel

theorem witness_vclaim : (16 : Nat) ∈ [8, 16, 32, 64] ∧ (put user [(9, 16)]).rd 9 = BitVec.ofNat 64 16 ∧ (put user [(9, 16)]).ready [9] [8] = true ∧
    (put user [(9, 16)]).th.pend 2#2 = 0 ∧ (put user [(9, 16)]).threads.all (fun x => tileOf x.1 != tileOf 0 || x.2.laneReq == 0) = true ∧
    (put user [(9, 16)]).th.grant ≤ 64 := by decide +kernel
theorem witness_vector_reads : vectoring.poolReady [2] = true ∧ vectoring.ready [10] [8] = true ∧ vectoring.th.pend 2#2 = 0 ∧ vectoring.poolReady [] = true ∧
    vectoring.th.grant ≤ 64 := by decide +kernel
theorem witness_unit_fences : [0#2, 2#2, 3#2].all (fun u => user.th.pend u == 0 && !user.th.flt u && (poolFault u).th.pend u == 0 && (poolFault u).th.flt u &&
      (get4 (poolFault u).th.held u).any (fun f => f.code != 8) && (user.th.pendUp u).pend u != 0) = true ∧
    (poolFault 0).myEntry = none ∧ (poolFault 0).th.exl = false ∧ user.speculative = false := by decide +kernel
theorem witness_kbin : (put user [(9, 0x3FFC0), (10, 0x128000F)]).ready [9, 10] [] = true ∧ user.myCore.keys = [] ∧ (0x3FFC0#64).toNat % 4 = 0 ∧
    wfield (0x0128000F#64) 63 25 = 0 ∧ wfield (0x0128000F#64) 22 18 ∈ [2, 6, 10] ∧ (0x3FFC0#64).toNat + 4 * (wfield (0x0128000F#64) 15 0 + 1) ≤ 0x40000 ∧
    user.myCore.vq = [] ∧ (user.cores.all fun c => c.2.keys.all fun u => u.slot != user.cur) = true := by decide +kernel

/-! Witnesses: the matrix unit. -/

/-- A thread with tensor 5 named by r9 and r10 in the fields of MMA. -/
noncomputable def matrixing : State := withTensor (put user [(9, 5), (10, 0x500)]) tensor5
/-- The same tensor in a narrow format. -/
noncomputable def narrow5 : BitVec 512 := BitVec.ofNat 512 (2 ^ 319 + 8 * 2 ^ 256 + 32 * 2 ^ 192 + 8 * 2 ^ 160 + 2 * 2 ^ 128 + 0x10000)
/-- The same tensor in an integer format. -/
noncomputable def whole5 : BitVec 512 := BitVec.ofNat 512 (2 ^ 319 + 2 * 2 ^ 256 + 32 * 2 ^ 192 + 8 * 2 ^ 160 + 2 * 2 ^ 128 + 0x10000)
theorem witness_matrix_acceptance : matrixing.matrixFree = true ∧ matrixing.ready [9, 10] [] = true ∧ matrixing.resolved (wfield (matrixing.rd 9) 11 0) tensor5 ∧
    matrixing.resolved (wfield (matrixing.rd 10) 19 8) tensor5 ∧
    mmaFits false 1 (matrixing.rd 9) (matrixing.rd 10) (Tensor.ofEntry tensor5) (Tensor.ofEntry tensor5) = true ∧
    mmaFits true 1 (matrixing.rd 9) (matrixing.rd 10) (Tensor.ofEntry narrow5) (Tensor.ofEntry narrow5) = true ∧
    mmaPair (Tensor.ofEntry whole5).format (Tensor.ofEntry tensor5).format = false :=
  ⟨by decide +kernel, by decide +kernel, ⟨by decide +kernel, by decide +kernel, by decide +kernel, by decide +kernel⟩,
    ⟨by decide +kernel, by decide +kernel, by decide +kernel, by decide +kernel⟩, by decide +kernel, by decide +kernel, by decide +kernel⟩
theorem witness_matrix_entries : (withTensor matrixing narrow5).resolved 5 narrow5 ∧ (withTensor matrixing whole5).resolved 5 whole5 :=
  ⟨⟨by decide +kernel, by decide +kernel, by decide +kernel, by decide +kernel⟩, ⟨by decide +kernel, by decide +kernel, by decide +kernel, by decide +kernel⟩⟩
theorem witness_matrix_window : (put matrixing [(10, 0)]).matrixFree = true ∧ windowOk 1 1 5 0 (Tensor.ofEntry tensor5) = true ∧ (Tensor.ofEntry tensor5).wprot = false ∧
    (Tensor.ofEntry tensor5).has (wfield (5#64) 31 12) (wfield (5#64) 51 32) = true := by decide +kernel
theorem witness_matrix_checks : (match matrixChecks (.mspx 1 1 9 10 0) (matrixing.rd 9) (matrixing.rd 10) (matrixing.rd 9) matrixing with
    | .ok (es, u) => decide (es = [tensor5, tensor5] ∧ u.th = matrixing.th ∧ u.cur = matrixing.cur ∧ u.cores = matrixing.cores ∧ u.fresh = matrixing.fresh)
    | .error _ => false) = true := by decide +kernel
theorem witness_matrix_traps : (put user [(9, 4097)]).matrixFree = true ∧ (put user [(9, 4097)]).ready [9, 10] [] = true ∧ user.th.ttbase.getLsbD 0 = false ∧
    4096 < ((put user [(9, 4097)]).rd 9).toNat ∧ user.myEntry = none ∧ user.th.exl = false ∧ matrixing.myEntry = none ∧ matrixing.th.exl = false := by
  decide +kernel

/-- Core 0 with one matrix command queued, its tile's array in a state. -/
noncomputable def queuedOne (i : Instr) (a : ArrayPower) (f : Command → Command) : State :=
  { user with cores := [(0, { Core.reset with mq := [f (user.command i 1 5 6 [tensor5, tensor5])], acc := Vector.replicate 8 1 })], fresh := 2
              tiles := [(0, { Tile.reset with array := a, hold := 2, mbudget := 0xFFFF000000000008 })], th := user.th.pendUp 3 }
theorem witness_matrix_head : (queuedOne (.mzero 2 3) .off id).matrixHead 0 (user.command (.mzero 2 3) 1 5 6 [tensor5, tensor5]) ∧
    ((queuedOne (.mzero 2 3) .off id).core 0).pred (user.command (.mzero 2 3) 1 5 6 [tensor5, tensor5]).predicate = false ∧
    ((queuedOne (.mzero 2 0) .off id).core 0).pred 0 = true ∧ (user.command (.mspx 1 1 9 10 0) 1 5 6 []).isArray = true :=
  ⟨⟨⟨[], rfl⟩, rfl, rfl, by decide +kernel, by decide +kernel⟩, by decide +kernel, by decide +kernel, by decide +kernel⟩
theorem witness_array_power : (put user [(9, 4096)]).ready [9] [] = true ∧ ((put user [(9, 4096)]).rd 9).toNat ≤ 4096 ∧ user.speculative = false ∧
    (user.tile 0).array = .off ∧ 0 < ((put user [(9, 4096)]).rd 9).toNat ∧
    ({ Tile.reset with array := .rampDown, ramp := (100, 32) } : Tile).array = .rampDown ∧ (132 : Nat) = 100 + 32 ∧ (32 : Nat) ≤ 32 := by decide +kernel
/-- A tile in a state of the array, at a time. -/
noncomputable def powered (a : ArrayPower) (hold last now : Nat) : State :=
  { user with tiles := [(0, { Tile.reset with array := a, hold := hold, arrayLast := last, arrayStart := last, ramp := (last, 32) })], time := now }
theorem witness_array_events : ((powered .rampUp 0 10 42).tile 0).ramp.1 + ((powered .rampUp 0 10 42).tile 0).ramp.2 ≤ 42 ∧
    ((powered .on 0 10 74).tile 0).arrayLast + 64 ≤ 74 ∧ ((powered .on 0 10 74).tile 0).hold = 0 ∧ (powered .on 0 10 74).arrayBusy 0 = false ∧
    ((powered .on 5 10 4106).tile 0).arrayStart + 4096 ≤ 4106 ∧ 0 < ((powered .on 5 10 4106).tile 0).hold := by decide +kernel
/-- An MSPX whose fibres are empty, its operands staged. -/
noncomputable def staged : State := queuedOne (.mspx 1 1 9 10 0) .on fun c => { c with done := 1, ga := 5 + 2 ^ 52 }
theorem witness_array_starts : (match (staged.core 0).mq with
    | c :: l => c.isArray && c.done == 1 && !c.started && c.frozen.isNone && (match (estimate 0 c).run' staged with
        | (_, .ok n) => n == 0
        | _ => false) && (match (runMatrix 0 c).run' staged with
        | (u, .ok _) => (u.core 0).mq.map (·.seq) == (c :: l).map (·.seq)
        | _ => false)
    | [] => false) = true ∧ ((List.range 8).all fun j => j == 0 || (staged.core j).mq.isEmpty) = true := by decide +kernel
theorem witness_arbitration : [(0, 5), (1, 3), (2, 0)].all (fun x => decide (x.1 < 8)) = true ∧ ({ Tile.reset with mbudget := 0x0100000000000098 } : Tile).arbitrate [(0, 5), (1, 3), (2, 0)] = some (1, 3) ∧
    ({ Tile.reset with mbudget := 0x0, served := 0 } : Tile).arbitrate [(0, 5), (1, 3)] = some (1, 3) ∧
    ({ Tile.reset with mbudget := 0x0001000700050098 } : Tile).arbitrate [(0, 5), (1, 3)] = some (0, 5) := by decide +kernel

/-! Witnesses: the tensor table and the stack engines. -/

/-- The tensor table lies at virtual page 5, own local memory; the cache holds tensor 5. -/
noncomputable def tabled : State :=
  { withTensor (put mapped [(9, 5), (10, 0x50000)]) tensor5 with
    th := { (put mapped [(9, 5), (10, 0x50000)]).th with ttbase := 0x40001 }, cores := [(0, { Core.reset with dtlb := [{ leafOwn with vpn := 4 }, leafOwn] })] }
theorem witness_tensor_table : tabled.ready [9, 10] [8] = true ∧ tabled.th.ttbase.getLsbD 0 = true ∧ tabled.th.posted = none ∧
    (tabled.myTile.tcache.find? fun e => e.1 == wfield tabled.th.asid 13 0 && e.2.1 == wfield (tabled.rd 9) 11 0) = some (0, 5, tensor5) ∧
    user.myCore.codes = (0#64) ++ (0#64) := by decide +kernel
theorem witness_tdef : (match readMem (tabled.rd 10) 0#2 64 false tabled with
    | .ok (bs, u) => !(BitVec.ofNat 512 (leNat bs)).getLsbD 319 &&
      (match locate (BitVec.ofNat 64 (wfield tabled.th.ttbase 55 18 * 2 ^ 18 + 64 * wfield (tabled.rd 9) 11 0)) 0#2 64 .store u with
        | .ok (l, v) => v.myCore.vq.isEmpty && v.th.sb.isEmpty && !v.poisonNarrow l.pa 64 && v.th.asid == tabled.th.asid
        | .error _ => false)
    | .error _ => false) = true := by decide +kernel
/-- A drop posted to tiles 1 and 2. -/
noncomputable def posting (targets : List Nat) : State :=
  let d : Drop := { id := 6, kind := 4, asid := 0, page := 5, targets := targets, applied := [], last := 0 }
  { tabled with th := { tabled.th with posted := some 6 }, drops := [d], tiles := [(1, { Tile.reset with tcache := [(0, 5, tensor5), (0, 6, tensor5), (1, 5, tensor5)] })] }
theorem witness_tinv : (posting []).th.posted = some 6 ∧ (posting []).drops.all (fun d => d.id != 6 || d.targets.isEmpty) = true ∧ (3 : Nat) ≤ (6#3).toNat ∧ (2#3).toNat < 3 ∧
    ((posting [1, 2]).nextTarget 0 true).isSome = true ∧ user.th.ttbase.getLsbD 0 = false ∧ user.myEntry = none ∧ user.th.exl = false := by decide +kernel

/-- A thread with tensor 5 and lists of two elements at 0x100 and 0x3FFF8. -/
noncomputable def stacking (n : Nat) : State := withTensor (put user [(9, 0x100005), (10, BitVec.ofNat 64 (0x3FFF8 + n * 2 ^ 32)), (11, 0x5005), (12, BitVec.ofNat 64 (n * 2 ^ 32))]) tensor5
/-- The page of the tensor's elements. -/
noncomputable def page1 : TlbEntry := { asid := 0, level := 0, vpn := 1, leaf := 0x100D7, leafPa := 0 }
/-- The same with the tensor's page, in HBM, in the core's TLB. -/
noncomputable def stackingHome (n : Nat) : State :=
  { stacking n with th := { (stacking n).th with ptbase := 1 }, cores := [(0, { Core.reset with dtlb := [page1] })] }
/-- Its stack queue full. -/
noncomputable def stuffed : State := { stacking 2 with cores := [(0, { Core.reset with sq := List.replicate 32 (user.command .sfence 0 0 0 []) })] }
theorem witness_stack : (stacking 2).ready [9, 10] [] = true ∧ (stacking 2).speculative = false ∧ (stacking 2).resolved 5 tensor5 ∧
    listsFit (Tensor.ofEntry tensor5) 0x100005 0x20003FFF8 = true ∧ (Tensor.ofEntry tensor5).wprot = false ∧ (Tensor.ofEntry tensor5).format ∈ [2, 3, 6, 7, 10, 11] ∧
    (stacking 2).stackRoom (some 15) = true ∧ stuffed.stackRoom none = false ∧ stuffed.myEntry = none ∧ stuffed.th.exl = false ∧
    wfield ((stacking 2).rd 10) 63 32 ≠ 0 ∧ wfield ((stacking 0).rd 10) 63 32 = 0 ∧ (stacking 2).servedBy tensor5 0 ∧ (stackingHome 2).servedBy tensor5 1 ∧
    (stackingHome 2).ready [9, 10] [] = true ∧ (stackingHome 2).resolved 5 tensor5 :=
  ⟨by decide +kernel, by decide +kernel, ⟨by decide +kernel, by decide +kernel, by decide +kernel, by decide +kernel⟩, by decide +kernel, by decide +kernel,
    by decide +kernel, by decide +kernel, by decide +kernel, by decide +kernel, by decide +kernel, by decide +kernel, by decide +kernel,
    .inl ⟨by decide +kernel, rfl⟩, .inr ⟨by decide +kernel, by decide +kernel, ⟨page1, by decide +kernel, by decide +kernel⟩⟩, by decide +kernel,
    ⟨by decide +kernel, by decide +kernel, by decide +kernel, by decide +kernel⟩⟩
theorem witness_sconv : wfield (0x5005#64) 23 12 = 5 ∧ (Tensor.ofEntry tensor5).format ≠ 14 ∧ wfield (0x1000000000#64) 63 32 ≤ 4096 ∧ wfield (0x5005#64) 26 24 ≤ 4 ∧
    wfield (0x5005#64) 63 28 = 0 ∧ sxbOf (Tensor.ofEntry tensor5).format = none ∧ (Tensor.ofEntry tensor5).skind = 0 ∧
    wfield (0x1000000000#64) 31 0 + wfield (0x1000000000#64) 63 32 ≤ (Tensor.ofEntry tensor5).rows * (Tensor.ofEntry tensor5).cols := by decide +kernel

/-- Core 0 with one stack command queued. -/
noncomputable def stackedOne (i : Instr) (f : Command → Command) : State :=
  let s := mem (stacking 2) (window 0 + 0x100) [3, 0, 0, 0, 16, 0, 0, 0]
  { s with cores := [(0, { Core.reset with sq := [f { s.command i 1 (s.rd 9) (s.rd 10) [tensor5] with extra := [1, 0, 0, 0] }] })], fresh := 2, th := s.th.pendUp 0 }
theorem witness_stack_snapshot : (stackedOne (.sgath 1 2 9 10) id).still ∧ (match ((stackedOne (.sgath 1 2 9 10) id).core 0).sq with
    | [c] => c.frozen.isNone && c.snap.isNone && !(stackedOne (.sgath 1 2 9 10) id).joinHeld c.slot c.seq 2 &&
      (stackedOne (.sgath 1 2 9 10) id).storesBefore c.slot c.seq && wfield c.ga 63 12 % 4 == 0 && decide (wfield c.ga 63 12 + 4 * wfield c.gb 63 32 ≤ 0x40000)
    | _ => false) = true :=
  ⟨⟨rfl, rfl, by decide +kernel, fun _ => rfl⟩, by decide +kernel⟩
/-- Its snapshot names element 3, inside the tensor, and element 16, outside. -/
noncomputable def snapped (i : Instr) (d : Nat) : State := stackedOne i fun c => { c with snap := some [(3, 0x3F800000), (16, 7)], done := d }
theorem witness_stack_element : (match ((snapped (.sscat 1 9 10) 1).core 0).sq with
    | [c] => c.frozen.isNone && c.snap.any (fun p => p[c.done]? == some (16, 7)) && decide ((Tensor.ofEntry (c.tensors.getD 0 0)).rows * (Tensor.ofEntry (c.tensors.getD 0 0)).cols ≤ 16)
    | _ => false) = true := by decide +kernel
/-- The one stack command of core 0. -/
noncomputable def stackHead (s : State) : Command := (s.core 0).sq.headD (s.command .sfence 0 0 0 [])
/-- A stack command with its snapshot, tensors on virtual pages 1 and 2 of HBM, and the walk unit's answers for them. -/
noncomputable def elementOf (i : Instr) (es : List (BitVec 512)) : State :=
  let s := snapped i 0
  let leaf (p : Nat) : TlbEntry := { asid := 0, level := 0, vpn := p, leaf := BitVec.ofNat 64 (65536 * p + 0xD7), leafPa := 0 }
  { s with
    walkAnswers := [1, 2].map fun p => { num := 1, die := 0, page := p, result := .leaf (leaf p) }
    cores := s.cores.map fun c => (c.1, { c.2 with sq := c.2.sq.map fun y => { y with ptbase := 1, gb := 0, tensors := es } }) }
theorem witness_stack_access : (elementOf (.sscat 1 9 10) [tensor5]).stackFree (stackHead (elementOf (.sscat 1 9 10) [tensor5])) 0x1000C 4 .load 0x1000C ∧
    (elementOf (.sscat 1 9 10) [tensor5]).stackFree (stackHead (elementOf (.sscat 1 9 10) [tensor5])) 0x1000C 4 .store 0x1000C ∧
    (stackHead (elementOf (.sscat 1 9 10) [tensor5])).home 0x1000C = true ∧ (Tensor.ofEntry tensor5).elemBit 0 3 / 8 = 0x1000C ∧
    Memory.wf (elementOf (.sscat 1 9 10) [tensor5]) = true :=
  ⟨⟨by decide, by decide +kernel, ⟨page1, by decide +kernel, by decide +kernel, by decide +kernel, by decide +kernel⟩, by decide +kernel, by decide +kernel, by decide,
      rfl, by decide +kernel, fun _ => rfl, rfl, rfl, by decide +kernel, by decide +kernel⟩,
    ⟨by decide, by decide +kernel, ⟨page1, by decide +kernel, by decide +kernel, by decide +kernel, by decide +kernel⟩, by decide +kernel, by decide +kernel, by decide,
      rfl, by decide +kernel, fun _ => rfl, rfl, rfl, by decide +kernel, by decide +kernel⟩, by decide +kernel, by decide +kernel, by decide +kernel⟩
theorem witness_stack_write : [Instr.sgath 1 2 9 10, .sscat 1 9 10, .sred 1 9 10 5].all (fun i =>
    let s := elementOf i [tensor5]
    let c := stackHead s
    (match (eStackRead 0 c (Tensor.ofEntry tensor5) 0 3).run' s with
      | (u, .ok v) => v == 0 && (match (eStackWrite 0 c c.home (Tensor.ofEntry tensor5) 0 3 0x3F800000).run' u with
        | (w, .ok _) => leNat (w.bytes 0x1000C 4) == 0x3F800000
        | _ => false)
      | _ => false)) = true := by decide +kernel
/-- The destination as F16, and in a block form of 8-bit mantissas with its exponents on page 2. -/
noncomputable def half5 : BitVec 512 := BitVec.ofNat 512 (2 ^ 319 + 8 * 2 ^ 256 + 32 * 2 ^ 192 + 8 * 2 ^ 160 + 2 * 2 ^ 128 + 0x10000)
noncomputable def block5 : BitVec 512 := BitVec.ofNat 512 (2 ^ 319 + 0x16 * 2 ^ 256 + 32 * 2 ^ 192 + 32 * 2 ^ 160 + 2 ^ 128 + 0x20000 * 2 ^ 64 + 0x10000)
theorem witness_stack_converts : [whole5, tensor5, half5].all (fun d =>
      let s := elementOf (.sconv 1 9 10) [tensor5, d]
      match (eStackWrite 0 (stackHead s) inHbm (Tensor.ofEntry d) 0 0 1).run' s with
        | (w, .ok _) => leNat (w.bytes 0x10000 2) == 1
        | _ => false) = true ∧
    intFmtOf (Tensor.ofEntry whole5).format = some (true, 32) ∧ intFmtOf (Tensor.ofEntry half5).format = none ∧
    (Tensor.ofEntry tensor5).makesNan 0 0x3F800000 3 = false ∧ sxbOf (Tensor.ofEntry block5).format = some 8 ∧
    (let s := elementOf (.sconv 1 9 10) [tensor5, block5]
     let c := stackHead s
     match (seqE (((List.range 32).zipIdx.drop c.part).map fun y => do
        eStackWrite 0 c inHbm (Tensor.ofEntry block5) ((0 + y.2) / 32) ((0 + y.2) % 32) y.1
        modify fun s => s.setStack 0 { c with part := y.2 + 1 })).run' s with
      | (u, .ok ()) => (match (eStack (c.issuer 0) (c.serving 0) inHbm ((Tensor.ofEntry block5).scaleAddr 0 0) 1 .store c.seq).run' u with
        | (w, .ok pa) => pa == 0x20000 && w.byte 0x1001F == 31
        | _ => false)
      | _ => false) = true := by decide +kernel
theorem witness_stack_complete : (match ((snapped (.sscat 1 9 10) 2).core 0).sq with
    | [c] => c.snap.any (fun p => decide (p.length ≤ c.done)) && !((snapped (.sscat 1 9 10) 2).transfers.any (·.seq == c.seq)) && decide (c.extra = [c.extra.headD 0, 0, 0, 0])
    | _ => false) = true ∧ (∀ b ≥ 5, (0#2048).getLsbD b = false) := ⟨by decide +kernel, by simp⟩

/-! Witnesses: copy channels and streams. -/

/-- A thread that names a copy of 32 bytes from virtual 0x50000 to the end of its own local memory, a descriptor of it at 0x100, and a
record of an MZERO at 0x3FFE8. -/
noncomputable def copying : State :=
  mem (mem (put user [(9, 0x50000), (10, 0x200003FFE0), (11, 0x100), (12, 0x3FFE8), (13, 0x80000100000000), (14, 0x5)]) (window 0 + 0x100)
    (leBytes 32 (0x3FFE0 * 2 ^ 64 + 32 * 2 ^ 128 + 1 * 2 ^ 163 + 0x50000))) (window 0 + 0x3FFE8) (wordBytes (eJoin 22#5 ⟨3#6, 0#3, 0#5, 0#5, 0#4, 1#3⟩))
/-- Channels of its tile that hold some transfers. -/
noncomputable def channelled (s : State) (l : List Transfer) : State :=
  s.setTile 0 { s.tile 0 with chans := Vector.replicate 16 { transfers := l, lastEnd := 0x77 } }
/-- A local copy of 32 bytes of slot 0 of core 0, that many landed. -/
noncomputable def transferOf (done : Nat) : Transfer :=
  { copying.gatherTransfer 3 0x3FFE0 32 with ssp := 1, src := 0x200, written := done, started := true }
theorem witness_copy : copying.ready [9, 10] [] = true ∧ copying.speculative = false ∧ (0x200003FFE0#64).toNat / 2 ^ 32 ≤ 8388608 ∧
    (0x50000#64).toNat + wfield (0x200003FFE0#64) 63 32 ≤ 2 ^ 56 ∧ wfield (0x200003FFE0#64) 31 0 + wfield (0x200003FFE0#64) 63 32 ≤ 0x40000 ∧
    (copying.myTile.chan 15).room = true ∧ ((channelled copying (List.replicate 4 (transferOf 0))).myTile.chan 15).room = false ∧
    8388608 < wfield (0x80000100000000#64) 63 32 ∧ copying.myEntry = none ∧ copying.th.exl = false := by decide +kernel
theorem witness_cpya : copying.still ∧ slotOk copying.cur = true ∧ (copying.rd 11).toNat % 32 = 0 ∧ (copying.rd 11).toNat + 32 ≤ 0x40000 ∧
    (let d := CopyDesc.ofBits (BitVec.ofNat 256 (leNat (copying.loadBytes (copying.myWindow + (copying.rd 11).toNat) 32)))
     copying.copyLimits d = true ∧ d.push = false ∧ d.ssp = 0 ∧ d.dsp = 1 ∧ d.len = 32) :=
  ⟨⟨by decide +kernel, by decide +kernel, by decide +kernel, fun _ => rfl⟩, by decide +kernel, by decide +kernel, by decide +kernel, by decide +kernel⟩
theorem witness_cperm : (withTensor copying tensor5).resolved (wfield (copying.rd 14) 11 0) tensor5 ∧ ((withTensor copying tensor5).myTile.chan 1).room = true ∧
    wfield (copying.rd 14) 63 53 = 0 ∧ 8 ≤ (Tensor.ofEntry tensor5).w ∧ sxbOf (Tensor.ofEntry tensor5).format = none ∧
    (let rb := 0x800020003FFC0#64
     wfield rb 47 32 * wfield rb 63 48 * ((Tensor.ofEntry tensor5).w / 8) ≤ 8388608 ∧
     wfield rb 31 0 + wfield rb 47 32 * wfield rb 63 48 * ((Tensor.ofEntry tensor5).w / 8) ≤ 0x40000 ∧
     wfield (copying.rd 14) 31 12 + wfield rb 47 32 ≤ (Tensor.ofEntry tensor5).rows ∧ wfield (copying.rd 14) 51 32 + wfield rb 63 48 ≤ (Tensor.ofEntry tensor5).cols) :=
  ⟨⟨by decide +kernel, by decide +kernel, by decide +kernel, by decide +kernel⟩, by decide +kernel, by decide +kernel, by decide +kernel, by decide +kernel, by decide +kernel⟩
theorem witness_cpymx : copying.ready [11, 12] [] = true ∧ copying.th.flt 3#2 = false ∧ (copying.rd 12).toNat % 8 = 0 ∧ (copying.rd 12).toNat + 24 ≤ 0x40000 ∧
    (let r := copying.loadBytes (copying.myWindow + (copying.rd 12).toNat) 24
     leNat ((r.drop 4).take 4) = 0 ∧ followOn (BitVec.ofNat 32 (leNat (r.take 4))) = some (.mzero 1 0)) ∧
    matrixChecks (.mzero 1 0) 0 0 (copying.rd 11) copying = .ok ([], copying) :=
  ⟨by decide +kernel, by decide +kernel, by decide +kernel, by decide +kernel, by decide +kernel, rfl⟩
theorem witness_copy_control : ((channelled copying [transferOf 5]).myTile.chan 2).current = some (transferOf 5) ∧ (copying.myTile.chan 2).current = none ∧
    (channelled copying [transferOf 5]).th.posted = none ∧ (channelled copying [transferOf 5]).th.flt 1#2 = false ∧
    min (0x3FFE5 : Nat) ((transferOf 5).dst + (transferOf 5).len) ≤ (transferOf 5).dst + (transferOf 5).written ∧
    ((transferOf 5).seq < ({ copying with fresh := 4 } : State).fresh ∧ (transferOf 5).finishing = false ∧ (transferOf 5).stream = none ∧
      (transferOf 5).dst + (transferOf 5).written < 0x3FFE6 ∧ (transferOf 5).written < (transferOf 5).len) ∧ copying.rd 0 = 0#64 := by decide +kernel

/-- A pattern of 4 elements of 8 bytes at virtual 0x50000, 8 apart, stored at 0x100, and a ring of 256 bytes at the end of own local memory. -/
noncomputable def streamPat : BitVec 256 := BitVec.ofNat 256 (8 * 2 ^ 160 + 3 * 2 ^ 112 + 3 * 2 ^ 64 + 0x50000)
noncomputable def streamIn : State := mem (put user [(9, 0x100), (10, 0x1000003FF00)]) (window 0 + 0x100) (leBytes 32 streamPat.toNat)
theorem witness_stream_starts : streamIn.ready [9, 10] [] = true ∧ streamIn.speculative = false ∧ streamIn.still ∧ slotOk streamIn.cur = true ∧
    (let pat : BitVec 256 := BitVec.ofNat 256 (leNat (streamIn.loadBytes (streamIn.myWindow + (streamIn.rd 9).toNat) 32))
     wfield pat 111 67 = 0 ∧ wfield pat 63 0 % 2 ^ wfield pat 65 64 = 0 ∧ pat = streamPat) ∧ wfield (streamIn.rd 10) 31 0 % 64 = 0 ∧
    wfield (streamIn.rd 10) 63 32 = 2 ^ 8 ∧ wfield (streamIn.rd 10) 31 0 + wfield (streamIn.rd 10) 63 32 ≤ 0x40000 ∧ get8 streamIn.th.streams 3 = none ∧
    streamIn.coreStreams (coreOf streamIn.cur) = [] ∧ (streamIn.myTile.chan 15).room = true :=
  ⟨by decide +kernel, by decide +kernel, ⟨by decide +kernel, by decide +kernel, by decide +kernel, fun _ => rfl⟩, by decide +kernel, by decide +kernel, by decide +kernel, by decide +kernel,
    by decide +kernel, by decide +kernel, by decide +kernel, by decide +kernel⟩

theorem witness_transfer_start : ((channelled copying [{ transferOf 0 with started := false }]).joinHeld 0 3 (16 + 15)) = false ∧
    (channelled copying [{ transferOf 0 with started := false }]).storesBefore 0 3 = true ∧ (transferOf 0).ssp ≠ 5 := by decide +kernel
/-- The one transfer of the device, on channel 15, its last byte to land. -/
noncomputable def landing (t : Transfer) : State :=
  let s := mem copying (window 0 + 0x200) ((List.range 32).map fun i => BitVec.ofNat 8 (i + 1))
  s.setChan 0 15 { transfers := [t], lastEnd := 0x77 }
/-- Copied byte by byte, as its ranges overlap, and one of a single byte. -/
noncomputable def lastByte (bytewise : Bool) : Transfer := if bytewise then { transferOf 31 with bytewise := true } else { transferOf 0 with len := 1 }
theorem witness_line_return (b : Bool) : (landing (lastByte b)).channelHead 0 15 (lastByte b) ∧ (landing (lastByte b)).transfers = [lastByte b] ∧
    (landing (lastByte b)).poison = [] ∧ (landing (lastByte b)).entries = [] ∧ (∀ d, ((landing (lastByte b)).die d).takeover = []) ∧
    ((lastByte b).core < 4096 ∧ (lastByte b).core % 1024 < 576 ∧ (lastByte b).ssp = 1 ∧ (lastByte b).dsp = 1 ∧ (lastByte b).perm = none ∧
    (lastByte b).unacked = [] ∧ ((lastByte b).bytewise = true ∨ ((lastByte b).early = [] ∧ (lastByte b).chunk (lastByte b).written = (lastByte b).written)) ∧
    (lastByte b).len = (lastByte b).written + 1 ∧ (lastByte b).src + (lastByte b).len ≤ 0x40000 ∧ (lastByte b).dst + (lastByte b).len ≤ 0x40000) := by
  cases b <;> exact ⟨⟨by decide +kernel, rfl⟩, by decide +kernel, by decide +kernel, by decide +kernel, fun _ => rfl, by decide +kernel⟩
theorem witness_transfer_complete : (landing (transferOf 32)).channelHead 0 15 (transferOf 32) ∧ (transferOf 32).written = (transferOf 32).len ∧ (transferOf 32).push = false ∧
    (transferOf 32).follow = none ∧ (landing { transferOf 32 with push := true }).channelHead 0 15 { transferOf 32 with push := true } :=
  ⟨⟨by decide +kernel, rfl⟩, by decide +kernel, by decide +kernel, by decide +kernel, ⟨by decide +kernel, rfl⟩⟩
/-- A completed transfer with its handle or follow-on to place; queue 3 is one of core 0's. -/
noncomputable def finishing (push : Bool) (c : Option Command) : State :=
  { landing { transferOf 32 with finishing := true, push := push, qid := 3, follow := c } with
    queues := [(3, { asid := 0, cons := 0, prod := 0, words := [], transit := [], credits := 16, returning := 0, consBound := none, prodBound := none })] }
theorem witness_follow_ups : ((finishing true none).queue 3).any (·.canPush) = true ∧ (match (((finishing true none).tile 0).chan 15).transfers with
      | [t] => t.finishing && t.push && t.follow.isNone && t.qid == 3
      | _ => false) = true ∧ (user.command (.mzero 1 0) 9 0 0 []).slot = (transferOf 32).slot ∧ ((finishing false none).core 0).mq.length < 16 := by decide +kernel
/-- A remote write with a packet of 4 bytes on its way. -/
noncomputable def remote : State := landing { transferOf 7 with dsp := 5, ep := 9, unacked := [4, 21] }
theorem witness_remote : (match remote.performing 0 15 with
    | some t => t.unacked == [4, 21] && t.dsp == 5 && t.stream.isNone && t.follow.isNone
    | none => false) = true ∧ get4 (remote.thread 0).held 1#2 = none := by decide +kernel

/-- An active stream of r27's register on channel 15, its pages and its ring mapped. -/
noncomputable def streamingOf (output : Bool) (moved used : Nat) : State :=
  let x : Stream := { output := output, ch := 15, pat := streamPat, ring := 0x3FF00, size := 256, moved := moved, used := used }
  let s := mem (mem { mapped with fresh := 5 } (window 0 + 8 * moved) [0xA5]) (window 0 + 0x3FF00 + 8 * moved) [0x5A]
  let s : State := { s with th := ({ s.th with streams := set8 s.th.streams 3 (some x) } : Thread).pendUp 1 }
  s.setChan 0 15 { transfers := [{ s.gatherTransfer 3 0x3FF00 0 with ssp := 10, stream := some 3, started := true }], lastEnd := 0 }
/-- What the channel of a stream does for one element. -/
noncomputable def moveElement (s : State) (t : Transfer) (x : Stream) (input : Bool) : State × Except EStop Unit :=
  (seqE ((List.range x.esize).map fun i => do
    let b ← xRead t (s.chanSeqs 0 15) (if input then 0 else 1) (if input then x.address x.moved + i else x.ringAt x.moved + i)
    xWrite 0 15 t (s.chanSeqs 0 15) { lo := if input then x.ringAt x.moved else x.address x.moved, n := x.esize } (if input then 1 else 0)
      (if input then x.ringAt x.moved + i else x.address x.moved + i) b) : EAct Unit).run' s
theorem witness_streams : (match (streamingOf false 3 0).streaming 0 15 with
      | some (t, x, r) => r == 3 && !x.output && decide (x.moved < x.total) && decide (x.moved - x.used < x.capacity) && (match moveElement (streamingOf false 3 0) t x true with
        | (u, .ok _) => u.byte (window 0 + 0x3FF18) == 0xA5
        | _ => false)
      | none => false) = true ∧ ([2, 3].all fun n => match (streamingOf true n 4).streaming 0 15 with
      | some (t, x, r) => r == 3 && x.output && decide (x.moved < x.used) && x.total == 4 && (match moveElement (streamingOf true n 4) t x false with
        | (u, .ok _) => u.byte (window 0 + 8 * n) == 0x5A
        | _ => false)
      | none => false) = true := by decide +kernel

/-! Witnesses: coherence. -/

/-- The state after an event. -/
noncomputable def after (i : Instr) (s : State) : State :=
  match Sys2Proof.Machine.exec i s with
  | .next t => t
  | _ => s

/-- The directories of a line agree where tests of their entries hold. -/
theorem agreed_of {s : State} {line : Nat}
    (h1 : ∀ d < 4, ∀ k < 18, (mruFind (clusterKey line k) (s.die d).cdir).isSome = (mruFind line (s.die d).ddir).any fun x => x.clusters.getLsbD k)
    (h2 : ∀ d < 4, ∀ k < 18, ((mruFind (clusterKey line k) (s.die d).cdir).all fun e => e.cores != []) = true)
    (h3 : ∀ d < 4, lineDie line ≠ some d → (mruFind line (s.die d).ddir).isSome = true →
      ((mruFind line s.pdir).any fun p => if p.st = 2 then p.owner == d else p.dies.getLsbD d) = true)
    (h4 : ∀ d < 4, ((mruFind line s.pdir).all fun p => p.st != 2 || p.owner == d || (mruFind line (s.die d).ddir).isNone) = true)
    (h5 : ∀ d < 4, ∀ k < 18, ((mruFind (clusterKey line k) (s.die d).cdir).all fun e => !e.excl ||
      (decide (lineDie line = some d) || (mruFind line s.pdir).any fun p => p.st == 2 && p.owner == d) &&
      (List.range 4).all fun d' => ((List.range 18).all fun k' => (d', k') == (d, k) || (mruFind (clusterKey line k') (s.die d').cdir).isNone) &&
        (d' == d || (s.die d').rdc.all fun r => r.2.1 != line)) = true) : s.agreed line := by
  refine ⟨h1, fun d hd k hk e he => ?_, fun d hd hl hs => ?_, fun d hd o ⟨p, hp, h, ho⟩ hne => ?_, fun d hd k hk e he hx => ?_⟩
  · simpa [he] using h2 d hd k hk
  · have := h3 d hd hl hs
    cases hp : mruFind line s.pdir with
    | none => simp [hp] at this
    | some p =>
      simp only [hp, Option.any_some] at this
      by_cases hq : p.st = 2
      · exact .inl ⟨p, rfl, hq, by simpa [hq] using this⟩
      · exact .inr ⟨p, rfl, hq, by simpa [hq] using this⟩
  · have := h4 d hd
    simp only [hp, Option.all_some, h, ho] at this
    simpa [hne.symm] using this
  · have := h5 d hd k hk
    simp only [he, hx, Option.all_some, Bool.not_true, Bool.false_or, Bool.and_eq_true, Bool.or_eq_true, decide_eq_true_eq, List.all_eq_true, List.mem_range, beq_iff_eq,
      Option.isNone_iff_eq_none, bne_iff_ne] at this
    refine ⟨this.1.imp id fun h => ?_, fun d' h' => ⟨fun k' hk' hne => (((this.2 d' h').1 k' hk').resolve_left hne), fun hne => ((this.2 d' h').2).resolve_left hne⟩⟩
    cases hp : mruFind line s.pdir with
    | none => simp [hp] at h
    | some p => exact ⟨p, rfl, by simpa [hp] using h⟩
/-- A miss of line 5, on its way to the directories or not. -/
def missOf (want : Want) (sent : Bool) (granted : Option LineState) : Miss :=
  { line := 5, want := want, instr := false, sent := sent, granted := granted, noInstall := false, nt := false, loads := [], mask := 1, by_ := .nonSpec }
/-- Cores 0 and 1 of die 0 share line 5, modified in core 1 or in S in both; core 0 is to ask for it. -/
noncomputable def sharing (want : Want) (modified : Bool) : State :=
  { user with
    cores := [(0, { Core.reset with misses := [missOf want false none], l1d := if modified then [] else [(5, .s), (6, .e)] }),
              (1, { Core.reset with l1d := [(5, if modified then .m else .s), (7, .m)], l1i := [5, 8] })]
    dies := [(0, { Die.reset with ddir := [(5, { excl := modified, clusters := 1 })]
                                  cdir := [(clusterKey 5 0, { excl := modified, coarse := false, ptrs := if modified then [1] else [0, 1], tiles := 0 })] })] }
/-- Core 0's request as a state asks for it. -/
def asks : Want → Instr
  | .gets => .gets 0 5
  | .getm => .getm 0 5
  | .upg => .upg 0 5
/-- Core 0's request is being served, and core 2 of its cluster is to ask too. -/
noncomputable def behindIt : State := (after (.upg 0 5) (sharing .upg false)).modCoreAt 2 fun x => { x with misses := [missOf .gets false none] }
/-- Line 5 is still in core 0's writeback buffer. -/
noncomputable def buffered : State := (sharing .gets true).modCoreAt 0 fun x => { x with wbuf := [(5, .m, false)] }
theorem witness_requests : [(Want.upg, false), (.getm, true), (.gets, true)].all (fun x => ((sharing x.1 x.2).core 0).findMiss 5 (fun m => !m.sent && m.want == x.1) ==
      some (missOf x.1 false none) && ((sharing x.1 x.2).core 0).wbuf.isEmpty && !(sharing x.1 x.2).busy 5) = true ∧
    (sharing .upg false).agreed 5 ∧ (sharing .getm true).agreed 5 ∧ (sharing .gets true).agreed 5 ∧
    (sharing .upg false).holders 5 = [0, 1] ∧ (sharing .getm true).holders 5 = [1] ∧ (sharing .gets true).owners 5 = [1] ∧
    behindIt.txns.any (fun t => t.line == 5 && t.occupies (2 / 32)) = true ∧ (behindIt.core 2).wbuf = [] ∧ behindIt.settled 5 ∧
    (buffered.core 0).findMiss 5 (fun m => !m.sent && m.want == .gets) ≠ none ∧ (5, LineState.m, false) ∈ (buffered.core 0).wbuf :=
  ⟨by decide +kernel, agreed_of (by decide +kernel) (by decide +kernel) (by decide +kernel) (by decide +kernel) (by decide +kernel),
    agreed_of (by decide +kernel) (by decide +kernel) (by decide +kernel) (by decide +kernel) (by decide +kernel),
    agreed_of (by decide +kernel) (by decide +kernel) (by decide +kernel) (by decide +kernel) (by decide +kernel), by decide +kernel, by decide +kernel,
    by decide +kernel, by decide +kernel, by decide +kernel, by unfold State.settled; decide +kernel, by decide +kernel, by decide +kernel⟩
/-- An INV or a FWD of line 5 to core 1 is on its way, where a fill of the line is on its way to core 1 or not. -/
noncomputable def messaged (fwd late : Bool) : State :=
  after (if fwd then .gets 0 5 else .getm 0 5) ((sharing (if fwd then .gets else .getm) true).modCoreAt 1 fun x =>
    { x with misses := if late then [missOf .getm true (some .m)] else [] })
/-- The same, and a task on core 1 has written the line. -/
noncomputable def messagedTask (fwd : Bool) : State :=
  let x : CommitEntry := { task := job true, slot := 9, stage := .running, sigR := 0, sigW := sigAdd 0 10, crumbs := [], irrevocable := false, held := none
                           children := [], discard := false, requeueTile := none, reads := [] }
  { messaged fwd false with tiles := [(0, { Tile.reset with commit := [(3, x)] })] }
/-- The transaction to whose message core 1 is to answer. -/
noncomputable def told (s : State) (fwd : Bool) : Option Txn := s.findTxn 5 fun t => t.out.any fun m => m.core == 1 && m.fwd == fwd
theorem witness_messages : [false, true].all (fun f => (told (messaged f false) f).any (fun t => ((messaged f false).messageHits t 1 f).isEmpty &&
      !t.out.contains { core := 1, fwd := f, late := true }) && !(messaged f false).lateBit 1 5 &&
      (told (messagedTask f) f).any (fun t => (messagedTask f).messageHits t 1 f == [(0, 3)])) = true ∧
    (told (messaged false true) false).any (fun t => t.out.contains { core := 1, fwd := false, late := true }) = true ∧
    (told (messaged true true) true).isSome = true ∧ (messaged true true).lateBit 1 5 = true := by decide +kernel
/-- Cores 0, a and b share line 5; core 0 wants to write it, and a has answered, with data or without. -/
noncomputable def counting (a b : Nat) (data : Bool) : State :=
  let entry (l : List Nat) : ClusterEntry := { excl := false, coarse := false, ptrs := l.map (· % 32), tiles := 0 }
  let of_ (k : Nat) : List Nat := [0, a, b].filter fun c => c / 32 == k
  let s : State := { user with
    cores := [(0, { Core.reset with misses := [missOf .upg false none], l1d := [(5, .s)] }), (a, { Core.reset with l1d := [(5, if data then .m else .s)] })]
    dies := [(0, { Die.reset with ddir := [(5, { excl := false, clusters := BitVec.ofNat 18 (([0, a, b].map fun c => 2 ^ (c / 32)).eraseDups.sum) })]
                                  cdir := ((List.range 18).filter fun k => of_ k != []).map fun k => (clusterKey 5 k, entry (of_ k)) })] }
  after (.inv a 5) (after (.upg 0 5) s)
/-- The transaction's counts at a core's cluster and at its die. -/
noncomputable def counts (s : State) (c : Nat) : Option (Nat × Nat) :=
  match s.txns with
  | [t] => some (assocGet 0 (c / 32) t.counts, assocGet 0 128 t.counts)
  | _ => none
theorem witness_answers : [(1, 2), (1, 32), (32, 64)].all (fun x => [false, true].all fun d => (counting x.1 x.2 d).txns.all (fun t => t.line == 5 && t.started &&
      t.asked.isEmpty && !t.out.isEmpty && t.answers.contains (x.1, d))) = true ∧
    counts (counting 1 2 false) 1 = some (2, 0) ∧ (counts (counting 1 32 false) 1).any (·.1 == 1) = true ∧ (counting 1 32 false).txns.all (·.held.contains 0) = true ∧
    counts (counting 32 64 false) 32 = some (1, 2) ∧ (counting 32 64 false).txns.all (fun t => !t.held.contains 1 && !t.kind.reads) = true := by decide +kernel
/-- Core 0's transaction of line 5 has all that it needs: nobody else holds the line, or core 1 in S, or core 1 has given it up. -/
noncomputable def granting (n : Nat) : State :=
  if n = 0 then after (.gets 0 5) { user with cores := [(0, { Core.reset with misses := [missOf .gets false none] })] }
  else if n = 1 then after (.gets 0 5) ((sharing .gets false).modCoreAt 0 fun x => { x with l1d := [] })
  else after (.dack 1 5) (after (.inv 1 5) (after (.getm 0 5) (sharing .getm true)))
/-- Cluster 0's directory set of line 5 is full with other lines, busy or not. -/
noncomputable def crammed (busy : Bool) : State :=
  let l := (List.range 12).map fun i => 5 + 2048 * (i + 1)
  let s := granting 0
  { s with
    txns := s.txns ++ if busy then s.txns.flatMap fun t => l.map fun k => { t with line := k } else []
    dies := [(0, { Die.reset with cdir := l.map fun k => (clusterKey k 0, { excl := true, coarse := false, ptrs := [2], tiles := 0 }) })] }
theorem witness_grants : (List.range 3).all (fun n => ((granting n).findTxn 5 (·.grants 0)).any (fun t => (granting n).txns.filter (fun y => y.line == 5) == [t] &&
      t.kind == .request 0 (if n = 2 then .getm else .gets) false) && ((granting n).roomFor 0 5).all (fun r => r == .free) &&
      ((granting n).core 0).misses.any fun m => m.line == 5 && m.sent && m.granted.isNone && !m.instr) = true ∧
    (granting 0).alone 0 5 ∧ ¬(granting 1).alone 0 5 ∧
    ((crammed false).roomFor 0 5).find? (fun r => r != .free) = some (.evict (5 + 2048 * 12) (.cluster 0 0)) ∧
    ((crammed true).roomFor 0 5).find? (fun r => r != .free) = some .full ∧
    [false, true].all (fun b => ((crammed b).findTxn 5 (·.grants 0)).any fun t => t.kind == .request 0 .gets false) = true :=
  ⟨by decide +kernel, by unfold State.alone; decide +kernel, by unfold State.alone; decide +kernel, by decide +kernel, by decide +kernel, by decide +kernel⟩
/-- Core 0's miss of line 5 with its grant on its way, a load of slot 0 merged into it; its writeback buffer holds line 9. -/
noncomputable def filling (instr noInstall coarse : Bool) (st : LineState) : State :=
  { user with
    th := { user.th with wait := some .memoryReply }
    cores := [(0, { Core.reset with misses := [{ line := 5, want := .gets, instr := instr, sent := true, granted := some .e, noInstall := noInstall, nt := false, loads := [0], mask := 1, by_ := .nonSpec }], wbuf := [(9, st, false)] })]
    homeReqs := [{ who := .slot 0, line := 5, write := true, mask := 1, by_ := .nonSpec }]
    dies := [(0, { Die.reset with ddir := [(9, { excl := false, clusters := 1 })], cdir := [(clusterKey 9 0, { excl := false, coarse := coarse, ptrs := if coarse then [] else [0, 3], tiles := if coarse then 1 else 0 })] })] }
theorem witness_fills : [(false, false), (false, true), (true, false)].all (fun x => ((filling x.1 x.2 true .m).core 0).misses.any fun m =>
      m.line == 5 && m.granted == some .e && m.noInstall == x.2 && m.instr == x.1 && m.loads == [0]) = true ∧
    (filling false false true .m).th.wait = some .memoryReply ∧ (filling false false true .m).th.park = none ∧
    (9, LineState.m, false) ∈ ((filling false false true .m).core 0).wbuf ∧ (9, LineState.e, false) ∈ ((filling false false false .e).core 0).wbuf ∧
    (filling false false true .m).busy 9 = false ∧ (mruFind (clusterKey 9 0) ((filling false false true .m).die 0).cdir).any (·.coarse) = true ∧
    (mruFind (clusterKey 9 0) ((filling false false false .m).die 0).cdir).any (fun e => !e.coarse) = true := by decide +kernel
/-- Cores hold line 5, and an access of it is on its way to its home. -/
noncomputable def homing (write modified : Bool) : State :=
  { sharing .gets modified with homeReqs := [{ who := .slot 9, line := 5, write := write, mask := 1, by_ := .nonSpec }] }
theorem witness_homes : [true, false].all (fun w => [true, false].all fun m => !(homing w m).busy 5 &&
      (homing w m).homeReqs.findIdx? (fun r => r.line == 5 && r.write == w) == some 0 && (homing w m).homeReqs.length == 1) = true ∧ coherent (128 * 5) = true ∧
    (homing true false).agreed 5 ∧ (homing false true).agreed 5 ∧ (homing true false).holders 5 = [0, 1] ∧ (homing false true).owners 5 = [1] ∧
    (filling false false true .m).homeReqs.findIdx? (fun r => r.line == 5 && r.write == true) = some 0 ∧ (filling false false true .m).agreed 5 :=
  ⟨by decide +kernel, by decide +kernel, agreed_of (by decide +kernel) (by decide +kernel) (by decide +kernel) (by decide +kernel) (by decide +kernel),
    agreed_of (by decide +kernel) (by decide +kernel) (by decide +kernel) (by decide +kernel) (by decide +kernel), by decide +kernel, by decide +kernel,
    by decide +kernel, agreed_of (by decide +kernel) (by decide +kernel) (by decide +kernel) (by decide +kernel) (by decide +kernel)⟩
/-- Line 0x2000000001 of a CXL port in S at cores 0 and 1. -/
noncomputable def cxlShared : State :=
  { user with pdir := [(0x2000000001, { st := 1, owner := 0, dies := 1 })]
              dies := [(0, { Die.reset with ddir := [(0x2000000001, { excl := false, clusters := 1 })], cdir := [(clusterKey 0x2000000001 0, { excl := false, coarse := false, ptrs := [0, 1], tiles := 0 })] })] }
/-- A snoop of that line has had every answer but core 1's, which is not counted. -/
noncomputable def snooped : State := after (.inv 1 0x2000000001) (after (.ack 0 0x2000000001) (after (.inv 0 0x2000000001) (after (.bisnp 0x2000000001) cxlShared)))
theorem witness_bisnp : (cxlPort (128 * 0x2000000001)).isSome = true ∧ user.phase = .run ∧ user.busy 0x2000000001 = false ∧ user.holders 0x2000000001 = [] ∧
    user.agreed 0x2000000001 ∧ cxlShared.agreed 0x2000000001 ∧ cxlShared.busy 0x2000000001 = false ∧ cxlShared.holders 0x2000000001 = [0, 1] ∧
    (after (.bisnp 0x2000000001) cxlShared).txns.any (fun t => t.line == 0x2000000001 && t.occupies 132) = true ∧ (after (.bisnp 0x2000000001) cxlShared).settled 0x2000000001 ∧
    (match snooped.txns with
      | [t] => t.line == 0x2000000001 && t.kind == .snoop && t.started && t.asked.isEmpty && t.out.isEmpty && t.answers == [(1, false)]
      | _ => false) = true ∧ State.reset.phase ≠ .run :=
  ⟨by decide +kernel, by decide +kernel, by decide +kernel, by decide +kernel,
    agreed_of (by decide +kernel) (by decide +kernel) (by decide +kernel) (by decide +kernel) (by decide +kernel),
    agreed_of (by decide +kernel) (by decide +kernel) (by decide +kernel) (by decide +kernel) (by decide +kernel), by decide +kernel, by decide +kernel,
    by decide +kernel, by unfold State.settled; decide +kernel, by decide +kernel, by decide +kernel⟩
/-- R136, R143: the last acknowledgement of a snoop frees the line, and the snoop is answered. -/
theorem test_snoop_ends : (match Sys2Proof.Machine.exec (.ack 1 0x2000000001) snooped with
    | .next t => t.txns.isEmpty && (t.holders 0x2000000001).isEmpty && t.sent == [.birsp 0x2000000001 false]
    | _ => false) = true := by decide +kernel

/-! Witnesses: memory, firmware and hardware. -/

theorem witness_memory : Memory.wf adding = true ∧ (match step adding with
    | .next _ => true
    | _ => false) = true := by decide +kernel
/-- A device in a phase. -/
noncomputable def phased (p : Phase) (warm : Bool) : State := { user with phase := p, warm := warm, boot := some { version := 3, rdcGiB := 8, powerCap := 2000, portMask := 1, ownerKey := 7, sigR := 0, sigS := 0 }, rollback := 3 }
theorem witness_bring_up : (phased .romchk false).phase = .romchk ∧ (phased .train false).phase = .train ∧ (phased .config true).phase = .config ∧ (phased .config true).warm = true ∧
    (phased .config true).rollback ≤ 3 ∧ (32 : Nat) ∈ [0, 8, 16, 24, 32] ∧ (phased .config true).ownerKey = none ∧ 2 < (phased .config true).rollback ∧
    (phased .init false).warm = false ∧ (phased .init true).phase = .init ∧ (phased .config true).boot.isSome = true := by decide +kernel
/-- Cluster 17 of die 3 has failed its self-test. -/
noncomputable def failing : State := { phased .train false with dies := [(3, { Die.reset with failedTest := [17] })] }
theorem witness_self_test : (List.range 4).all (fun e => (failing.die e).failedTest == if e == 3 then [17] else []) = true ∧ failing.phase = .train ∧
    0 < (failing.die 3).spares ∧ (List.range 4).all (fun e => ((phased .train false).die e).failedTest.isEmpty) = true := by decide +kernel
theorem witness_training : (∀ l : BitVec 2, (get4 (phased .train false).links l).state = .train) ∧
    (∀ l : BitVec 2, (get4 (({ phased .train false with links := set4 (phased .train false).links 0 { state := .down, errors := 0 } } : State)).links l).state = if l = 0#2 then .down else .train) ∧
    0 < ((phased .train false).die 3).spares := by decide +kernel
/-- A command frame of host port 1, well-formed or with a length of its own and a nonzero reserved byte. -/
def header (len reserved : Nat) : CmdHeader := { port := 1, psn := 4, seq := 9, len := len, received := 8, reserved := reserved }
/-- An earlier frame of its queue pair still waits. -/
noncomputable def waitingFrame : State := { user with fresh := 9, commands := [{ num := 3, header := { header 8 0 with psn := 3 }, cmd := .eret 0 }] }
theorem witness_frames : [user, phased .config false, phased .romchk false].all (fun s => !s.commandWaits (header 8 0)) = true ∧ user.hears (header 8 0) ∧
    waitingFrame.commandWaits (header 8 0) = true ∧ (header 7 0).len ≠ (header 7 0).received ∧ (header 8 1).reserved ≠ 0 ∧
    commandHeader (.identity (header 8 0)) = some (header 8 0) :=
  ⟨by decide +kernel, ⟨by decide, rfl, rfl, by decide +kernel⟩, by decide +kernel, by decide, by decide, rfl⟩
/-- R402: a frame whose LEN is not what was received is answered with BADARG. -/
theorem test_frame_length : (match Sys2Proof.Machine.exec (.linkstat (header 7 0)) user with
    | .next t => (match t.sent with
      | [.answer 0x31 h 2 _ []] => h.seq == 9
      | _ => false)
    | _ => false) = true := by decide +kernel
/-- HBM line 5 is modified in a cache: what its home still holds. -/
noncomputable def unwritten : State := { mem user 640 [9] with behind := [(5, List.replicate 128 4)] }
theorem witness_resets : unwritten.phase ≠ .off ∧ unwritten.phase ≠ .failed ∧ unwritten.resetting = false ∧ (phased .init true).resetting = true ∧ inHbm (128 * 5) = true ∧
    unwritten.behind.all (fun b => decide (639 < 128 * b.1) || decide (128 * b.1 + b.2.length ≤ 639)) = true ∧ (List.replicate 128 (4 : Byte)).length = 128 := by decide +kernel
/-- A running device with launch queue 4, region 8 and nothing else. -/
noncomputable def serving (n : Nat) : State :=
  let q : LQueue := { asid := 0, ptbase := 0, ttbase := 0, mode := 0, weight := 1, maxPrio := 1, first := 0, nt := 1, pending := none, launches := List.replicate n 0, record := none }
  { user with lqueues := [(4, q)], regions := [(8, { asid := 0, base := 0x50000, len := 16, r := true, w := false })], fwlog := [(3, 5, 0x40)] }
theorem witness_commands : (serving 0).phase = .run ∧ lowestFree 4096 ((serving 0).lqueues.map (·.1)) = some 0 ∧ ((serving 0).lqueue 4).isSome = true ∧ (serving 0).queueHolds 4 = false ∧
    (launching (launchOf desc0)).queueHolds 4 = true ∧ (((serving 16).lqueue 4).any fun x => ((serving 16).launchCheck 4 x desc0).isNone && x.launches.length == 16) = true ∧
    (serving 0).lqueue 5 = none ∧ (List.range 4).all (fun d => ((serving 0).die d).errlog.isEmpty) = true ∧ (serving 0).losses = [] ∧ (serving 0).fwlog.length ≤ 1 ∧ user.regions = [] ∧
    (serving 0).tileInUse (tileKey 0) = true := by decide +kernel
theorem witness_command_phases : (phased .init false).phase ∈ [Phase.romchk, .train, .config, .init] ∧ (∀ d, (user.die d).spareMap = []) := ⟨by decide +kernel, fun _ => rfl⟩
/-- A running device whose links have come up. -/
noncomputable def linked : State := { user with links := Vector.replicate 4 { state := .up, errors := 0 } }
theorem witness_hardware : inLm lmBase = true ∧ (user.die 0).errlog.length < 64 ∧ (linked.link 3).state = .up ∧ (List.range 4).all (fun k => k == 3 || (linked.link k).state != .down) = true ∧ (1000 : Nat) ≤ user.powerCap := by
  decide +kernel
/-- Cluster 0 of die 0 is being taken over; tile 1 is to be gated, in use or not. -/
noncomputable def gatingOne (inUse : Bool) : State :=
  { user with dies := [(0, { Die.reset with takeover := [0] })], tiles := [(1, { Tile.reset with gating := true, l2 := [(9, true)] })]
              threads := if inUse then [(64, { Thread.reset with kind := .persistent })] else [] }
theorem witness_gating : (0 : Nat) ∈ ((gatingOne false).die 0).takeover ∧ ((gatingOne false).die 0).errlog.length < 64 ∧ (1 : Nat) ∈ clusterTiles 0 0 ∧
    (clusterTiles 0 0).all (fun x => x == 1 || !((gatingOne false).tile x).gating) = true ∧ ((gatingOne false).tile 1).gating = true ∧ (gatingOne false).tileInUse 1 = false ∧
    (gatingOne true).tileInUse 1 = true := by decide +kernel
/-- Region 8 with its page, in HBM, mapped by a TLB of core 0 and a launch queue of its ASID. -/
noncomputable def inbound (w : Bool) : State :=
  let s := serving 0
  { s with cores := [(0, { Core.reset with dtlb := [{ asid := 0, level := 0, vpn := 5, leaf := 0x500D7, leafPa := 0 }] })], lqueues := s.lqueues.map fun q => (q.1, { q.2 with ptbase := 0x2001 }), regions := [(8, { asid := 0, base := 0x50000, len := 16, r := true, w := w })] }
/-- A packet of scale-out port 2 waits; another of the same queue pair has arrived after it. -/
noncomputable def queuedPacket : State :=
  { inbound true with fresh := 5, inbound := [{ num := 4, via := { port := .scaleOut 2, qp := 5, psn := 1 }, key := 8, va := 0x50000, data := some [1], len := 0 }] }
theorem witness_packet_waits : queuedPacket.inbound.any (fun x => x.via.port == .scaleOut 2 && x.via.qp == 5 && decide (x.num < queuedPacket.fresh)) = true ∧
    queuedPacket.inbound.all (fun y => y.via != { port := .scaleOut 2, qp := 5, psn := 2 } && y.num != queuedPacket.fresh) = true := by decide +kernel
theorem witness_packets : (inbound true).inbound = [] ∧ assocFind 9 (inbound true).regions = none ∧ (assocFind 8 (inbound true).regions).any (fun r => decide (0x4FFFF < r.base) && decide (r.base + r.len < 0x50001 + 16)) = true ∧
    (assocFind 8 (inbound true).regions).any (fun r =>
      (match (inboundEffect r { num := 0, via := { port := .scaleOut 2, qp := 5, psn := 1 }, key := 8, va := 0x5000E, data := some [7, 8], len := 0 }).run' (inbound true) with
        | (u, .ok []) => u.inbound.isEmpty && u.bytes 0x5000E 2 == [7, 8]
        | _ => false) &&
      (match (inboundEffect r { num := 0, via := { port := .scaleOut 2, qp := 5, psn := 1 }, key := 8, va := 0x5000E, data := none, len := 2 }).run' (inbound true) with
        | (u, .ok bs) => u.inbound.isEmpty && bs == [0, 0]
        | _ => false)) = true := by decide +kernel

/-- A data TLB that maps virtual page 5 to page 5 of HBM with R, W, U, A and D, cacheable or not, the line of 0x50100 held by core 0's L1. -/
noncomputable def leafFar (c : Bool) : TlbEntry := { asid := 0, level := 0, vpn := 5, leaf := if c then 0x501D7 else 0x500D7, leafPa := 0 }
noncomputable def farMapped (c : Bool) (st : Option LineState) : State :=
  { mapped with cores := [(0, { Core.reset with dtlb := [leafFar c], l1d := (st.map fun x => (0x50100 / 128, x)).toList })] }
theorem witness_stores_any_mode : (storeRule edges (.std 12 9 0 1 0)).any (fun x => x.1 == [12] && x.2.2.1 == 0 && x.2.2.2.2.2.1 == 8) = true ∧
    [(mapped, 0, 0x50100), (farMapped true none, 0, 0x50100), (user, 1, 8), (user, 2, 0x40008), (super, 3, 0x10000000008)].all (fun x =>
      x.1.modeOk x.2.1 && x.1.ready [9, 12] [] && (match locate x.2.2 x.2.1 8 .store x.1 with
        | .ok (_, u) => u.myCore.vq.isEmpty && decide (u.th.sb.length < 8)
        | .error _ => false)) = true ∧
    (match locate 0x101 1 1 .store merging with
      | .ok (l, u) => u.th.mergePlace l.pa 1 == some 0 && u.myCore.vq.isEmpty
      | .error _ => false) = true := by decide +kernel
/-- A store to HBM waits: of a cacheable page or not, while core 0's L1 holds its line or not. -/
noncomputable def storingFar (c : Bool) (st : Option LineState) (kind : StoreKind) : State :=
  let e : StoreEntry := { pa := 0x50100, bytes := leBytes 8 7, kind := kind, cacheable := c, asid := 0, va := 0x50100, pc := 0, epoch := 0, seq := 1 }
  { farMapped c st with fresh := 3, th := { (farMapped c st).th with sb := [e] } }
theorem witness_drain_far : [(true, some LineState.e), (true, some .m), (true, some .s), (true, none), (false, none)].all (fun x =>
    let s := storingFar x.1 x.2 .plain
    (s.thread 0).mayDrain 0 && (s.conflicts (s.requesterOf 0) (some (coreOf 0)) 0x50100 8 true).isEmpty && !s.stopped 0x50100 && !s.poisonNarrow 0x50100 8 &&
      inHbm 0x50100 && lineOf (0x50100 + 7) == lineOf 0x50100 && mruFind (lineOf 0x50100) (s.core (coreOf 0)).l1d == x.2 && !s.busy (lineOf 0x50100) &&
      s.homeReqs.isEmpty && (s.holders (lineOf 0x50100)).isEmpty && (s.thread 0).sb.any (fun e => e.cacheable == x.1 && e.kind != .nonTemporal)) = true := by
  decide +kernel
/-- R134, R286: a store that drains into a line in E leaves it in M. -/
theorem test_drain_dirties : (match Sys2Proof.Machine.exec (.storeBufferDrain 0 0) (storingFar true (some .e) .plain) with
    | .next t => t.th.sb.isEmpty && t.word 0x50100 == 7#64 && mruFind (lineOf 0x50100) (t.core 0).l1d == some .m
    | _ => false) = true := by decide +kernel

theorem witness_access_rule : accessRule user (.ldd 8 9 1 0 0) = some ([9], [8], 1, 8, .load, user.address 9 0 8) ∧
    accessRule user (.stq 4 9 0 0 0) = some ([9, 8, 9], [], 0, 16, .store, user.address 9 0 16) ∧ user.ready [9, 8] [] = true ∧ user.ready [9] [8] = true ∧
    user.modeOk 0 = true ∧ super.modeOk 3 = true :=
  ⟨rfl, rfl, by decide +kernel, by decide +kernel, by decide +kernel, by decide +kernel⟩
/-- A thread with EN of PTBASE set and a failed walk of page 5, or a TLB that maps the page to an address outside the map. -/
noncomputable def walkFailed : State := { mapped with th := { mapped.th with walkFail := [(5, { code := 64 + 4, tval := 1, violation := false })] } }
noncomputable def leafAway : TlbEntry := { leafOwn with leaf := 0xF0000000000D7 }
noncomputable def awayMapped : State := { mapped with cores := [(0, { Core.reset with dtlb := [leafAway] })] }
theorem witness_access_traps : (put user [(9, 1)]).address 9 0 8 = 1#64 ∧ ((put user [(9, 0x40000)]).address 9 0 8).toNat % 8 = 0 ∧
    0x40000 ≤ ((put user [(9, 0x40000)]).address 9 0 8).toNat ∧ 0x800000 ≤ ((put user [(9, 0x800000)]).address 9 0 8).toNat ∧
    ((put user [(9, 0x7FFFF0)]).address 9 0 16).toNat < 0x800000 ∧ 2 ^ 52 ≤ ((put super [(9, 2 ^ 52)]).address 9 0 8).toNat ∧
    super.mapped ((put super [(9, 2 ^ 51)]).address 9 0 8).toNat = false ∧ 2 ^ 56 ≤ ((put user [(9, 2 ^ 56)]).address 9 0 8).toNat ∧ user.th.ptbase.getLsbD 0 = false ∧
    (walkFailed.address 9 0 8).toNat / 65536 = 5 ∧ walkFailed.th.ptbase.getLsbD 0 = true ∧ walkFailed.ready [9] [8] = true ∧
    awayMapped.th.walkFail = [] ∧ awayMapped.tlbLookup (coreOf 0) .load 0 (awayMapped.address 9 0 8).toNat = some leafAway ∧ leafPermits leafAway.leaf 0 .store = true ∧
    awayMapped.mapped (leafAway.pa (awayMapped.address 9 0 8).toNat) = false := by decide +kernel
/-- A TLB that maps page 5 for reading in S mode only; core 1, of the same ASID, keeps its local memory to itself. -/
noncomputable def guarded : State :=
  { put super [(9, 0x10000040008), (10, 0x50100)] with cores := [(0, { Core.reset with dtlb := [{ leafOwn with leaf := 0x10000000043 }] }), (1, { Core.reset with permr := 1, permw := 1 })] }
theorem witness_access_violations : leafPermits 0x10000000043 0 .load = false ∧ (put user [(9, 0x50100)]).myEntry = none ∧
    ({ guarded with th := { guarded.th with thstat := 8, ptbase := 1 } } : State).tlbLookup (coreOf 0) .load 0 0x50100 = some { leafOwn with leaf := 0x10000000043 } ∧
    inRom romBase = true ∧ super.th.mode ≠ 3#2 ∧ guarded.modeOk 3 = true ∧ guarded.ready [9] [8] = true ∧ inLm (guarded.address 9 0 8).toNat = true ∧
    (guarded.address 9 0 8).toNat % 8 = 0 ∧ guarded.permFails (guarded.address 9 0 8).toNat false ∧ guarded.permFails (guarded.address 9 0 8).toNat true :=
  ⟨by decide +kernel, by decide +kernel, by decide +kernel, by decide +kernel, by decide +kernel, by decide +kernel, by decide +kernel, by decide +kernel,
    by decide +kernel, ⟨by decide +kernel, by decide +kernel, .inl (by decide +kernel)⟩, ⟨by decide +kernel, by decide +kernel, .inl (by decide +kernel)⟩⟩

theorem hbmLeaf_far (c : Bool) (st : Option LineState) (hs : st = none ∨ st = some .e) : (farMapped c st).hbmLeaf 0x50100 8 (leafFar c) := by
  rcases hs with rfl | rfl <;> cases c <;>
  exact ⟨by decide +kernel, by decide +kernel, by decide, by decide, by decide +kernel, rfl, by decide +kernel, by decide +kernel, by decide +kernel, by decide +kernel,
    by decide +kernel, by decide +kernel, by decide +kernel, by decide +kernel, by decide +kernel, by decide +kernel, by decide +kernel⟩
theorem witness_far_atomics : (farMapped true (some .e)).hbmLeaf ((farMapped true (some .e)).rd 9) 8 (leafFar true) ∧
    (farMapped false none).hbmLeaf ((farMapped false none).rd 9) 8 (leafFar false) ∧
    [true, false].all (fun c => let s := farMapped c (if c then some .e else none)
      (atomicRule s (.aadd 8 9 10 0 6)).isSome && s.ready [9, 10] [8] && s.th.sb.isEmpty && !s.unlanded ((leafFar c).pa (s.rd 9).toNat) 8 0 &&
      (leafFar c).cacheable == c && mruFind (lineOf 0x50100) (s.core 0).l1d == if c then some .e else none) = true :=
  ⟨hbmLeaf_far true _ (.inr rfl), hbmLeaf_far false _ (.inl rfl), by decide +kernel⟩
/-- An AADD of 8 bytes on its way to core 1's local memory. -/
noncomputable def atomicAway : State :=
  { user with
    th := { user.th with outstanding := some { req := .atomic .add 8 8 1 0 0x10000040008 none, srcs := [9, 10], ga := 0, qd := 0 }, wait := some .memoryReply }
    homeReqs := [{ who := .slot 0, line := 0x10000040008 / 128, write := true, mask := 1, by_ := .nonSpec }] }
theorem witness_home_atomic : (∃ o, atomicAway.th.outstanding = some o ∧ o.req = .atomic .add 8 8 1 0 0x10000040008 none) ∧ atomicAway.th.park = none ∧
    atomicAway.homeReqs.length = 1 ∧ inLm 0x10000040008 = true ∧ inLm (128 * lineOf 0x10000040008) = true ∧ inLm (0x10000040008 + 7) = true ∧
    atomicAway.stopped 0x10000040008 = false ∧ atomicAway.unlanded 0x10000040008 8 0 = false ∧ atomicAway.poisoned 0x10000040008 8 = false ∧
    (∀ w, atomicAway.conflicts (atomicAway.requesterOf 0) (some (coreOf 0)) 0x10000040008 8 w = []) ∧ Memory.wf atomicAway = true :=
  ⟨⟨_, rfl, rfl⟩, by decide +kernel, by decide +kernel, by decide +kernel, by decide +kernel, by decide +kernel, by decide +kernel, by decide +kernel,
    by decide +kernel, by decide +kernel, by decide +kernel⟩

/-- One third, whose significand no binary format holds, and the number above the largest of F32. -/
theorem witness_rounding : ffmtOf 10 = some f32 ∧ [0, 1, 2, 3, 4].all (fun rm => !(roundF f32 rm false (.fin true 1 3)).2.getLsbD 2 &&
      (roundF f32 rm true (.fin false (2 ^ 128) 1)).2.getLsbD 2) = true ∧ fsMember 1 3 ∧ fsMember 2 5 ∧ fsMember 0 1 ∧ fsMember 1 (2 ^ 56 - 1) ∧ 1 * 8 < 3 * 3 ∧ 3 * 5 < 2 * 8 ∧
    (2 ^ 56 - 1) * 3 < 2 ^ 60 := by unfold fsMember; decide +kernel
/-- R48, R52: one third in F32, to nearest and up. -/
theorem test_rounding : (roundF f32 0 false (.fin false 1 3)) = (0x3EAAAAAB, 1) ∧ (roundF f32 2 false (.fin false 1 3)) = (0x3EAAAAAA, 1) ∧
    (roundF f32 3 false (.fin false 1 3)) = (0x3EAAAAAB, 1) ∧ (roundF f32 0 false (.fin false (2 ^ 128) 1)) = (0x7F800000, 5) := by decide +kernel

/-- Tag 7 pends for level 2, tag 8 for level 1. -/
noncomputable def pendingTags (tags : List (Nat × BitVec 32 × Nat × Bool)) : State :=
  { readied with cores := [(0, { readied.myCore with wake := tags })] }
theorem witness_rqtake : (∀ p' : BitVec 2, 2#2 < p' → get4 (pendingTags []).myCore.ready p' = []) ∧ get4 (pendingTags []).myCore.ready 2 = [5, 6] ∧
    (∀ w ∈ (pendingTags [(7, 70, 1, true)]).myCore.wake, ¬(w.2.2.2 = true ∧ w.2.2.1 = (2#2).toNat)) ∧
    ((pendingTags [(8, 80, 1, true), (7, 70, 2, true)]).myCore.wake.find? fun w => w.2.2.2 && w.2.2.1 == (2#2).toNat) = some (7, 70, 2, true) ∧
    (∀ p : BitVec 2, get4 super.myCore.ready p = []) ∧ super.th.privileged = true ∧ super.speculative = false ∧ super.myEntry = none ∧ super.th.exl = false := by
  decide +kernel

theorem witness_nested_access : handling.ready [9] [8] = true ∧ handling.modeOk 1 = true ∧ ((put handling [(9, 1)]).address 9 0 8).toNat % 8 ≠ 0 ∧
    handling.th.plain 9 = true ∧ crLowest (crSelector 31 31) = none ∧ handling.th.privileged = true ∧ ({ handling with th := { handling.th with thstat := 0x88 } } : State).th.privileged = false ∧
    ({ handling with th := { handling.th with thstat := 0x88 } } : State).th.exl = true := by decide +kernel
/-- The halfword 0x0000 under EXL = 1. -/
theorem witness_nested_undecodable : let s : State := (State.reset.withFetchWord 16 0)
    let s : State := { s with th := { s.th with thstat := 0x88 } }
    s.th.exl = true ∧ s.th.storeFaults = [] ∧ s.th.reneg = false ∧ s.takesReport s.cur = false ∧ s.takesInterrupt s.cur = false ∧ s.heldCause = none ∧ s.myEntry = none ∧
      fetchesNone s = true := by decide +kernel

/-- Slot 10 has a transfer of channel 3 and commands of each queue, frozen, with one command behind each. -/
noncomputable def frozenUnits : State :=
  let s : State := { user with cur := 10, th := { Thread.reset with kind := .persistent }, threads := [(0, user.th)] }
  let f (n : Nat) : Option HeldFault := some { code := 1 * 64 + 9, addr := 0x50000, seq := n }
  let c (i : Instr) (n : Nat) : Command := { s.command i n 0 0x200000000 [] with frozen := f n, extra := [1, 0, 0, 0], snap := some [(0, 0), (1, 0)] }
  let behind (i : Instr) (n : Nat) : Command := s.command i n 0 0 []
  let t : Transfer := { s.gatherTransfer 20 0x100 64 with ssp := 3, frozen := f 20, started := true }
  ({ s with
    cores := [(coreOf 10, { Core.reset with sq := [c (.sscat 1 9 10) 21, behind .sfence 22], mq := [c (.mzero 1 0) 23, behind (.mzero 2 0) 24], vq := [c (.vadd 1 2 3 0 2) 25, behind (.vadd 1 2 3 0 2) 26] })]
    th := (((s.th.pendUp 0).pendUp 1).pendUp 2).pendUp 3 } : State).setChan (tileOf 10) 3 { transfers := [t], lastEnd := 0 } |>.focus 0
theorem witness_commands_thaw : [1, 2, 3, 4].all (fun kind => (frozenUnits.named 10).find? (fun k => frozenUnits.hasFrozen kind 3 k) == some 10) = true ∧
    wfield (frozenUnits.thread 10).asid 13 0 = wfield frozenUnits.th.asid 13 0 ∧ (frozenUnits.frozenTransfer 10 3).any (fun x => x.1 == 0 && x.2.seq == 20) = true ∧
    (frozenUnits.frozenCommand (·.sq) 10).any (fun x => x.1 == coreOf 10 && x.2.seq == 21) = true ∧
    (frozenUnits.frozenCommand (·.mq) 10).any (fun x => x.1 == coreOf 10 && x.2.seq == 23) = true ∧
    (frozenUnits.frozenCommand (·.vq) 10).any (fun x => x.1 == coreOf 10 && x.2.seq == 25) = true ∧
    (frozenUnits.core (coreOf 10)).mq.map (·.seq) = [23, 24] ∧ (frozenUnits.core (coreOf 10)).vq.map (·.seq) = [25, 26] := by decide +kernel

/-- Die 1 has walked and is walking for ASIDs 0 and 1; a drop of ASID 0 is on its way to it. -/
noncomputable def droppingDie (kind : Nat) : State :=
  let d : Drop := { id := 1, kind := kind, asid := 0, page := 5, targets := [512 + 1], applied := [], last := 0 }
  let w (st : WalkStage) : Walk := { asid := 0, page := 5, ptbase := 0x2001, mode := 0, fromRoot := false, dirty := false, requesters := [.slot 0 false], stage := st, dropped := false }
  { super with drops := [d], dies := [(1, { Die.reset with walks := [w .walking, w .waiting] })] }
theorem witness_tlbi_drops : [0, 1, 2, 3].all (fun k => ((droppingDie k).nextTarget 0 false).any fun x => x.2 == 512 + 1) = true ∧
    (dropping.nextTarget 0 false).any (fun x => decide (x.2 < 512)) = true := by decide +kernel
/-- A TLBSYNC with a drop of its own that the targets have acknowledged or not. -/
noncomputable def syncing (targets : List Nat) : State :=
  { super with th := { super.th with tlbis := [1] }, threads := [(9, { Thread.reset with kind := .persistent, asid := 1 })]
               drops := [{ id := 1, kind := 0, asid := 0, page := 5, targets := targets, applied := [], last := 0 }] }
theorem witness_tlbsync : (syncing []).th.privileged = true ∧ (syncing []).speculative = false ∧ (syncing []).drops.all (fun d => d.targets.isEmpty) = true ∧
    (syncing [3]).drops.all (fun d => (syncing [3]).th.tlbis.contains d.id && !d.targets.isEmpty) = true ∧ (syncing []).dies = [] ∧
    (((syncing []).cur, (syncing []).th) :: (syncing []).threads).all (fun x => x.2.sb.isEmpty && !x.2.atomicSent) = true ∧
    wfield ((syncing []).thread 0).asid 13 0 = 0 ∧ wfield ((syncing []).thread 9).asid 13 0 = 1 := by decide +kernel

/-- The root entry at 0x2000 reads as a word. -/
noncomputable def rooted (e : Word) (bad : Bool) : State := { mem user 0x2000 (leBytes 8 e.toNat) with poison := if bad then [(0x2000, 64)] else [] }
theorem witness_walk_itself : user.mapped (0x2000 + 8 * (0x50000 / 2 ^ (16 + 10 * 2) % 1024)) = true ∧ inRom 0x2000 = false ∧ (rooted 0x4001 false).word 0x2000 = 0x4001 ∧
    [(0x4000, false), (0x4003, true), (0x4001, true), (0xDF, false), (0x4001, false)].all (fun x => (rooted x.1 x.2).poisoned 0x2000 8 == x.2) = true ∧
    user.mapped (2 ^ 51) = false ∧ wfield (0x4001#64) 59 52 = 0 ∧ wfield (0x4001#64) 12 1 = 0 ∧ wfield (0xDF#64) 15 10 = 0 ∧ wfield (0xDF#64) 35 16 = 0 := by decide +kernel
/-- A drop's walk with the leaf of the walking state's setting stage read back. -/
theorem witness_walk_fails : ((walking .walking []).die 0).oldest (fun w => w.stage == .walking) ≠ none ∧ (walking .walking []).th.walkFail = [] ∧
    (walking (.setting unaccessed) []).mapped unaccessed.leafPa = true ∧ inRom unaccessed.leafPa = false ∧ (walking (.setting unaccessed) []).poisoned unaccessed.leafPa 8 = false := by
  decide +kernel

theorem witness_crumb : Memory.wf (aborting [0x400000004]) = true ∧
    (aborting [0x400000004]).writeHits (.spec 1 (job true).key 0 3) (coreOf 9) (64 * 0x400000004) 64 = [] := by decide +kernel
theorem witness_completion_word : Memory.wf (completing descImage) = true ∧
    (match (eLocate ((completing descImage).launchIssuer 4) 7 0 (LaunchDesc.ofBits descImage).compl 8 .rmw 7).run' (completing descImage) with
      | (u, .ok pa) => (match (eNonSpec (.number 7) pa 8 true).run' u with
        | (v, .ok ()) => Memory.wf v && !v.poisoned pa 8
        | _ => false)
      | _ => false) = true := by decide +kernel
theorem witness_ctxload_poison : (match imagePlace ((saved false none).rd 9) .rmw (saved false none) with
      | .ok (p, u) => (u.imagePoison { image := some p.1, cluster := p.2, sched := false, rsn := .atPc, ans := 0, sbcnt := 0, wait := none, yielded := false }).isNone
      | .error _ => false) = true := by decide +kernel

/-- Every element of a lane command of .l ends in own local memory and may be accessed. -/
theorem witness_vector_elems : [Instr.vld 2 9 1 2, .vst 2 9 1 2, .vldx 2 9 4 2 0, .vstxa 2 9 4 2 0].all (fun i =>
    let s := pooledOne i 0x4000000000000100
    let c := vectoring.command i 1 0x4000000000000100 0 []
    s.walkAnswers.all (fun x => x.num != c.seq) &&
    match memRule c (s.thread 0) with
    | some (kind, am, _, k, e, at_) => am == 1 && (List.range (s.th.count e)).all fun j => !s.th.admits k e j || match at_ j with
      | some a =>
        let pa := elemPa 0 am none a
        a % 4 == 0 && pa % 4 == 0 && inLm pa && inLm (pa + 3) && (s.mapCheck pa c.mode kind (BitVec.ofNat 64 a)).isNone && s.lmPermits (c.issuer 0) pa kind &&
          decide (a + 4 ≤ 0x40000)
      | none => false
    | none => false) = true := by decide +kernel
/-- Group 5 has two members on two cores, and a full mask selects both. -/
noncomputable def groupedTwo (i : Instr) (ga : Word) : State :=
  { grouped (pooledOne i ga) with dies := [(0, { Die.reset with groups := [(5, { asid := 0, members := [9, 17], arrived := [], released := [] })] })] }
theorem witness_ksend_members : (groupedTwo (.ksend 12 2 3 0) 5).group 5 = some { asid := 0, members := [9, 17], arrived := [], released := [] } ∧
    [9, 17].Pairwise (fun x y : Nat => x % 32768 < y % 32768) ∧
    [0, 1].all (fun n => (List.range 8).any fun j => (vectoring.th.elem 2 32 j) * 0x9E3779B1 % 2 ^ 32 * 2 / 2 ^ 32 == n) = true ∧
    ((List.range 8).all fun j => (groupedTwo (.ksend 12 2 3 0) 5).lmPermits ((vectoring.command (.ksend 12 2 3 0) 1 5 0 []).issuer 0)
      ((groupedTwo (.ksend 12 2 3 0) 5).binPa (coreOf 17) (vectoring.th.elem 2 32 j)) .store) = true := by decide +kernel
/-- The combinations and formats of a bin that are named. -/
theorem witness_bin_kinds : [(3, 0), (0, 2), (0, 10), (1, 2), (2, 6), (1, 10)].all (fun x =>
    let r : Word := BitVec.ofNat 64 (2 ^ 41 + x.1 * 2 ^ 38 + x.2 * 2 ^ 33)
    wfield r 39 38 == x.1 && wfield r 37 33 == x.2 && r.getLsbD 41) = true ∧ Memory.wf (receiving 0) = true := by decide +kernel
/-- Another thread of the tile claims 64 lanes. -/
noncomputable def contended : State :=
  { put user [(9, 16)] with threads := [(9, { Thread.reset with kind := .persistent, grant := 64, laneReq := 64 })] }
theorem witness_grants_whole : contended.granted 0 = 64 ∧ (contended.th.laneReq = 0 → contended.th.grant = 0) ∧ ∀ x ∈ contended.threads, x.1 ≠ contended.cur := by
  decide +kernel
theorem witness_permute (i : Instr) (h : i ∈ [Instr.vtrans 0 2, .vselk 1 2 10 1 2, .kset 3 10]) :
    (pooledOne i 5).poolHead 0 (vectoring.command i 1 5 0 []) ∧ (∀ r ∈ transRows 0, vectoring.th.vStream r = none) ∧ vectoring.th.vStream 1 = none := by
  rcases (by simpa using h : i = _ ∨ i = _ ∨ i = _) with rfl | rfl | rfl <;>
    exact ⟨⟨by decide +kernel, rfl, rfl, rfl, by decide +kernel, by decide +kernel, by decide +kernel⟩, by decide +kernel, by decide +kernel⟩
theorem witness_value_rules : (∃ s n d, f32.read 0x40000000 = .fin s n d ∧ 0 < n) ∧ f32.read 0x7F800000 = .inf false ∧ (∃ d, f32.read 0 = .fin false 0 d) ∧
    f32.read 0x7FC00000 = .nan ∧ intFmtOf 2 = some (true, 32) ∧ (Num.inf true) ≠ .nan := by
  exact ⟨⟨_, _, _, rfl, by decide +kernel⟩, by decide +kernel, ⟨_, rfl⟩, by decide +kernel, by decide +kernel, by decide⟩

/-- Core 0 with one matrix command of these words and tensors at the head of its queue. -/
noncomputable def matrixOne (i : Instr) (ga gb : Word) (es : List (BitVec 512)) : State :=
  { user with cores := [(0, { Core.reset with mq := [user.command i 1 ga gb es], acc := Vector.replicate 8 1 })], fresh := 2, th := user.th.pendUp 3 }
theorem matrixOne_ready (i : Instr) (ga gb : Word) (es : List (BitVec 512)) :
    (matrixOne i ga gb es).unitCalm 0 (user.command i 1 ga gb es) ∧ (matrixOne i ga gb es).matrixHead 0 (user.command i 1 ga gb es) :=
  ⟨⟨⟨rfl, rfl, rfl, fun _ => rfl⟩, by simp only [State.command]; decide +kernel, by simp only [State.command]; decide +kernel, rfl⟩, ⟨[], rfl⟩, rfl, rfl, rfl, rfl⟩
/-- The block tensor of SKIND 3. -/
noncomputable def block5Rows : BitVec 512 := block5 ||| BitVec.ofNat 512 (3 * 2 ^ 263)
/-- Tensors of F32, F16 and a block form whose windows lie in own local memory. -/
theorem witness_multiply : floatFmt (Tensor.ofEntry tensor5).format = true ∧ (Tensor.ofEntry tensor5).skind = 0 ∧ (Tensor.ofEntry half5).format = 8 ∧
    (Tensor.ofEntry tensor5).windowFits 0 0 2 32 = true ∧ sxbOf (Tensor.ofEntry block5Rows).format = some 8 ∧ (Tensor.ofEntry block5Rows).skind = 3 ∧
    ((List.range 1).all fun i => (Tensor.ofEntry block5Rows).has i 0 && decide ((Tensor.ofEntry block5Rows).scaleAddr i 0 < 0x40000) &&
      (List.range 32).all fun e => decide (((Tensor.ofEntry block5Rows).elemBit i e + 8 + 7) / 8 ≤ 0x40000)) = true ∧ ((matrixOne .vrel 0 0 []).core 0).pred 0 = true ∧
    cellsWf ((matrixOne .vrel 0 0 []).tile 0).weights = true ∧ Memory.wf (matrixOne .vrel 0 0 []) = true := by decide +kernel
/-- Fibres of no element, and of two. -/
theorem witness_fibres : fibreFits (fun _ _ => 0) 0x40000 10 0 ∧ fibreFits (fun a n => if n = 16 then 2 ^ 64 * 2 + 2 ^ 32 * 128 + 64 else a) 0x40000 10 0 := by
  unfold fibreFits; decide +kernel
theorem witness_panel : (Tensor.ofEntry tensor5).windowFits 0 0 32 32 = true ∧ (Tensor.ofEntry half5).windowFits 0 0 32 32 = true ∧
    ((List.range 2).all fun k => (List.range 8).all fun j => decide ((Tensor.ofEntry tensor5).scaleAddr k j + 4 ≤ 0x40000)) = true ∧ narrowFmt (Tensor.ofEntry half5).format = true ∧
    (elemValue 8 0).isZero = true := by decide +kernel

theorem witness_copy_stops : Transfer.stoppable [transferOf 5] copying.cur (transferOf 5) = true ∧ (channelled copying [transferOf 5]).requestsOut (transferOf 5) = false ∧
    (channelled copying [{ transferOf 5 with unacked := [4] }]).requestsOut { transferOf 5 with unacked := [4] } = true ∧ (transferOf 5).stopped = none ∧
    ([transferOf 5].map (·.seq)).Nodup := by decide +kernel
theorem witness_line_of_bytes : (landing (transferOf 0)).channelHead 0 15 (transferOf 0) ∧ Memory.wf (landing (transferOf 0)) = true ∧
    (transferOf 0).within (transferOf 0).ssp (transferOf 0).src ∧ (transferOf 0).within (transferOf 0).dsp (transferOf 0).dst ∧
    (transferOf 0).chunk (transferOf 0).written = (transferOf 0).written ∧ ((transferOf 0).src + 0) / 128 = ((transferOf 0).src + (transferOf 0).len - 1) / 128 ∧
    (lastByte true).within 1 (lastByte true).src :=
  ⟨⟨by decide +kernel, rfl⟩, by decide +kernel, ⟨by decide +kernel, by decide +kernel⟩, ⟨by decide +kernel, by decide +kernel⟩, by decide +kernel, by decide +kernel,
    ⟨by decide +kernel, by decide +kernel⟩⟩
theorem witness_stopped_remote : (landing { transferOf 7 with dsp := 5, ep := 9, unacked := [4, 21], stopped := some 0 }).onLinks 0 15 =
    some { transferOf 7 with dsp := 5, ep := 9, unacked := [4, 21], stopped := some 0 } ∧ remote.onLinks 0 15 = some { transferOf 7 with dsp := 5, ep := 9, unacked := [4, 21] } := by
  decide +kernel

theorem witness_bootcfg : (phased .config false).phase = .config ∧ ({ phased .config false with links := user.links } : State).hears (header 8 0) ∧
    (0 : Nat) ∈ [0, 8, 16, 24, 32] := ⟨rfl, ⟨by decide +kernel, by decide +kernel, by decide +kernel, by decide +kernel⟩, by decide⟩
theorem witness_reset_fatal : (unwritten.behind.map (·.1)).Nodup ∧ (∀ b ∈ unwritten.behind, b.2.length = 128 ∧ inHbm (128 * b.1) = true) ∧ Memory.wf unwritten = true := by
  decide +kernel

/-- An encoded well-formed instruction. -/
theorem witness_encoded : (Instr.madd 12 13 14 15).encoded = true ∧ (Instr.madd 12 13 14 15).wf = true := by decide +kernel
theorem witness_decoded : (match decode (wordBytes 0x81EE6B03 ++ [1]) with
    | .ok (_, rest) => rest == [1]
    | .error _ => false) = true := by decide +kernel

end Sys2Proof.Tests
end

section
/-! Faults that an instruction raises, and the accesses of control registers (R6, R381, R382, R385). -/

namespace Sys2Proof.Machine

/-! Faults, waits and steps under a condition. -/

/-- R385: with EXL = 0 a fault is trap entry. TRAP's 0.8, whose EPC is the address after it, is left out. -/
theorem State.deliver_fault (s : State) (src cause : Nat) (v : Word) (hexl : s.th.exl = false) (hcode : code src cause ≠ code 0 8) :
    s.deliver { code := code src cause, tval := v, violation := false } = s.trapped src cause v := by
  have hepc : faultEpc (code src cause) s.th.pc = s.th.pc := if_neg hcode
  simp only [State.deliver, State.trapEntry, hexl, hepc]
  rfl

/-- A fault of a thread that is no ordered task ends the instruction with the trap taken. -/
theorem act_fault (s : State) (src cause : Nat) (v : Word) (hentry : s.myEntry = none) (hexl : s.th.exl = false)
    (hcode : code src cause ≠ code 0 8) : (fault src cause v : Act α) s = .error (s.trapped src cause v) := by
  rw [← s.deliver_fault src cause v hexl hcode]
  unfold fault raise
  rw [act_bind, act_get]
  simp only [hentry]
  rfl

theorem act_require_fails (s : State) (src cause : Nat) (v : Word) (hentry : s.myEntry = none) (hexl : s.th.exl = false)
    (hcode : code src cause ≠ code 0 8) : require false src cause v s = .error (s.trapped src cause v) :=
  act_fault s src cause v hentry hexl hcode

theorem act_waitUntil (w : Wait) (c : State → Bool) (s : State) (h : c s = true) : waitUntil w c s = .ok ((), s) := by
  unfold waitUntil
  rw [act_bind, act_get]
  simp [h]

/-- A step that is performed under a condition and changes nothing then, before the rest of an action. -/
theorem act_when_bind (p : Prop) [Decidable p] (a : Act Unit) (f : Unit → Act β) (s : State) (h : p → a s = .ok ((), s)) :
    (if p then a >>= f else f ()) s = f () s := by
  split
  next hp => exact act_bind_ok a f s s () (h hp)
  next => rfl

/-- A step that is performed unless a condition holds and changes nothing then, before the rest of an action. -/
theorem act_unless_bind (p : Prop) [Decidable p] (a : Act Unit) (f : Unit → Act β) (s : State) (h : ¬p → a s = .ok ((), s)) :
    (if p then f () else a >>= f) s = f () s := by
  split
  next => rfl
  next hp => exact act_bind_ok a f s s () (h hp)

/-! The checks of an access (R381). -/

theorem crCheck_of_reached (s : State) (sel : Nat) (p : Bool) (hsel : crLowest sel = some p) (hp : p = true → s.th.privileged = true) :
    crCheck sel s = .ok ((), s) := by
  unfold crCheck
  rw [act_bind, act_get]
  simp only [hsel]
  apply act_require
  cases p with
  | false => rfl
  | true => simp [hp]

theorem crCheck_of_unlisted (s : State) (sel : Nat) (hsel : crLowest sel = none) (hentry : s.myEntry = none) (hexl : s.th.exl = false) :
    crCheck sel s = .error (s.trapped 0 1 s.instrWord) := by
  unfold crCheck
  rw [act_bind, act_get]
  simp only [hsel]
  exact act_fault s 0 1 _ hentry hexl (by decide)

theorem crCheck_of_unprivileged (s : State) (sel : Nat) (hsel : crLowest sel = some true) (hpriv : s.th.privileged = false)
    (hentry : s.myEntry = none) (hexl : s.th.exl = false) : crCheck sel s = .error (s.trapped 0 2 s.instrWord) := by
  unfold crCheck
  rw [act_bind, act_get]
  simp only [hsel, hpriv]
  exact act_require_fails s 0 2 _ hentry hexl (by decide)

/-! The accesses (R382). -/

theorem exec_crr (d b c : BitVec 5) (s : State) : exec (.crr d b c) s = execCrr d b c s := rfl
theorem exec_crw (d a b c : BitVec 5) (s : State) : exec (.crw d a b c) s = done (crWrite .write d a b c) s := rfl
theorem exec_crs (d a b c : BitVec 5) (s : State) : exec (.crs d a b c) s = done (crWrite .set d a b c) s := rfl
theorem exec_crc (d a b c : BitVec 5) (s : State) : exec (.crc d a b c) s = done (crWrite .clear d a b c) s := rfl

/-- CRR past its checks gives g[d] the register's value, and the RC fields clear (R6). -/
theorem execCrr_of_checked (s : State) (d b c : BitVec 5) (hcheck : crCheck (crSelector b c) s = .ok ((), s))
    (hready : s.ready [] [d] = true) :
    execCrr d b c s = .next ((s.finish 4 [] [(d, s.readCr (crSelector b c))]).afterRead (crSelector b c)) := by
  apply done_of_ok
  rw [act_bind_ok _ _ _ _ _ hcheck, act_bind_ok _ _ _ _ _ (useRegs_ready s [] [d] hready), act_bind, act_get]
  rfl

/-- CRW, CRS and CRC past their checks read as CRR does and then write, with the operand and the old value of before the write. -/
theorem crWrite_of_checked (s : State) (op : CrOp) (d a b c : BitVec 5) (hcheck : crCheck (crSelector b c) s = .ok ((), s))
    (hready : s.ready [a] [d] = true) (hspec : s.speculative = false) (hcrumb : crSelector b c = 0x03A → s.holdsCrumb = false) :
    done (crWrite op d a b c) s = .next
      (((s.finish 4 [a] [(d, s.readCr (crSelector b c))]).afterRead (crSelector b c)).crEffect
        (crSelector b c) op (s.readCr (crSelector b c)) (s.rd a)) := by
  have hwait (hsel : crSelector b c = 0x03A) : waitUntil .memoryReply (fun s => !s.holdsCrumb) s = .ok ((), s) :=
    act_waitUntil _ _ s (by simp [hcrumb hsel])
  apply done_of_ok
  unfold crWrite
  rw [act_bind_ok _ _ _ _ _ hcheck, act_bind_ok _ _ _ _ _ (useRegs_ready s [a] [d] hready)]
  refine (act_unless_bind _ _ _ s fun _ => speculative_escalate s hspec).trans ?_
  exact act_when_bind _ _ _ s hwait

/-- The check comes first: where it ends an access, nothing else of the access is done. -/
theorem exec_of_crCheck_error (s t : State) (i : Instr) (d a b c : BitVec 5)
    (hi : i = .crr d b c ∨ i = .crw d a b c ∨ i = .crs d a b c ∨ i = .crc d a b c)
    (hcheck : crCheck (crSelector b c) s = .error t) : exec i s = .next t := by
  have hwrite (op : CrOp) : done (crWrite op d a b c) s = .next t := done_of_error _ s t (act_bind_error _ _ s t hcheck)
  rcases hi with rfl | rfl | rfl | rfl
  · exact done_of_error _ s t (act_bind_error _ _ s t hcheck)
  · exact hwrite .write
  · exact hwrite .set
  · exact hwrite .clear

theorem controlRegisterAccess : Claim.controlRegisterAccess := by
  constructor
  · intro s d b c p hsel hp hready
    rw [exec_crr]
    exact execCrr_of_checked s d b c (crCheck_of_reached s _ p hsel hp) hready
  · intro s d a b c p hsel hp hready hspec hcrumb t
    have hwrite (op : CrOp) : done (crWrite op d a b c) s = .next (t op) :=
      crWrite_of_checked s op d a b c (crCheck_of_reached s _ p hsel hp) hready hspec hcrumb
    exact ⟨by rw [exec_crw, hwrite], by rw [exec_crs, hwrite], by rw [exec_crc, hwrite]⟩

theorem controlRegisterTraps : Claim.controlRegisterTraps := by
  intro s i d a b c hentry hexl hi
  constructor
  · intro hsel
    exact exec_of_crCheck_error s _ i d a b c hi (crCheck_of_unlisted s _ hsel hentry hexl)
  · intro hsel hpriv
    exact exec_of_crCheck_error s _ i d a b c hi (crCheck_of_unprivileged s _ hsel hpriv hentry hexl)

/-- Settles O34: an access past its checks completes, and a check that fails ends the access with the trap taken. -/
theorem controlRegisters : Obligations.ControlRegisters :=
  ⟨controlRegisterAccess, controlRegisterTraps⟩

end Sys2Proof.Machine
end

section
/-! Tensor entries, and matrix commands at issue (R73, R259 to R261, R264, R267 to R269, R272, R273, R282). -/

namespace Sys2Proof.Machine

/-! Operands and held faults. -/

/-- Fewer register operands can be used where all of them can. -/
theorem State.ready_of_subset (s : State) (srcs srcs' dsts dsts' : List Reg) (h : s.ready srcs dsts = true)
    (hsrcs : srcs' ⊆ srcs) (hdsts : dsts' ⊆ dsts) : s.ready srcs' dsts' = true := by
  simp only [State.ready, Bool.and_eq_true, List.all_eq_true] at h ⊢
  exact ⟨fun r hr => h.1 r (hsrcs hr), fun r hr => h.2 r (hdsts hr)⟩

theorem deliverHeld_of_no_fault (s : State) (u : EUnit) (h : s.th.flt u = false) : deliverHeld u s = .ok ((), s) := by
  unfold deliverHeld
  rw [act_bind, act_get]
  simp [h]

/-! Entries of the tensor table (R73, R75). -/

theorem cachedEntry_of_cached (s : State) (tid : Nat) (x : Nat × Nat × BitVec 512)
    (h : (s.myTile.tcache.find? fun e => e.1 == wfield s.th.asid 13 0 && e.2.1 == tid) = some x) :
    cachedEntry tid s = .ok (x.2.2, s) := by
  unfold cachedEntry
  rw [act_bind, act_get]
  simp [h]

/-- TENSOR while TTBASE.EN is 0, whatever follows the check (R73). -/
theorem require_ttbase_disabled (s : State) (src : Nat) (v : Word) (f : Unit → Act α) (h : s.th.ttbase.getLsbD 0 = false)
    (hentry : s.myEntry = none) (hexl : s.th.exl = false) :
    (require (s.th.ttbase.getLsbD 0) src 7 v >>= f) s = .error (s.trapped src 7 v) := by
  rw [h]
  exact act_bind_error _ _ _ _ (act_require_fails s src 7 v hentry hexl (by unfold code; omega))

theorem resolve_disabled (s : State) (src tid : Nat) (ga : Word) (h : s.th.ttbase.getLsbD 0 = false) (hentry : s.myEntry = none)
    (hexl : s.th.exl = false) : resolve src tid ga s = .error (s.trapped src 7 ga) := by
  unfold resolve
  rw [act_bind, act_get]
  exact require_ttbase_disabled s src ga _ h hentry hexl

theorem resolve_of_resolved (s : State) (src tid : Nat) (ga : Word) (e : BitVec 512) (h : s.resolved tid e) :
    resolve src tid ga s = .ok (e, s) := by
  obtain ⟨hen, hfind, hv, hcheck⟩ := h
  obtain ⟨x, hx, rfl⟩ := Option.map_eq_some_iff.mp hfind
  unfold resolve
  rw [act_bind, act_get]
  simp only
  rw [act_bind_ok _ _ _ _ _ (act_require _ _ _ _ s hen), act_bind_ok _ _ _ _ _ (cachedEntry_of_cached s tid x hx),
    act_bind_ok _ _ _ _ _ (act_require _ _ _ _ s hv)]
  simp [hcheck]

/-! Acceptance into the matrix queue (R259, R260). -/

/-- With room in the queue a command is taken, and PEND rises. -/
theorem acceptMatrix_of_room (s : State) (i : Instr) (srcs : List Reg) (ga gb : Word) (es : List (BitVec 512))
    (h : s.myCore.mq.length < 16) :
    acceptMatrix i srcs ga gb es s = .ok ((), (s.queued i ga gb es).finish 4 srcs []) := by
  unfold acceptMatrix
  rw [act_bind_ok _ _ s s () (act_waitUntil _ _ s (by simpa using h))]
  rfl

theorem State.matrixFree_iff (s : State) :
    s.matrixFree = true ↔ s.speculative = false ∧ s.th.flt 3#2 = false ∧ s.myCore.mq.length < 16 := by
  simp only [State.matrixFree, Bool.and_eq_true, Bool.not_eq_true', decide_eq_true_eq, and_assoc]

/-- Steps 1 and 2 of R259 change nothing where the unit is free: what remains of a queued instruction is its checks and its
acceptance. -/
theorem matrixIssue_of_free (s : State) (i : Instr) (srcs : List Reg) (ga gb : State → Word) (hfree : s.matrixFree = true)
    (hready : s.ready srcs [] = true) :
    matrixIssue i srcs ga gb s =
      (matrixChecks i (ga s) (gb s) (ga s) >>= fun es => acceptMatrix i srcs (ga s) (gb s) es) s := by
  obtain ⟨hspec, hflt, -⟩ := s.matrixFree_iff.mp hfree
  unfold matrixIssue
  rw [act_bind_ok _ _ _ _ _ (useRegs_ready s srcs [] hready), act_bind_ok _ _ _ _ _ (speculative_escalate s hspec),
    act_bind_ok _ _ _ _ _ (deliverHeld_of_no_fault s 3#2 hflt), act_bind, act_get]

/-- A queued instruction whose checks leave the cores as they are is taken. -/
theorem matrixIssue_of_checked (s u : State) (i : Instr) (srcs : List Reg) (ga gb : State → Word) (es : List (BitVec 512))
    (hfree : s.matrixFree = true) (hready : s.ready srcs [] = true) (hchecks : matrixChecks i (ga s) (gb s) (ga s) s = .ok (es, u))
    (hcur : u.cur = s.cur) (hcores : u.cores = s.cores) :
    done (matrixIssue i srcs ga gb) s = .next ((u.queued i (ga s) (gb s) es).finish 4 srcs []) := by
  obtain ⟨-, -, hroom⟩ := s.matrixFree_iff.mp hfree
  have hcore : u.myCore = s.myCore := by unfold State.myCore State.core; rw [hcur, hcores]
  apply done_of_ok
  rw [matrixIssue_of_free s i srcs ga gb hfree hready, act_bind_ok _ _ _ _ _ hchecks]
  exact acceptMatrix_of_room u i srcs _ _ es (hcore ▸ hroom)

/-- A queued instruction ends as the check that fails does. -/
theorem matrixIssue_of_refused (s t : State) (i : Instr) (srcs : List Reg) (ga gb : State → Word)
    (hfree : s.matrixFree = true) (hready : s.ready srcs [] = true) (hchecks : matrixChecks i (ga s) (gb s) (ga s) s = .error t) :
    done (matrixIssue i srcs ga gb) s = .next t := by
  apply done_of_error
  rw [matrixIssue_of_free s i srcs ga gb hfree hready]
  exact act_bind_error _ _ _ _ hchecks

/-! The limits of a command's window (R259, R268, R269, R273). -/

theorem Tensor.mem_windowElems (t : Tensor) (row0 col0 nr nc : Nat) (e : Nat × Nat) :
    e ∈ t.windowElems row0 col0 nr nc ↔ ∃ i < nr, ∃ j < nc, t.has (row0 + i) (col0 + j) = true ∧ e = (row0 + i, col0 + j) := by
  simp only [Tensor.windowElems, List.mem_flatMap, List.mem_map, List.mem_filter, List.mem_range]
  grind

/-- Outside mode .c the limit of a command's elements is a core's local memory. -/
theorem spaceSize_of_not_cluster (m : BitVec 2) (h : m ≠ 2#2) : spaceSize m.toNat = 0x40000 :=
  if_neg fun hm => h (BitVec.eq_of_toNat_eq hm)

theorem localSpan_of_windowFits (t : Tensor) (row0 col0 nr nc : Nat) (m : BitVec 2) (hm : m ≠ 2#2)
    (h : t.windowFits row0 col0 nr nc = true) :
    ((localSpan t (t.windowElems row0 col0 nr nc)).all fun p => decide (p.2 ≤ spaceSize m.toNat)) = true := by
  rw [spaceSize_of_not_cluster m hm]
  simp only [List.all_eq_true, localSpan, List.mem_map, Tensor.mem_windowElems, decide_eq_true_eq]
  rintro p ⟨e, ⟨i, hi, j, hj, hhas, rfl⟩, rfl⟩
  simp only [Tensor.windowFits, List.all_eq_true, List.mem_range] at h
  simpa [hhas, Tensor.elemSpan] using h i hi j hj

/-- Step 6 of R259 checks nothing outside mode .c. -/
theorem checkSpans_of_not_cluster (s : State) (m : BitVec 2) (spans : List (Nat × Nat)) (k : AccessKind) (tv : Word) (h : m ≠ 2#2) :
    checkSpans m.toNat spans k tv s = .ok ((), s) := by
  have hm : (m.toNat == 2) = false := by simpa using fun hm => h (BitVec.eq_of_toNat_eq hm)
  unfold checkSpans
  rw [act_bind, act_get]
  simp [hm]

/-! The checks of the single instructions (R259). -/

/-- A check that holds, before the rest of an action. -/
theorem act_need_bind (c : Bool) (src cause : Nat) (tv : Word) (f : Unit → Act α) (s : State) (h : c = true) :
    (need c src cause tv >>= f) s = f () s :=
  act_bind_ok _ _ _ _ _ (act_require c src cause tv s h)

/-- MMA and MMAS, which differ in the pairs of formats that they take and in the size of the image (R267 to R269). -/
theorem matrixChecks_of_mmaFits (s : State) (sparse : Bool) (x p : BitVec 3) (m : BitVec 2) (a b : Reg) (ga gb tv : Word)
    (ea eb : BitVec 512) (hm : m ≠ 2#2) (hea : s.resolved (wfield ga 11 0) ea) (heb : s.resolved (wfield gb 19 8) eb)
    (h : mmaFits sparse x ga gb (Tensor.ofEntry ea) (Tensor.ofEntry eb) = true) :
    matrixChecks (if sparse then .mmas x m a b p else .mma x m a b p) ga gb tv s = .ok ([ea, eb], s) := by
  simp only [mmaFits, Bool.and_eq_true, Option.isNone_iff_eq_none] at h
  obtain ⟨⟨⟨⟨⟨⟨⟨⟨⟨⟨hpair, hxa⟩, hxb⟩, hk⟩, hga⟩, hgb⟩, hx⟩, hsa⟩, hsb⟩, hwin⟩, himg⟩ := h
  have hskind : (if floatFmt (Tensor.ofEntry eb).format = true then (Tensor.ofEntry eb).skind == 0
      else (Tensor.ofEntry eb).skind == 0 || (Tensor.ofEntry eb).skind == 2) = true := by
    cases hf : floatFmt (Tensor.ofEntry eb).format <;> simpa [hf] using hsb
  cases sparse
  all_goals
    refine (act_bind_ok _ _ _ _ _ (resolve_of_resolved s 3 _ tv ea hea)).trans ?_
    refine (act_bind_ok _ _ _ _ _ (resolve_of_resolved s 3 _ tv eb heb)).trans ?_
    refine (act_need_bind _ _ _ _ _ _ hpair).trans ?_
    refine (act_need_bind _ _ _ _ _ _ (by simp only [hk, hga, hgb, Bool.and_self])).trans ?_
    refine (act_need_bind _ _ _ _ _ _ (by simpa using hx)).trans ?_
    refine (act_need_bind _ _ _ _ _ _ (by simpa [hxa] using hsa)).trans ?_
    refine (act_need_bind _ _ _ _ _ _ (by simpa [hxb] using hskind)).trans ?_
    refine (act_need_bind _ _ _ _ _ _ (localSpan_of_windowFits _ _ _ _ _ m hm hwin)).trans ?_
    refine (act_need_bind _ _ _ _ _ _ himg).trans ?_
    exact act_bind_ok _ _ _ _ _ (checkSpans_of_not_cluster s m _ _ tv hm)

/-- MMA refuses a pair of formats that it does not accept (R267). -/
theorem matrixChecks_mma_of_pair (s : State) (x p : BitVec 3) (m : BitVec 2) (a b : Reg) (ga gb tv : Word) (ea eb : BitVec 512)
    (hea : s.resolved (wfield ga 11 0) ea) (heb : s.resolved (wfield gb 19 8) eb)
    (h : mmaPair (Tensor.ofEntry ea).format (Tensor.ofEntry eb).format = false) (hentry : s.myEntry = none) (hexl : s.th.exl = false) :
    matrixChecks (.mma x m a b p) ga gb tv s = .error (s.trapped 3 21 tv) := by
  simp only [matrixChecks, Bool.false_eq_true, if_false]
  rw [act_bind_ok _ _ _ _ _ (resolve_of_resolved s 3 _ tv ea hea), act_bind_ok _ _ _ _ _ (resolve_of_resolved s 3 _ tv eb heb), h]
  exact act_bind_error _ _ _ _ (act_require_fails s 3 21 tv hentry hexl (by decide))

/-- MLDACC and MSTACC; a store also asks for a tensor that is not write-protected and for the window's first element (R273). -/
theorem matrixChecks_of_windowOk (s : State) (store : Bool) (x p : BitVec 3) (m : BitVec 2) (a b : Reg) (ga gb tv : Word)
    (e : BitVec 512) (hm : m ≠ 2#2) (he : s.resolved (wfield ga 11 0) e) (h : windowOk x m ga gb (Tensor.ofEntry e) = true)
    (hstore : store = true → (Tensor.ofEntry e).wprot = false ∧
      (Tensor.ofEntry e).has (wfield ga 31 12) (wfield ga 51 32) = true) :
    matrixChecks (if store then .mstacc x m a b p else .mldacc x m a b p) ga gb tv s = .ok ([e], s) := by
  simp only [windowOk, Bool.and_eq_true] at h
  obtain ⟨⟨⟨⟨⟨hf, hs⟩, hga⟩, hgb⟩, hx⟩, hwin⟩ := h
  have hspan : (m.toNat == 0 || (localSpan (Tensor.ofEntry e) ((Tensor.ofEntry e).windowElems (wfield ga 31 12) (wfield ga 51 32)
      (rowsValid ga) 32)).all fun p => decide (p.2 ≤ spaceSize m.toNat)) = true := by
    rcases (Bool.or_eq_true _ _).mp hwin with h0 | hfit
    · simp [beq_iff_eq.mp h0]
    · exact (Bool.or_eq_true _ _).mpr (.inr (localSpan_of_windowFits _ _ _ _ _ m hm hfit))
  cases store
  all_goals
    refine (act_bind_ok _ _ _ _ _ (resolve_of_resolved s 3 _ tv e he)).trans ?_
    refine (act_need_bind _ _ _ _ _ _ (by simp only [hf, hs, Bool.and_self])).trans ?_
    refine (act_need_bind _ _ _ _ _ _ (by simp only [hga, hgb, hx, Bool.and_self])).trans ?_
    refine (act_need_bind _ _ _ _ _ _ hspan).trans ?_
    refine (act_bind_ok _ _ _ _ _ (checkSpans_of_not_cluster s m _ _ tv hm)).trans ?_
  case false => rfl
  case true =>
    obtain ⟨hw, hhas⟩ := hstore rfl
    simp [hw, hhas]

/-- Every command with a tensor resolves it first, so while TTBASE.EN is 0 it ends there (R73, R259). -/
theorem matrixChecks_disabled (s : State) (i : Instr) (x p : BitVec 3) (m : BitVec 2) (a b : Reg) (ga gb tv : Word)
    (hi : i = .mma x m a b p ∨ i = .mmas x m a b p ∨ i = .mspx x m a b p ∨ i = .mldacc x m a b p ∨
      i = .mstacc x m a b p ∨ i = .mwbld m a b p)
    (h : s.th.ttbase.getLsbD 0 = false) (hentry : s.myEntry = none) (hexl : s.th.exl = false) :
    matrixChecks i ga gb tv s = .error (s.trapped 3 7 tv) := by
  have hresolve (tid : Nat) (f : BitVec 512 → Act (List (BitVec 512))) : (resolve 3 tid tv >>= f) s = .error (s.trapped 3 7 tv) :=
    act_bind_error _ _ _ _ (resolve_disabled s 3 tid tv h hentry hexl)
  rcases hi with rfl | rfl | rfl | rfl | rfl | rfl <;> exact hresolve _ _

/-! The instructions (R259, R264, R272, R282). -/

theorem exec_tensorCommand (s : State) (i : Instr) (x p : BitVec 3) (m : BitVec 2) (a b : Reg)
    (hi : i = .mma x m a b p ∨ i = .mmas x m a b p ∨ i = .mspx x m a b p ∨ i = .mldacc x m a b p ∨
      i = .mstacc x m a b p ∨ i = .mwbld m a b p) :
    exec i s = done (matrixIssue i [a, b] (·.rd a) (·.rd b)) s := by
  rcases hi with rfl | rfl | rfl | rfl | rfl | rfl <;> rfl

theorem exec_mzero (s : State) (x p : BitVec 3) : exec (.mzero x p) s = done (matrixIssue (.mzero x p) [] (fun _ => 0) fun _ => 0) s := rfl

/-- TZSET has no step 3 to 7 (R264). -/
theorem exec_tzset (s : State) (x c : BitVec 3) (a b : Reg) :
    exec (.tzset x a b c) s = done (matrixIssue (.tzset x a b c) [a, b] (·.rd a) (·.rd b)) s := rfl

theorem exec_mburst (s : State) (a : Reg) : exec (.mburst a) s = execMburst a s := rfl

/-- MBURST of more than 4,096 (R282). -/
theorem execMburst_of_excess (s : State) (a : Reg) (hready : s.ready [a] [] = true) (hspec : s.speculative = false)
    (hentry : s.myEntry = none) (hexl : s.th.exl = false) (h : 4096 < (s.rd a).toNat) :
    execMburst a s = .next (s.trapped 3 5 (s.rd a)) := by
  apply done_of_error
  rw [act_bind_ok _ _ _ _ _ (useRegs_ready s [a] [] hready), act_bind_ok _ _ _ _ _ (speculative_escalate s hspec), act_bind, act_get]
  simp only [decide_eq_false (Nat.not_le.mpr h)]
  exact act_bind_error _ _ _ _ (act_require_fails s 3 5 _ hentry hexl (by decide))

theorem matrixAcceptance_queued : Claim.matrixAcceptance := by
  refine ⟨?_, ?_, ?_, ?_, ?_⟩
  · intro s x p hfree
    rw [exec_mzero]
    exact matrixIssue_of_checked s s _ [] _ _ [] hfree rfl rfl rfl rfl
  · intro s x c a b hfree hready
    rw [exec_tzset]
    exact matrixIssue_of_checked s s _ _ _ _ [] hfree hready rfl rfl rfl
  · intro s x p m a b ea eb hfree hready hm hea heb
    have hmul (sparse : Bool) := matrixChecks_of_mmaFits s sparse x p m a b (s.rd a) (s.rd b) (s.rd a) ea eb hm hea heb
    constructor
    · intro hfits
      rw [exec_tensorCommand s _ x p m a b (by simp)]
      exact matrixIssue_of_checked s s _ _ _ _ _ hfree hready (hmul false hfits) rfl rfl
    · intro hfits
      rw [exec_tensorCommand s _ x p m a b (by simp)]
      exact matrixIssue_of_checked s s _ _ _ _ _ hfree hready (hmul true hfits) rfl rfl
  · intro s x p m a b e hfree hready hm he hok
    have hwin (store : Bool) := matrixChecks_of_windowOk s store x p m a b (s.rd a) (s.rd b) (s.rd a) e hm he hok
    constructor
    · rw [exec_tensorCommand s _ x p m a b (by simp)]
      exact matrixIssue_of_checked s s _ _ _ _ _ hfree hready (hwin false nofun) rfl rfl
    · intro hwprot hhas
      rw [exec_tensorCommand s _ x p m a b (by simp)]
      exact matrixIssue_of_checked s s _ _ _ _ _ hfree hready (hwin true fun _ => ⟨hwprot, hhas⟩) rfl rfl
  · intro i s u x p m a b es hi hfree hready hchecks _ hcur hcores _
    rw [exec_tensorCommand s i x p m a b hi]
    exact matrixIssue_of_checked s u i _ _ _ es hfree hready hchecks hcur hcores

theorem matrixTraps : Claim.matrixTraps := by
  intro s x p m a b hfree hready hentry hexl
  refine ⟨?_, ?_, ?_⟩
  · intro i hi hen
    rw [exec_tensorCommand s i x p m a b hi]
    exact matrixIssue_of_refused s _ i _ _ _ hfree hready (matrixChecks_disabled s i x p m a b _ _ _ hi hen hentry hexl)
  · intro ea eb hea heb hpair
    rw [exec_tensorCommand s _ x p m a b (.inl rfl)]
    exact matrixIssue_of_refused s _ _ _ _ _ hfree hready (matrixChecks_mma_of_pair s x p m a b _ _ _ ea eb hea heb hpair hentry hexl)
  · intro hexcess
    obtain ⟨hspec, -, -⟩ := s.matrixFree_iff.mp hfree
    rw [exec_mburst]
    exact execMburst_of_excess s a (s.ready_of_subset _ _ _ _ hready (by simp) (by simp)) hspec hentry hexl hexcess

/-- Settles O49: the checks that hold leave the state to the acceptance, and the one that fails ends the instruction. -/
theorem matrixAcceptance : Obligations.MatrixAcceptance :=
  ⟨matrixAcceptance_queued, matrixTraps⟩

end Sys2Proof.Machine
end

section
/-! The tensor table and the code table (R58, R68, R73, R75, R76). -/

namespace Sys2Proof.Machine

/-! Tiles and their tensor caches. -/

theorem assocGet_assocSet_same (d v : α) (k : Nat) (l : List (Nat × α)) : assocGet d k (assocSet k v l) = v := by
  induction l with
  | nil => simp [assocSet, assocGet]
  | cons x l ih =>
    unfold assocSet
    split
    next => simp [assocGet]
    next hx =>
      split
      next => simp [assocGet]
      next => simp [assocGet, hx, ih]

@[simp] theorem State.tile_setTile_same (s : State) (t : Nat) (x : Tile) : (s.setTile t x).tile t = x :=
  assocGet_assocSet_same _ _ _ _

@[simp] theorem State.myTile_modTile (s : State) (f : Tile → Tile) : (s.modTile f).myTile = f s.myTile :=
  s.tile_setTile_same _ _

/-- What a drop leaves in a cache; 4,096 names every tensor of the ASID (R75). -/
theorem Tile.mem_dropTensors (t : Tile) (asid tid : Nat) (e : Nat × Nat × BitVec 512) :
    e ∈ (t.dropTensors asid tid).tcache ↔ e ∈ t.tcache ∧ ¬(e.1 = asid ∧ (tid = 4096 ∨ e.2.1 = tid)) := by
  simp only [Tile.dropTensors, List.mem_filter, Bool.not_eq_true', ← Bool.not_eq_true, Bool.and_eq_true, Bool.or_eq_true, beq_iff_eq]

/-! TRD, LUTLD and LUTRD (R58, R75). -/

theorem exec_trd (s : State) (d a b : Reg) : exec (.trd d a b) s = execTrd d a b s := rfl
theorem exec_lutld (s : State) (a b : Reg) : exec (.lutld a b) s = execLutld a b s := rfl
theorem exec_lutrd (s : State) (d a : Reg) : exec (.lutrd d a) s = execLutrd d a s := rfl

theorem execTrd_of_cached (s : State) (d a b : Reg) (x : Nat × Nat × BitVec 512) (hready : s.ready [a, b] [d] = true)
    (hen : s.th.ttbase.getLsbD 0 = true)
    (hx : (s.myTile.tcache.find? fun e => e.1 == wfield s.th.asid 13 0 && e.2.1 == wfield (s.rd a) 11 0) = some x) :
    execTrd d a b s = .next (s.finish 4 [a, b] [(d, x.2.2.extractLsb' (64 * wfield (s.rd b) 2 0) 64)]) := by
  apply done_of_ok
  rw [act_bind_ok _ _ _ _ _ (useRegs_ready s [a, b] [d] hready), act_bind, act_get]
  refine (act_bind_ok _ _ _ _ _ (act_require _ _ _ _ s hen)).trans ?_
  exact act_bind_ok _ _ _ _ _ (cachedEntry_of_cached s _ x hx)

theorem execTrd_disabled (s : State) (d a b : Reg) (hready : s.ready [a, b] [d] = true) (hen : s.th.ttbase.getLsbD 0 = false)
    (hentry : s.myEntry = none) (hexl : s.th.exl = false) : execTrd d a b s = .next (s.trapped 0 7 (s.rd a)) := by
  apply done_of_error
  rw [act_bind_ok _ _ _ _ _ (useRegs_ready s [a, b] [d] hready), act_bind, act_get]
  exact require_ttbase_disabled s 0 _ _ hen hentry hexl

theorem execLutld_of_ready (s : State) (a b : Reg) (h : s.ready [a, b] [] = true) :
    execLutld a b s = .next ((s.modCore fun c => { c with codes := s.rd b ++ s.rd a }).finish 4 [a, b] []) := by
  apply done_of_ok
  rw [act_bind_ok _ _ _ _ _ (useRegs_ready s [a, b] [] h)]
  rfl

/-- The halves of the code table by bit 0 of LUTRD's operand (R75). -/
theorem extractLsb'_half (lo hi : Word) (upper : Bool) :
    (hi ++ lo).extractLsb' (if upper then 64 else 0) 64 = if upper then hi else lo := by
  cases upper with
  | false => exact BitVec.extractLsb'_append_eq_right
  | true => exact BitVec.extractLsb'_append_eq_left

theorem execLutrd_of_codes (s : State) (d a : Reg) (lo hi : Word) (hready : s.ready [a] [d] = true) (hcodes : s.myCore.codes = hi ++ lo) :
    execLutrd d a s = .next (s.finish 4 [a] [(d, if (s.rd a).getLsbD 0 then hi else lo)]) := by
  unfold execLutrd
  rw [compute_ready d [a] _ s hready, hcodes, extractLsb'_half]

/-! TINV and its drops (R75, R76). -/

theorem exec_tinv (s : State) (a : Reg) (c : BitVec 3) : exec (.tinv a c) s = execTinv a c s := rfl
theorem exec_tensorCacheDrop (s : State) (i : Nat) : exec (.tensorCacheDrop i) s = execTensorCacheDrop i s := rfl

/-- The tensor that TINV names: bit 12 of g[a] names all of them. -/
def State.tinvTensor (s : State) (a : Reg) : Nat := if (s.rd a).getLsbD 12 then 4096 else wfield (s.rd a) 11 0

/-- The state once TINV's drop has reached the issuing tile. -/
def State.tinvHere (s : State) (a : Reg) : State :=
  s.modTile fun t => t.dropTensors (wfield s.th.asid 13 0) (s.tinvTensor a)

/-- The other tiles of TINV's scope. -/
def State.otherTiles (s : State) (c : BitVec 3) : List Nat := (scopeTiles c.toNat (tileOf s.cur)).filter (· != tileOf s.cur)

/-- The drop that TINV posts to the other tiles of its scope. -/
def State.tinvDrop (s : State) (a : Reg) (c : BitVec 3) : Drop :=
  { id := s.fresh, kind := 4, asid := wfield s.th.asid 13 0, page := s.tinvTensor a, targets := s.otherTiles c, applied := [], last := 0 }

/-- An identifier in g[a] is below 4,096, so only bit 12 names all tensors. -/
theorem State.tinvTensor_names (s : State) (a : Reg) (n : Nat) :
    (s.tinvTensor a = 4096 ∨ n = s.tinvTensor a) ↔ ((s.rd a).getLsbD 12 = true ∨ n = wfield (s.rd a) 11 0) := by
  have hlt : wfield (s.rd a) 11 0 < 4096 := Nat.mod_lt _ (by decide)
  unfold State.tinvTensor
  split
  next hall => simp only [hall, true_or]
  next hone => simp only [hone, Nat.ne_of_lt hlt, Bool.false_eq_true, false_or]

theorem State.mem_tinvHere (s : State) (a : Reg) (e : Nat × Nat × BitVec 512) :
    e ∈ (s.tinvHere a).myTile.tcache ↔ e ∈ s.myTile.tcache ∧
      ¬(e.1 = wfield s.th.asid 13 0 ∧ ((s.rd a).getLsbD 12 = true ∨ e.2.1 = wfield (s.rd a) 11 0)) := by
  rw [State.tinvHere, State.myTile_modTile, Tile.mem_dropTensors, s.tinvTensor_names]

theorem mem_scopeTiles_wide (scope tile : Nat) (h : 3 ≤ scope) : ∃ n, n ∈ scopeTiles scope tile ∧ n + 1 ∈ scopeTiles scope tile := by
  unfold scopeTiles
  rw [if_neg (by omega)]
  split
  next => exact ⟨tile / 4 * 4, by simp⟩
  next =>
    split
    next => exact ⟨tile / 128 * 128, by simp⟩
    next => exact ⟨0, List.mem_map.mpr ⟨0, by simp, rfl⟩, List.mem_map.mpr ⟨1, by simp, rfl⟩⟩

theorem State.otherTiles_narrow (s : State) (c : BitVec 3) (h : c.toNat < 3) : s.otherTiles c = [] := by
  simp [State.otherTiles, scopeTiles, h]

theorem State.otherTiles_wide (s : State) (c : BitVec 3) (h : 3 ≤ c.toNat) : s.otherTiles c ≠ [] := by
  obtain ⟨n, hn, hn'⟩ := mem_scopeTiles_wide c.toNat (tileOf s.cur) h
  intro hnil
  simp only [State.otherTiles, List.filter_eq_nil_iff, bne_iff_ne, Decidable.not_not] at hnil
  have := hnil n hn
  have := hnil (n + 1) hn'
  omega

/-- TINV before it has posted a drop: it ends at once where its scope holds no other tile, and waits for the posted drop where it
does. -/
theorem execTinv_of_unposted (s : State) (a : Reg) (c : BitVec 3) (hready : s.ready [a] [] = true) (hposted : s.th.posted = none) :
    execTinv a c s = .next (if s.otherTiles c = [] then (s.tinvHere a).finish 4 [a] []
      else { s.tinvHere a with
        drops := s.drops ++ [s.tinvDrop a c], fresh := s.fresh + 1
        th := { s.th with posted := some s.fresh, wait := some .memoryReply } }) := by
  unfold execTinv
  split
  next hnil =>
    apply done_of_ok
    rw [act_bind_ok _ _ _ _ _ (useRegs_ready s [a] [] hready), act_bind, act_get]
    simp only [hposted]
    refine (act_ite _ _ _ s).trans ((if_pos (List.isEmpty_iff.mpr hnil)).trans ?_)
    rfl
  next hne =>
    apply done_of_error
    rw [act_bind_ok _ _ _ _ _ (useRegs_ready s [a] [] hready), act_bind, act_get]
    simp only [hposted]
    refine (act_ite _ _ _ s).trans ((if_neg (mt List.isEmpty_iff.mp hne)).trans ?_)
    rfl

/-- TINV that has posted a drop ends once every target has acknowledged it. -/
theorem execTinv_of_acknowledged (s : State) (a : Reg) (c : BitVec 3) (n : Nat) (hready : s.ready [a] [] = true)
    (hposted : s.th.posted = some n) (hdrops : ∀ d ∈ s.drops, d.id = n → d.targets = []) :
    execTinv a c s = .next (({ s with drops := s.drops.filter fun d => d.id != n } : State).finish 4 [a] []) := by
  have hnone : ¬(s.drops.any fun d => d.id == n && !d.targets.isEmpty) = true := by
    simpa using hdrops
  apply done_of_ok
  rw [act_bind_ok _ _ _ _ _ (useRegs_ready s [a] [] hready), act_bind, act_get]
  simp only [hposted]
  exact (act_ite _ _ _ s).trans (if_neg hnone)

@[simp] theorem State.tile_dropApplied (s : State) (i t : Nat) : (s.dropApplied i).tile t = s.tile t := rfl

theorem execTensorCacheDrop_of_next (s : State) (i t : Nat) (d : Drop) (h : s.nextTarget i true = some (d, t)) :
    execTensorCacheDrop i s = .next ((s.setTile t ((s.tile t).dropTensors d.asid d.page)).dropApplied i) := by
  simp only [execTensorCacheDrop, h]

/-! TDEF (R75, R76). -/

theorem exec_tdef (s : State) (a b : Reg) : exec (.tdef a b) s = execTdef a b s := rfl

theorem execTdef_disabled (s : State) (a b : Reg) (hready : s.ready [a, b] [] = true) (hen : s.th.ttbase.getLsbD 0 = false)
    (hentry : s.myEntry = none) (hexl : s.th.exl = false) : execTdef a b s = .next (s.trapped 0 7 (s.rd a)) := by
  apply done_of_error
  rw [act_bind_ok _ _ _ _ _ (useRegs_ready s [a, b] [] hready), act_bind, act_get]
  exact require_ttbase_disabled s 0 _ _ hen hentry hexl

/-- No vector command is outstanding at the core, so no access waits for one (R246). -/
theorem waitVmem_of_idle (s : State) (pa n : Nat) (h : s.myCore.vq = []) : waitVmem pa n s = .ok ((), s) :=
  act_waitUntil _ _ s (by simp [h])

/-- The check of an image that passes where it is made, before the rest of an action. -/
theorem act_check_bind (p : Prop) [Decidable p] (o : Option Nat) (g : Nat → Act Unit) (f : Unit → Act β) (s : State) :
    (p → o = none) →
      (if p then (match o with
        | some c => g c >>= f
        | none => f ()) else f ()) s = f () s := by
  intro h
  split
  next hp => simp only [h hp]
  next => rfl

/-- The state once TDEF's image has performed at its entry's address and the tile's copy is dropped. -/
def State.defined (s : State) (pa : Nat) (bs : List Byte) (tid : Nat) : State :=
  (s.perform pa bs).modTile fun t => t.dropTensors (wfield s.th.asid 13 0) tid

/-- TDEF of an image that is read and passes its checks, to an entry that its home grants. -/
theorem execTdef_of_granted (s u v w : State) (a b : Reg) (bs : List Byte) (l : Loc) (hready : s.ready [a, b] [] = true)
    (hen : s.th.ttbase.getLsbD 0 = true) (hread : readMem (s.rd b) 0#2 64 false s = .ok (bs, u))
    (hcheck : (BitVec.ofNat 512 (leNat bs)).getLsbD 319 = true → tensorCheck (BitVec.ofNat 512 (leNat bs)) = none)
    (hlocate : locate (BitVec.ofNat 64 (entryAddr s.th.ttbase (wfield (s.rd a) 11 0))) 0#2 64 .store u = .ok (l, v))
    (hvq : v.myCore.vq = []) (hsb : v.th.sb = []) (hstopped : v.stopped l.pa = false)
    (hhome : v.homeLines (.slot v.cur) v.requester l.pa 64 true = (w, true)) (hpoison : w.poisonNarrow l.pa 64 = false) :
    execTdef a b s = .next (((w.defined l.pa bs (wfield (s.rd a) 11 0)).storeStales (w.defined l.pa bs (wfield (s.rd a) 11 0)).cur
      l.pa 64).finish 4 [a, b] []) := by
  apply done_of_ok
  rw [act_bind_ok _ _ _ _ _ (useRegs_ready s [a, b] [] hready), act_bind, act_get]
  refine (act_bind_ok _ _ _ _ _ (act_require _ _ _ _ s hen)).trans ?_
  refine (act_bind_ok _ _ _ _ _ hread).trans ?_
  refine (act_check_bind _ _ _ _ u hcheck).trans ?_
  refine (act_bind_ok _ _ _ _ _ hlocate).trans ?_
  refine (act_bind_ok _ _ _ _ _ (waitVmem_of_idle v l.pa 64 hvq)).trans ?_
  refine (act_bind_ok _ _ v v () (act_waitUntil _ _ v (by simp [hsb]))).trans ?_
  refine (act_bind_ok _ _ v v v rfl).trans ?_
  simp only [hhome, hstopped, Bool.not_true, Bool.or_self, Bool.false_eq_true, if_false]
  refine (act_bind_ok _ _ v w () rfl).trans ?_
  refine (act_bind_ok _ _ w w w rfl).trans ?_
  simp only [hpoison, Bool.false_eq_true, if_false]
  rfl

/-- Settles O51: the equation of each instruction of the tensor table and of the code table, and what a drop leaves in a cache. -/
theorem tensorResults : Obligations.TensorResults := by
  refine ⟨?_, ?_, ?_, ?_, ?_, ?_, ?_, ?_, ?_⟩
  · intro s d a b x hready hen hx
    rw [exec_trd]
    exact execTrd_of_cached s d a b x hready hen hx
  · intro s a b hready
    rw [exec_lutld]
    exact execLutld_of_ready s a b hready
  · intro s d a lo hi hready hcodes
    rw [exec_lutrd]
    exact execLutrd_of_codes s d a lo hi hready hcodes
  · intro s a c hready hposted hscope
    rw [exec_tinv, execTinv_of_unposted s a c hready hposted, if_pos (s.otherTiles_narrow c hscope)]
    exact ⟨s.tinvHere a, rfl, rfl, rfl, s.mem_tinvHere a⟩
  · intro s a c hready hposted hscope
    rw [exec_tinv, execTinv_of_unposted s a c hready hposted, if_neg (s.otherTiles_wide c hscope)]
    exact ⟨_, s.tinvDrop a c, rfl, rfl, rfl, rfl, rfl, rfl, rfl, rfl⟩
  · intro s a c n hready hposted hdrops
    rw [exec_tinv]
    exact execTinv_of_acknowledged s a c n hready hposted hdrops
  · intro s i t d hnext
    rw [exec_tensorCacheDrop, execTensorCacheDrop_of_next s i t d hnext]
    refine ⟨_, rfl, rfl, rfl, fun e => ?_⟩
    rw [State.tile_dropApplied, State.tile_setTile_same, Tile.mem_dropTensors]
  · intro s u v a b bs l hready hen hread hcheck hlocate hvq hsb hstopped h hgrant hpoison hasid
    rw [exec_tdef, execTdef_of_granted s u v h.1 a b bs l hready hen hread hcheck hlocate hvq hsb hstopped (Prod.ext rfl hgrant) hpoison,
      State.defined, hasid]
  · intro s d a b hready hen hentry hexl
    rw [exec_trd, exec_tdef]
    exact ⟨execTrd_disabled s d a b hready hen hentry hexl,
      execTdef_disabled s a b (s.ready_of_subset _ _ _ _ hready (by simp) (by simp)) hen hentry hexl⟩

end Sys2Proof.Machine
end

section
/-! Requests of the coherence protocol beside a die entry that lists no cluster (R131, R134, R135, R137). -/

namespace Sys2Proof.Machine

/-! A state whose directories agree on line 0, homed on die 0: core 0 of die 0 owns it, and die 1 keeps an entry that lists no
cluster. -/

/-- Core 0 alone, in the cluster directory of die 0's cluster 0. -/
def ownerEntry : ClusterEntry := { excl := true, coarse := false, ptrs := [0], tiles := 0 }
/-- Die 0, which is the line's home and lists the owner's cluster. -/
def ownerDie : Die := { Die.reset with ddir := [(0, { excl := true, clusters := 1 })], cdir := [(clusterKey 0 0, ownerEntry)] }
/-- A die that keeps an entry for the line and lists no cluster in it. -/
def hollowDie : Die := { Die.reset with ddir := [(0, { excl := false, clusters := 0 })] }
/-- A read of the line that has not reached the directories. -/
def unsentRead : Miss :=
  { line := 0, want := .gets, instr := false, sent := false, granted := none, noInstall := false, nt := false, loads := [], mask := 1
    by_ := .nonSpec }
/-- The device: core 1024, of die 1, is to read the line; the package directory records die 1 as a sharer. -/
def hollowState : State :=
  { State.reset with
    dies := [(0, ownerDie), (1, hollowDie)], pdir := [(0, { st := 1, owner := 0, dies := 2 })]
    cores := [(1024, { Core.reset with misses := [unsentRead] })] }

theorem die_hollowState (d : Nat) : hollowState.die d = if d = 0 then ownerDie else if d = 1 then hollowDie else Die.reset := by
  simp only [State.die, hollowState, assocGet, eq_comm]

theorem clusterEntry_hollowState (d k : Nat) :
    mruFind (clusterKey 0 k) (hollowState.die d).cdir = if d = 0 ∧ k = 0 then some ownerEntry else none := by
  rw [die_hollowState]
  by_cases h0 : d = 0
  · by_cases hk : k = 0
    · simp [h0, hk, ownerDie, mruFind]
    · simp [h0, hk, Ne.symm hk, ownerDie, mruFind, clusterKey]
  · by_cases h1 : d = 1 <;> simp [h0, h1, hollowDie, Die.reset, mruFind]

theorem dieEntry_hollowState (d : Nat) : mruFind 0 (hollowState.die d).ddir =
    if d = 0 then some { excl := true, clusters := 1 } else if d = 1 then some { excl := false, clusters := 0 } else none := by
  rw [die_hollowState]
  by_cases h0 : d = 0
  · simp [h0, ownerDie, mruFind]
  · by_cases h1 : d = 1 <;> simp [h0, h1, hollowDie, Die.reset, mruFind]

theorem packageEntry_hollowState : mruFind 0 hollowState.pdir = some { st := 1, owner := 0, dies := 2 } := rfl

theorem rdc_hollowState (d : Nat) : (hollowState.die d).rdc = [] := by
  rw [die_hollowState]
  split
  next => rfl
  next => split <;> rfl

theorem lineDie_zero : lineDie 0 = some 0 := by decide

/-- The levels agree: `State.agreed` asks of a die's entry that the package lists the die, and not that the entry names a cluster. -/
theorem agreed_hollowState : hollowState.agreed 0 := by
  have hunowned (d : Nat) : ¬∃ p, mruFind 0 hollowState.pdir = some p ∧ p.st = 2 ∧ p.owner = d := by
    simp [packageEntry_hollowState]
  simp only [State.agreed, clusterEntry_hollowState, dieEntry_hollowState, lineDie_zero, rdc_hollowState]
  refine ⟨?listed, ?named, ?shared, ?owned, ?alone⟩
  case listed => decide
  case named =>
    intro d hd k hk e he
    obtain ⟨-, he⟩ := Option.ite_none_right_eq_some.mp he
    obtain rfl := Option.some.inj he
    decide
  case shared =>
    intro d hd hne hsome
    have h1 : d = 1 := by grind
    exact .inr ⟨_, packageEntry_hollowState, by decide, by rw [h1]; rfl⟩
  case owned =>
    intro d hd o ho
    exact absurd ho (hunowned o)
  case alone =>
    intro d hd k hk e he hexcl
    obtain ⟨⟨rfl, rfl⟩, -⟩ := Option.ite_none_right_eq_some.mp he
    refine ⟨.inl rfl, fun d' hd' => ⟨fun k' hk' hne => if_neg ?_, fun _ r hr => nomatch hr⟩⟩
    rintro ⟨rfl, rfl⟩
    exact hne rfl

/-- Die 1 serves the read out of its empty entry: the line being held elsewhere, the read ends in S, for which any entry will do
(R135). No message goes to the owner. -/
theorem request_hollowState : (hollowState.request 1024 0 .gets).txns.map (·.out) = [[]] := by decide +kernel

theorem owner_hollowState : 0 ∈ hollowState.owners 0 := by decide +kernel

theorem not_coherenceRequests : ¬Claim.coherenceRequests := by
  intro hclaim
  obtain ⟨hserved, -, -⟩ := hclaim hollowState 1024 0 unsentRead .gets (.gets 1024 0) (.inl ⟨rfl, rfl⟩) (by decide) (by decide) (by decide)
  obtain ⟨u, t, hexec, htxns, -, -, -, -, -, -, -, -, -, -, hreads⟩ := hserved nofun rfl agreed_hollowState
  obtain rfl : hollowState.request 1024 0 .gets = u := Host.Outcome.next.inj hexec
  have hone : (hollowState.request 1024 0 .gets).txns = [t] := htxns
  have hout : t.out = [] := by simpa only [hone, List.map_cons, List.map_nil, List.cons.injEq, and_true] using request_hollowState
  have hsent := (hreads rfl { core := 0, fwd := true, late := false }).mpr ⟨0, owner_hollowState, .inl (by decide), rfl⟩
  rw [hout] at hsent
  exact nomatch hsent

/-- Refutes O55: its first part asks for a FWD to every exclusive owner when a core reads. Where the owner's cluster is on the line's home
die and the reader's die keeps an entry that lists no cluster, which `State.agreed` allows, that die serves the read itself and the owner
is sent nothing. -/
theorem not_coherenceResults : ¬Obligations.CoherenceResults := by
  intro h
  exact not_coherenceRequests h.1

end Sys2Proof.Machine
end

section
/-! What the updates of one tile, die or link show of it and of the others, and error records (R146, R383, R407). -/

namespace Sys2Proof.Machine

/-! Keyed components. -/

theorem assocGet_assocSet_of_ne (d v : α) {j k : Nat} (h : j ≠ k) (l : List (Nat × α)) :
    assocGet d j (assocSet k v l) = assocGet d j l := by
  induction l with
  | nil => simp [assocSet, assocGet, Ne.symm h]
  | cons x l ih =>
    unfold assocSet
    split
    next hx => simp [assocGet, hx, Ne.symm h]
    next =>
      split
      next => simp [assocGet, Ne.symm h]
      next => simp [assocGet, ih]

theorem assocGet_of_absent (d : α) (k : Nat) (l : List (Nat × α)) (h : k ∉ l.map Prod.fst) : assocGet d k l = d := by
  induction l with
  | nil => rfl
  | cons x l ih =>
    simp only [List.map_cons, List.mem_cons, not_or] at h
    simp only [assocGet, if_neg (Ne.symm h.1), ih h.2]

theorem assocFind_assocSet_same (v : α) (k : Nat) (l : List (Nat × α)) : assocFind k (assocSet k v l) = some v := by
  induction l with
  | nil => simp [assocSet, assocFind]
  | cons x l ih =>
    unfold assocSet
    split
    next => simp [assocFind]
    next hx =>
      split
      next => simp [assocFind]
      next => simp [assocFind, hx, ih]

@[simp] theorem State.tile_modTileAt_same (s : State) (t : Nat) (f : Tile → Tile) : (s.modTileAt t f).tile t = f (s.tile t) :=
  s.tile_setTile_same t _

theorem State.tile_modTileAt_of_ne (s : State) {t x : Nat} (f : Tile → Tile) (h : x ≠ t) : (s.modTileAt t f).tile x = s.tile x :=
  assocGet_assocSet_of_ne _ _ h _

@[simp] theorem State.die_modDie_same (s : State) (d : Nat) (f : Die → Die) : (s.modDie d f).die d = f (s.die d) :=
  assocGet_assocSet_same _ _ _ _

theorem State.link_setLink_same (s : State) (l : Nat) (x : Link) : (s.setLink l x).link l = x := by
  simp [State.link, State.setLink, get4, set4]

theorem State.link_setLink_of_ne (s : State) {k l : Nat} (x : Link) (hk : k < 4) (hl : l < 4) (h : k ≠ l) :
    (s.setLink l x).link k = s.link k := by
  have hne : l % 4 ≠ k % 4 := by omega
  simp [State.link, State.setLink, get4, set4, hne]

/-! Sequences of updates. -/

/-- What every update of a sequence keeps, the sequence keeps. -/
theorem foldl_keeps {p : State → β} {f : State → α → State} (h : ∀ s a, p (f s a) = p s) (l : List α) (s : State) :
    p (l.foldl f s) = p s := by
  induction l generalizing s with
  | nil => rfl
  | cons a l ih => exact (ih (f s a)).trans (h s a)

/-- A sequence of updates that each change nothing of a state changes nothing of it. -/
theorem foldl_fixed_of_mem {f : State → α → State} {s : State} {l : List α} (h : ∀ a ∈ l, f s a = s) : l.foldl f s = s := by
  induction l with
  | nil => rfl
  | cons a l ih =>
    rw [List.foldl_cons, h a (by simp)]
    exact ih fun b hb => h b (by simp [hb])

/-! Error records (R383). -/

/-- A die whose log has room keeps the record behind the earlier ones, and nothing else of it changes. -/
theorem State.die_logError (s : State) (d c : Nat) (v : Word) (h : (s.die d).errlog.length < 64) :
    ∃ r : ErrRecord, r.code = c ∧ r.tval = v ∧ (s.logError d c v).die d = { s.die d with errlog := (s.die d).errlog ++ [r] } := by
  rw [State.logError, State.die_modDie_same, if_neg (by omega)]
  refine ⟨_, ?_, ?_, rfl⟩
  · rfl
  · rfl

theorem State.die_logErrorFree (s : State) (d c : Nat) (h : (s.die d).errlog.length < 64) :
    ∃ r : ErrRecord, r.code = c ∧ (s.logErrorFree d c).die d = { s.die d with errlog := (s.die d).errlog ++ [r] } := by
  obtain ⟨r, hcode, -, hdie⟩ := s.freeWord.2.die_logError d c s.freeWord.1 h
  exact ⟨r, hcode, hdie⟩

/-! Poison (R147). -/

theorem State.poisoned_poisonUnit (s : State) (pa n a k : Nat) (h : pa < a + k) (h' : a < pa + n) : (s.poisonUnit pa n).poisoned a k = true := by
  simp [State.poisonUnit, State.poisoned, h, h']

end Sys2Proof.Machine
end

section
/-! Errors, takeover, links, ports and the power controller (R144, R146, R147, R383, R396, R407, R413). -/

namespace Sys2Proof.Machine

theorem exec_correctedError (s : State) (t : Nat) :
    exec (.correctedError t) s = .next (s.modTileAt t fun x => { x with corrected := x.corrected + 1 }) := rfl

/-! Uncorrectable errors in local memory (R146, R147). -/

/-- The unit that detects an error in local memory is the 8-byte word. -/
theorem State.dataError_of_inLm (s : State) (t a : Nat) (h : inLm a = true) : s.dataError t a = s.poisonUnit (a / 8 * 8) 8 := by
  simp only [State.dataError, h, if_true]

theorem inLm_lt (a : Nat) (h : inLm a = true) : a < 2 ^ 52 := by
  simp only [inLm, Bool.and_eq_true, decide_eq_true_eq] at h
  unfold lmBase at h
  omega

theorem exec_uncorrectableError_of_inLm (s : State) (t a : Nat) (h : inLm a = true) :
    exec (.uncorrectableError 16 t a) s =
      .next ((s.poisonUnit (a / 8 * 8) 8).logError (t / 128) (code 7 16) (BitVec.ofNat 64 a)) := by
  have hlt : ¬2 ^ 52 ≤ a := Nat.not_le.mpr (inLm_lt a h)
  rw [← s.dataError_of_inLm t a h]
  exact congrArg Host.Outcome.next (if_neg hlt)

/-! Takeover (R396). -/

/-- What assigning the slots of a tile never touches: the dies and memory. -/
def State.diesAndMem (s : State) : List (Nat × Die) × List Host.Cell := (s.dies, s.mem)

theorem State.die_of_diesAndMem {s u : State} (h : u.diesAndMem = s.diesAndMem) (d : Nat) : u.die d = s.die d :=
  congrArg (fun x : List (Nat × Die) × List Host.Cell => assocGet Die.reset d x.1) h
theorem State.mem_of_diesAndMem {s u : State} (h : u.diesAndMem = s.diesAndMem) : u.mem = s.mem := congrArg Prod.snd h

theorem State.diesAndMem_modThread (s : State) (h : Nat) (f : Thread → Thread) : (s.modThread h f).diesAndMem = s.diesAndMem :=
  Prod.ext (s.setThread_dies h _) (s.setThread_mem h _)

theorem State.diesAndMem_passFree (s : State) (t h : Nat) : (s.passFree t h).diesAndMem = s.diesAndMem := by
  unfold State.passFree
  split
  next =>
    split
    next => exact s.diesAndMem_modThread h _
    next => rfl
  next => rfl

theorem State.diesAndMem_markMove (s : State) (t h : Nat) : (s.markMove t h).diesAndMem = s.diesAndMem := by
  unfold State.markMove
  dsimp only
  split
  next => rfl
  next => exact s.diesAndMem_modThread h _

theorem State.diesAndMem_rebalance (s : State) (t : Nat) (b : Bool) : (s.rebalance t b).diesAndMem = s.diesAndMem := by
  simp only [State.rebalance]
  rw [foldl_keeps fun s h => s.diesAndMem_markMove t h, foldl_keeps fun s h => s.diesAndMem_passFree t h]
  split
  next => rfl
  next => split <;> rfl

/-- The die once a spare has taken a cluster's number. -/
def Die.takenOver (x : Die) (c : Nat) : Die := ({ x with takeover := x.takeover.filter (· != c) } : Die).replace c

/-- A takeover that is under way ends with the spare in the cluster's place and a record of 7.19; the shares of its tiles are assigned
anew, which changes no die and no memory. -/
theorem exec_takeoverComplete_of_pending (s : State) (d c : Nat) (h : c ∈ (s.die d).takeover) :
    ∃ u : State, exec (.takeoverComplete d c) s = .next u ∧
      u.diesAndMem = ((s.modDie d (·.takenOver c)).logErrorFree d (code 7 19)).diesAndMem := by
  have hpending : (s.die d).takeover.contains c = true := by simpa using h
  refine ⟨_, congrArg Host.Outcome.next (if_pos hpending), ?_⟩
  rw [foldl_keeps fun s t => s.diesAndMem_rebalance t false]
  rfl

/-! Links and ports (R383, R407, R408). -/

/-- Every die has two links: one link alone isolates none. -/
theorem exists_other_link : ∀ d < 4, ∀ l < 4, ∃ k < 4, k ≠ l ∧ ((linkDies k).1 = d ∨ (linkDies k).2 = d) := by decide

theorem State.not_isolated (s : State) (l : Nat) (hl : l < 4) (h : ∀ k < 4, k ≠ l → (s.link k).state ≠ .down) : s.isolated = false := by
  simp only [State.isolated, List.any_eq_false, List.mem_range]
  intro d hd hall
  obtain ⟨k, hk, hne, hend⟩ := exists_other_link d hd l hl
  have hk' := List.all_eq_true.mp hall k (List.mem_range.mpr hk)
  simp only [Bool.or_eq_true, Bool.and_eq_true, bne_iff_ne, beq_iff_eq] at hk'
  rcases hk' with ⟨h1, h2⟩ | hdown
  · exact hend.elim h1 h2
  · exact h k hk hne hdown

/-- The state once a link has gone down: its record made and the relays picked anew. -/
def State.linkLost (s : State) (l : Nat) : State :=
  let u := (s.setLink l { s.link l with state := .down }).logErrorFree (linkDies l).1 (code 6 48)
  { u with relays := u.pickRelays u.relays }

theorem State.link_linkLost_same (s : State) (l : Nat) : ((s.linkLost l).link l).state = .down :=
  congrArg Link.state (s.link_setLink_same l _)

theorem State.link_linkLost_of_ne (s : State) {k l : Nat} (hk : k < 4) (hl : l < 4) (h : k ≠ l) : (s.linkLost l).link k = s.link k :=
  s.link_setLink_of_ne _ hk hl h

/-- A link that goes down where every other carries traffic brings no reset. -/
theorem exec_linkDown_of_others (s : State) (l : Nat) (hl : l < 4) (hup : (s.link l).state ≠ .down)
    (h : ∀ k < 4, k ≠ l → (s.link k).state ≠ .down) : exec (.linkDown l) s = .next (s.linkLost l) := by
  have hjoined : (s.linkLost l).isolated = false :=
    State.not_isolated _ l hl fun k hk hne => by rw [s.link_linkLost_of_ne hk hl hne]; exact h k hk hne
  have hrun : ¬((s.linkLost l).phase = .run ∧ (s.linkLost l).isolated = true) := by simp [hjoined]
  exact congrArg Host.Outcome.next ((if_neg hup).trans (if_neg hrun))

theorem exec_flitCrcFailure_of_up (s : State) (l : Nat) (h : (s.link l).state = .up) :
    exec (.flitCrcFailure l) s = .next (s.setLink l { s.link l with errors := (s.link l).errors + 1 }) :=
  congrArg Host.Outcome.next (if_pos (by simp [Link.alive, h]))

theorem exec_linkDegraded_of_up (s : State) (l : Nat) (h : (s.link l).state = .up) :
    exec (.linkDegraded l) s =
      .next ((s.setLink l { s.link l with state := .degraded }).logErrorFree (linkDies l).1 (code 6 49)) :=
  congrArg Host.Outcome.next (if_pos (.inl h))

theorem exec_cxlFailure_poison (s : State) (p a : Nat) (h : p < 8) :
    exec (.cxlFailure p true a) s = .next ((s.poisonUnit (a / 64 * 64) 64).logErrorFree (p / 4 * 2) (code 6 51)) :=
  congrArg Host.Outcome.next (if_neg (Nat.not_le.mpr h))

theorem exec_cxlFailure_port (s : State) (p a : Nat) (h : p < 8) :
    exec (.cxlFailure p false a) s = .next (({ s with
      cxlDown := if s.cxlDown.contains p then s.cxlDown else s.cxlDown ++ [p] } : State).logErrorFree (p / 4 * 2) (code 6 50)) :=
  congrArg Host.Outcome.next (if_neg (Nat.not_le.mpr h))

/-! The power controller (R413). -/

/-- A tile that the power controller delays no longer. -/
def State.undelay (s : State) (t : Nat) : State := s.modTileAt t fun x => { x with delayed := false }

@[simp] theorem State.undelay_mem (s : State) (t : Nat) : (s.undelay t).mem = s.mem := rfl

theorem State.delayed_undelay (s : State) (t x : Nat) :
    ((s.undelay t).tile x).delayed = if x = t then false else (s.tile x).delayed := by
  split
  next h => rw [h, State.undelay, State.tile_modTileAt_same]
  next h => rw [State.undelay, State.tile_modTileAt_of_ne _ _ h]

theorem State.delayed_foldl_undelay (l : List (Nat × Tile)) (s : State) (x : Nat)
    (h : x ∈ l.map Prod.fst ∨ (s.tile x).delayed = false) : ((l.foldl (fun s t => s.undelay t.1) s).tile x).delayed = false := by
  induction l generalizing s with
  | nil => simpa using h
  | cons t l ih =>
    apply ih
    rw [State.delayed_undelay]
    by_cases hx : x = t.1
    · exact .inr (if_pos hx)
    · simpa [hx] using h

/-- What the power controller does with one tile at a sample. -/
def delayStep (w : Nat) (s : State) (t : Nat × Tile) : State :=
  if s.powerCap < w then (s.choose 2).2.modTileAt t.1 fun x => { x with delayed := (s.choose 2).1 == 1 } else s.undelay t.1

theorem delayStep_of_within (s : State) (t : Nat × Tile) (w : Nat) (h : w ≤ s.powerCap) : delayStep w s t = s.undelay t.1 :=
  if_neg (Nat.not_lt.mpr h)

theorem foldl_delayStep_of_within (l : List (Nat × Tile)) (s : State) (w : Nat) (h : w ≤ s.powerCap) :
    l.foldl (delayStep w) s = l.foldl (fun s t => s.undelay t.1) s := by
  induction l generalizing s with
  | nil => rfl
  | cons t l ih =>
    rw [List.foldl_cons, List.foldl_cons, delayStep_of_within s t w h]
    exact ih _ h

/-- Within the cap every tile that the device lists is set free. -/
theorem exec_powerControlSample (s : State) (w : Nat) (h : w ≤ s.powerCap) :
    exec (.powerControlSample w) s = .next (s.tiles.foldl (fun s t => s.undelay t.1) s) :=
  congrArg Host.Outcome.next (foldl_delayStep_of_within s.tiles s w h)

theorem State.delayed_of_unlisted (s : State) (t : Nat) (h : t ∉ s.tiles.map Prod.fst) : (s.tile t).delayed = false := by
  rw [State.tile, assocGet_of_absent _ t s.tiles h]
  rfl

end Sys2Proof.Machine
end

section
/-! Power gating (R144, R414): what the moves of cached lines leave as it is, and the tiles of a cluster one by one. -/

namespace Sys2Proof.Machine

/-! Moves of cached lines keep memory, and which tiles are to be gated. -/

/-- Memory, and which tiles are to be gated. -/
def State.kept (s : State) : List Host.Cell × (Nat → Bool) := (s.mem, fun t => (s.tile t).gating)

theorem State.kept_modTileAt (s : State) (t : Nat) (f : Tile → Tile) (h : (f (s.tile t)).gating = (s.tile t).gating) :
    (s.modTileAt t f).kept = s.kept := by
  refine Prod.ext rfl (funext fun x => ?_)
  by_cases hx : x = t
  · simp only [State.kept, hx, State.tile_modTileAt_same, h]
  · simp only [State.kept, s.tile_modTileAt_of_ne f hx]

theorem State.kept_setL2 (s : State) (t : Nat) (f : Tile → List (Nat × Bool)) : (s.modTileAt t fun x => { x with l2 := f x }).kept = s.kept :=
  s.kept_modTileAt t _ rfl

@[simp] theorem State.kept_modCoreAt (s : State) (c : Nat) (f : Core → Core) : (s.modCoreAt c f).kept = s.kept := rfl

@[simp] theorem State.kept_l2WriteBack (s : State) (l : Nat) : (s.l2WriteBack l).kept = s.kept := by
  unfold State.l2WriteBack
  split <;> rfl

@[simp] theorem State.kept_installL2Line (s : State) (l : Nat) (dirty : Bool) : (s.installL2Line l dirty).kept = s.kept := by
  unfold State.installL2Line
  split
  next => split <;> rfl
  next d _ =>
    dsimp only
    split
    next => split <;> rfl
    next =>
      have hclean : (if dirty = true then { s with l2behind := mruErase l s.l2behind } else s).kept = s.kept := by
        split <;> rfl
      split
      next => exact (State.kept_setL2 _ _ _).trans hclean
      next =>
        split
        next => exact (State.kept_l2WriteBack _ _).trans ((State.kept_setL2 _ _ _).trans hclean)
        next => exact (State.kept_setL2 _ _ _).trans hclean

@[simp] theorem State.kept_dataUp (s : State) (d l : Nat) : (s.dataUp d l).kept = s.kept := by
  unfold State.dataUp
  split
  next => exact s.kept_installL2Line l true
  next =>
    split
    next => rfl
    next =>
      split
      next => exact s.kept_installL2Line l true
      next => rfl

@[simp] theorem State.kept_dieGone (s : State) (d l : Nat) : (s.dieGone d l).kept = s.kept := by
  unfold State.dieGone
  split
  next => dsimp only; split <;> rfl
  next => rfl

@[simp] theorem State.kept_dieGoneUnlessRdc (s : State) (d l : Nat) : (s.dieGoneUnlessRdc d l).kept = s.kept := by
  unfold State.dieGoneUnlessRdc
  split
  next => rfl
  next => exact s.kept_dieGone d l

@[simp] theorem State.kept_dropCluster (s : State) (d k l : Nat) : (s.dropCluster d k l).kept = s.kept := by
  unfold State.dropCluster
  dsimp only
  split
  next => exact State.kept_dieGoneUnlessRdc _ d l
  next => rfl

@[simp] theorem State.kept_dropDie (s : State) (d l : Nat) : (s.dropDie d l).kept = s.kept :=
  State.kept_dieGoneUnlessRdc _ d l

@[simp] theorem State.kept_dropRdc (s : State) (d l : Nat) : (s.dropRdc d l).kept = s.kept := by
  unfold State.dropRdc
  dsimp only
  split
  next => rw [State.kept_installL2Line, State.kept_dropDie]; rfl
  next => rw [State.kept_dropDie]; rfl

@[simp] theorem State.kept_dropLine (s : State) (l : Nat) : (s.dropLine l).kept = s.kept := by
  have hdies : ((List.range 4).foldl (fun s d => s.dropRdc d l) s).kept = s.kept :=
    foldl_keeps (fun s d => s.kept_dropRdc d l) _ s
  rw [← hdies, State.dropLine]
  generalize (List.range 4).foldl (fun s d => s.dropRdc d l) s = u
  cases lineDie l with
  | none => rfl
  | some d => exact u.kept_setL2 (lineTile d l) fun x => mruErase l x.l2

@[simp] theorem State.kept_seize (s : State) (l c : Nat) : (s.seize l c).kept = s.kept := by
  unfold State.seize
  dsimp only
  split
  next => rw [State.kept_dataUp]; rfl
  next => rfl

theorem State.kept_seizes (s : State) (l : Nat) (cs : List Nat) : (cs.foldl (fun s c => s.seize l c) s).kept = s.kept :=
  foldl_keeps (fun s c => s.kept_seize l c) cs s

@[simp] theorem State.kept_recallDie (s : State) (d l : Nat) : (s.recallDie d l).kept = s.kept := by
  rw [State.recallDie, State.kept_dropRdc, State.kept_seizes]

@[simp] theorem State.kept_recallCluster (s : State) (d k l : Nat) : (s.recallCluster d k l).kept = s.kept := by
  rw [State.recallCluster, State.kept_dropCluster, State.kept_seizes]

@[simp] theorem State.kept_invalidateLine (s : State) (l : Nat) : (s.invalidateLine l).kept = s.kept := by
  rw [State.invalidateLine, State.kept_dropLine, State.kept_seizes]

/-- Emptying a tile keeps memory, since State.mem already has the latest bytes, and the gating of every tile. -/
theorem State.kept_emptyTile (s : State) (t : Nat) : (s.emptyTile t).kept = s.kept := by
  have hl2 (s : State) (l : Nat × Bool) : (if l.2 = true then s.l2WriteBack l.1 else s).kept = s.kept := by
    split
    next => exact s.kept_l2WriteBack l.1
    next => rfl
  unfold State.emptyTile
  dsimp only
  rw [State.kept_setL2, foldl_keeps hl2, foldl_keeps fun s e => s.kept_recallCluster _ _ _,
    foldl_keeps fun s e => s.kept_recallDie _ _, foldl_keeps fun s c => s.kept_modCoreAt c _, foldl_keeps State.kept_invalidateLine]

theorem State.l2_emptyTile (s : State) (t : Nat) : ((s.emptyTile t).tile t).l2 = [] := by
  unfold State.emptyTile
  rw [State.tile_modTileAt_same]

/-! The tiles of a cluster one by one. -/

/-- What REGION_GATING does with one tile of the cluster. -/
def State.gateTile (s : State) (t : Nat) : State :=
  if !(s.tile t).gating then s
  else if s.tileInUse t then s.modTileAt t fun x => { x with gating := false }
  else if (tileCores t).any fun c => !(s.core c).misses.isEmpty then s
  else (s.emptyTile t).modTileAt t fun x => { x with gating := false, gated := true }

theorem exec_regionGating (s : State) (d c : Nat) : exec (.regionGating d c) s = .next ((clusterTiles d c).foldl State.gateTile s) := rfl

theorem State.gateTile_of_unnamed (s : State) (t : Nat) (h : (s.tile t).gating = false) : s.gateTile t = s :=
  if_pos (by simp [h])

theorem State.gateTile_of_used (s : State) (t : Nat) (h : (s.tile t).gating = true) (hused : s.tileInUse t = true) :
    s.gateTile t = s.modTileAt t fun x => { x with gating := false } := by
  simp only [State.gateTile, h, hused, Bool.not_true, Bool.false_eq_true, if_false, if_true]

theorem State.gateTile_of_missing (s : State) (t : Nat) (h : (s.tile t).gating = true) (hused : s.tileInUse t = false)
    (hmiss : ∃ x ∈ tileCores t, (s.core x).misses ≠ []) : s.gateTile t = s := by
  have hany : ((tileCores t).any fun c => !(s.core c).misses.isEmpty) = true := by simpa using hmiss
  simp only [State.gateTile, h, hused, hany, Bool.not_true, Bool.false_eq_true, if_false, if_true]

theorem State.gateTile_of_idle (s : State) (t : Nat) (h : (s.tile t).gating = true) (hused : s.tileInUse t = false)
    (hmiss : ∀ x ∈ tileCores t, (s.core x).misses = []) :
    s.gateTile t = (s.emptyTile t).modTileAt t fun x => { x with gating := false, gated := true } := by
  have hany : ((tileCores t).any fun c => !(s.core c).misses.isEmpty) = false := by simpa using hmiss
  simp only [State.gateTile, h, hused, hany, Bool.not_true, Bool.false_eq_true, if_false]

/-- Where only one tile of a list was to be gated, and no other is once that one is served, the list is served with it. -/
theorem State.foldl_gateTile (s : State) (t : Nat) (l : List Nat) (hmem : t ∈ l) (hothers : ∀ x ∈ l, x ≠ t → (s.tile x).gating = false)
    (hkept : ∀ x, x ≠ t → ((s.gateTile t).tile x).gating = (s.tile x).gating) (hdone : (s.gateTile t).gateTile t = s.gateTile t) :
    l.foldl State.gateTile s = s.gateTile t := by
  have hfixed (x : Nat) (hx : x ∈ l) : (s.gateTile t).gateTile x = s.gateTile t := by
    by_cases hxt : x = t
    · rw [hxt, hdone]
    · exact State.gateTile_of_unnamed _ x ((hkept x hxt).trans (hothers x hx hxt))
  induction l with
  | nil => exact absurd hmem (by simp)
  | cons y l ih =>
    by_cases hy : y = t
    · rw [hy]
      exact foldl_fixed_of_mem fun x hx => hfixed x (by simp [hx])
    · have hl : t ∈ l := (List.mem_cons.mp hmem).resolve_left (Ne.symm hy)
      rw [List.foldl_cons, s.gateTile_of_unnamed y (hothers y (by simp) hy)]
      exact ih hl (fun x hx => hothers x (by simp [hx])) fun x hx => hfixed x (by simp [hx])

theorem State.mem_of_kept {s u : State} (h : u.kept = s.kept) : u.mem = s.mem := congrArg Prod.fst h
theorem State.gating_of_kept {s u : State} (h : u.kept = s.kept) (t : Nat) : (u.tile t).gating = (s.tile t).gating :=
  congrFun (congrArg Prod.snd h) t

theorem regionGating_gates (s : State) (d c t : Nat) (ht : t ∈ clusterTiles d c)
    (hothers : ∀ x ∈ clusterTiles d c, x ≠ t → (s.tile x).gating = false) (hgating : (s.tile t).gating = true)
    (hused : s.tileInUse t = false) (hmiss : ∀ x ∈ tileCores t, (s.core x).misses = []) :
    exec (.regionGating d c) s =
      .next ((s.emptyTile t).modTileAt t fun x => { x with gating := false, gated := true }) := by
  have hgate := s.gateTile_of_idle t hgating hused hmiss
  rw [exec_regionGating, s.foldl_gateTile t _ ht hothers, hgate]
  · intro x hx
    rw [hgate, State.tile_modTileAt_of_ne _ _ hx, State.gating_of_kept (s.kept_emptyTile t)]
  · exact State.gateTile_of_unnamed _ t (by rw [hgate, State.tile_modTileAt_same])

theorem regionGating_spares (s : State) (d c t : Nat) (ht : t ∈ clusterTiles d c)
    (hothers : ∀ x ∈ clusterTiles d c, x ≠ t → (s.tile x).gating = false) (hgating : (s.tile t).gating = true)
    (hused : s.tileInUse t = true) :
    exec (.regionGating d c) s = .next (s.modTileAt t fun x => { x with gating := false }) := by
  have hgate := s.gateTile_of_used t hgating hused
  rw [exec_regionGating, s.foldl_gateTile t _ ht hothers, hgate]
  · intro x hx
    rw [hgate, State.tile_modTileAt_of_ne _ _ hx]
  · exact State.gateTile_of_unnamed _ t (by rw [hgate, State.tile_modTileAt_same])

theorem regionGating_waits (s : State) (d c t : Nat) (ht : t ∈ clusterTiles d c)
    (hothers : ∀ x ∈ clusterTiles d c, x ≠ t → (s.tile x).gating = false) (hgating : (s.tile t).gating = true)
    (hused : s.tileInUse t = false) (hmiss : ∃ x ∈ tileCores t, (s.core x).misses ≠ []) : exec (.regionGating d c) s = .next s := by
  have hgate := s.gateTile_of_missing t hgating hused hmiss
  rw [exec_regionGating, s.foldl_gateTile t _ ht hothers, hgate]
  · intro x _
    rw [hgate]
  · rw [hgate, hgate]

theorem hardwareEvents : Claim.hardwareEvents := by
  refine ⟨?corrected, ?uncorrectable, ?takeover, ?links, ?ports, ?power, ?gating⟩
  case corrected =>
    intro s t
    exact ⟨_, exec_correctedError s t, by rw [State.tile_modTileAt_same], rfl, rfl⟩
  case uncorrectable =>
    intro s t a hlm hroom
    obtain ⟨r, hcode, htval, hdie⟩ :=
      (s.poisonUnit (a / 8 * 8) 8).die_logError (t / 128) (code 7 16) (BitVec.ofNat 64 a) hroom
    refine ⟨_, exec_uncorrectableError_of_inLm s t a hlm, rfl, ?_, rfl, ?_⟩
    · exact s.poisoned_poisonUnit _ _ a 1 (by omega) (by omega)
    · rw [hdie]
      simp [hcode, htval, code]
  case takeover =>
    intro s d c hpending hroom
    obtain ⟨u, hexec, hkept⟩ := exec_takeoverComplete_of_pending s d c hpending
    have hmem := State.mem_of_diesAndMem hkept
    have hroom' : ((s.modDie d (·.takenOver c)).die d).errlog.length < 64 := by simpa [Die.takenOver, Die.replace] using hroom
    obtain ⟨r, hcode, hdie⟩ := State.die_logErrorFree _ d (code 7 19) hroom'
    have hu : u.die d = { (s.die d).takenOver c with errlog := ((s.die d).takenOver c).errlog ++ [r] } := by
      rw [State.die_of_diesAndMem hkept d, hdie, State.die_modDie_same]
    refine ⟨u, hexec, ?_, ?_, ?_, ?_, hmem⟩
    · simp [hu, Die.takenOver, Die.replace]
    · rw [hu]; rfl
    · rw [hu]; exact assocFind_assocSet_same _ _ _
    · simp [hu, hcode, code]
  case links =>
    intro s l hl hup
    refine ⟨⟨_, exec_flitCrcFailure_of_up s l hup, ?_, ?_, rfl⟩, ⟨_, exec_linkDegraded_of_up s l hup, ?_, rfl⟩, fun hothers => ?_⟩
    · rw [s.link_setLink_same]
    · rw [s.link_setLink_same]; exact hup
    · exact congrArg Link.state (s.link_setLink_same l _)
    · have hnot : (s.link l).state ≠ .down := by simp [hup]
      exact ⟨_, exec_linkDown_of_others s l hl hnot hothers, s.link_linkLost_same l, fun k hk hne => s.link_linkLost_of_ne hk hl hne,
        rfl, rfl, rfl⟩
  case ports =>
    intro s p a hp
    refine ⟨⟨_, exec_cxlFailure_poison s p a hp, ?_, rfl⟩, ⟨_, exec_cxlFailure_port s p a hp, ?_, rfl⟩⟩
    · exact s.poisoned_poisonUnit _ _ a 1 (by omega) (by omega)
    · change p ∈ if s.cxlDown.contains p then s.cxlDown else s.cxlDown ++ [p]
      split
      next h => simpa using h
      next => simp
  case power =>
    intro s w hw
    refine ⟨_, exec_powerControlSample s w hw, fun t => ?_, foldl_keeps (p := State.mem) (fun s (t : Nat × Tile) => s.undelay_mem t.1) _ s⟩
    apply State.delayed_foldl_undelay
    by_cases ht : t ∈ s.tiles.map Prod.fst
    · exact .inl ht
    · exact .inr (s.delayed_of_unlisted t ht)
  case gating =>
    intro s d c t ht hothers hgating
    refine ⟨fun hused hmiss => ?_, fun hused hmiss => ?_, fun hused => ?_⟩
    · refine ⟨_, regionGating_gates s d c t ht hothers hgating hused hmiss, ?_, ?_, ?_, ?_⟩
      · rw [State.tile_modTileAt_same]
      · rw [State.tile_modTileAt_same]
      · simp only [State.tile_modTileAt_same, s.l2_emptyTile t]
      · rw [State.modTileAt_mem, State.mem_of_kept (s.kept_emptyTile t)]
    · exact ⟨s, regionGating_waits s d c t ht hothers hgating hused hmiss, rfl, hgating, rfl⟩
    · refine ⟨_, regionGating_spares s d c t ht hothers hgating hused, ?_, ?_, rfl⟩
      · rw [State.tile_modTileAt_same]
      · rw [State.tile_modTileAt_same]

end Sys2Proof.Machine
end

section
/-! Packets from outside (R400, R406). -/

namespace Sys2Proof.Machine

theorem exec_unsupportedOperation (s : State) (via : Via) :
    exec (.unsupportedOperation via) s = .next { s with sent := s.sent ++ [.nak via] } := rfl
theorem exec_inboundRdmaWrite (s : State) (via : Via) (key va : Nat) (bs : List Byte) : exec (.inboundRdmaWrite ⟨via, key⟩ va bs) s =
    .next (s.inboundPacket { num := 0, via := via, key := key, va := va, data := some bs, len := 0 }) := rfl
theorem exec_inboundRdmaRead (s : State) (via : Via) (key va len : Nat) : exec (.inboundRdmaRead ⟨via, key⟩ va len) s =
    .next (s.inboundPacket { num := 0, via := via, key := key, va := va, data := none, len := len }) := rfl

/-- Where no packet of its connection waits, an arriving packet takes the next number. -/
theorem State.numberPacket_of_new (s : State) (p : Inbound) (h : ∀ x ∈ s.inbound, x.via ≠ p.via) :
    s.numberPacket p = ({ p with num := s.fresh }, { s with fresh := s.fresh + 1 }) := by
  have hfind : (s.inbound.find? fun x => { x with num := 0 } == { p with num := 0 }) = none := by
    rw [List.find?_eq_none]
    intro x hx heq
    have hvia := congrArg Inbound.via (eq_of_beq heq)
    exact h x hx hvia
  simp only [State.numberPacket, hfind]
  rfl

theorem State.numberPacket_of_quiet (s : State) (p : Inbound) (h : s.quietPair p.via) :
    s.numberPacket p = ({ p with num := s.fresh }, { s with fresh := s.fresh + 1 }) :=
  s.numberPacket_of_new p fun x hx hvia => h x hx ⟨by rw [hvia], by rw [hvia]⟩

/-- On a queue pair where none waits no packet is an earlier one. -/
theorem State.earlier_of_quiet (s : State) (via : Via) (n : Nat) (h : s.quietPair via) :
    (s.inbound.any fun x => x.via.port == via.port && x.via.qp == via.qp && decide (x.num < n)) = false := by
  simp only [List.any_eq_false, Bool.and_eq_true, beq_iff_eq]
  exact fun x hx hpair => h x hx hpair.1

/-- The answer to a packet that has changed nothing: the packets received are counted. -/
def State.refusing (s : State) (via : Via) : State := { s with fresh := s.fresh + 1, sent := s.sent ++ [.nak via] }

/-- A packet that does not wait is not among those that do. -/
theorem State.inboundDone_of_quiet (s : State) (q : Inbound) (h : s.quietPair q.via) :
    ({ s with fresh := s.fresh + 1 } : State).inboundDone q (.nak q.via) = s.refusing q.via := by
  have hnot : q ∉ s.inbound := fun hq => h q hq ⟨rfl, rfl⟩
  simp only [State.inboundDone, State.refusing, List.erase_of_not_mem hnot]

theorem State.inboundPacket_of_no_region (s : State) (p : Inbound) (h : s.quietPair p.via) (hkey : assocFind p.key s.regions = none) :
    s.inboundPacket p = s.refusing p.via := by
  simp only [State.inboundPacket, s.numberPacket_of_quiet p h, s.earlier_of_quiet p.via _ h, hkey, Bool.false_eq_true, if_false]
  exact s.inboundDone_of_quiet { p with num := s.fresh } h

/-- The bytes that a packet writes or reads. -/
def Inbound.size (p : Inbound) : Nat :=
  match p.data with
  | some bs => bs.length
  | none => p.len

/-- An access outside its region or against its rights ends before anything is done. -/
theorem inboundEffect_of_refused (s : State) (r : Region) (p : Inbound)
    (h : p.va < r.base ∨ r.base + r.len < p.va + p.size ∨ !(if p.data.isSome then r.w else r.r)) :
    (inboundEffect r p).run' s =
      (s, .error (.fault { code := code 1 9, tval := BitVec.ofNat 64 p.va, violation := false })) := by
  have heffect : inboundEffect r p = eFault 1 9 p.va := if_pos h
  rw [heffect]
  rfl

theorem State.inboundPacket_of_refused (s : State) (p : Inbound) (r : Region) (h : s.quietPair p.via)
    (hkey : assocFind p.key s.regions = some r)
    (hrefused : p.va < r.base ∨ r.base + r.len < p.va + p.size ∨ !(if p.data.isSome then r.w else r.r)) :
    s.inboundPacket p = s.refusing p.via := by
  simp only [State.inboundPacket, s.numberPacket_of_quiet p h, s.earlier_of_quiet p.via _ h, hkey, Bool.false_eq_true, if_false,
    inboundEffect_of_refused _ r { p with num := s.fresh } hrefused]
  exact s.inboundDone_of_quiet { p with num := s.fresh } h

theorem State.inboundPacket_of_performed (s u : State) (p : Inbound) (r : Region) (out : List Byte) (h : s.quietPair p.via)
    (hkey : assocFind p.key s.regions = some r)
    (heffect : (inboundEffect r { p with num := s.fresh }).run' { s with fresh := s.fresh + 1 } = (u, .ok out)) :
    s.inboundPacket p = u.inboundDone { p with num := s.fresh } (.reply p.via out) := by
  simp only [State.inboundPacket, s.numberPacket_of_quiet p h, s.earlier_of_quiet p.via _ h, hkey, Bool.false_eq_true, if_false, heffect]

/-- A packet behind an earlier one of its queue pair waits, with the next number. -/
theorem State.inboundPacket_of_earlier (s : State) (p x : Inbound) (hx : x ∈ s.inbound) (hport : x.via.port = p.via.port)
    (hqp : x.via.qp = p.via.qp) (hnum : x.num < s.fresh) (hnew : ∀ y ∈ s.inbound, y.via ≠ p.via ∧ y.num ≠ s.fresh) :
    s.inboundPacket p = { s with fresh := s.fresh + 1, inbound := s.inbound ++ [{ p with num := s.fresh }] } := by
  have hearlier : (s.inbound.any fun x => x.via.port == p.via.port && x.via.qp == p.via.qp && decide (x.num < s.fresh)) = true :=
    List.any_eq_true.mpr ⟨x, hx, by simp [hport, hqp, hnum]⟩
  have hout : s.inbound.contains { p with num := s.fresh } = false := by
    simp only [List.contains_eq_mem, decide_eq_false_iff_not]
    exact fun hp => (hnew _ hp).2 rfl
  simp only [State.inboundPacket, s.numberPacket_of_new p fun y hy => (hnew y hy).1, hearlier, if_true, State.keepPacket, hout,
    Bool.false_eq_true, if_false]

theorem packets : Claim.packets := by
  refine ⟨exec_unsupportedOperation, ?served, ?waits⟩
  case served =>
    intro s via key va len bs hquiet w r nak
    simp only [exec_inboundRdmaWrite, exec_inboundRdmaRead, Host.Outcome.next.injEq]
    refine ⟨fun hkey => ⟨s.inboundPacket_of_no_region _ hquiet hkey, s.inboundPacket_of_no_region _ hquiet hkey⟩, fun x hkey => ?_⟩
    refine ⟨fun hrefused => ?_, fun hrefused => ?_, fun u hu => ?_, fun u out hu => ?_⟩
    · exact s.inboundPacket_of_refused _ x hquiet hkey (by simpa [Inbound.size] using hrefused)
    · exact s.inboundPacket_of_refused _ x hquiet hkey (by simpa [Inbound.size] using hrefused)
    · exact s.inboundPacket_of_performed u _ x [] hquiet hkey hu
    · exact s.inboundPacket_of_performed u _ x out hquiet hkey hu
  case waits =>
    intro s via key va bs x hx hport hqp hnum hnew
    rw [exec_inboundRdmaWrite]
    exact congrArg Host.Outcome.next (s.inboundPacket_of_earlier _ x hx hport hqp hnum hnew)

/-- Settles O60: each event's next state as an equation, and what the update of a tile, a die, a link or the packets shows of it. -/
theorem hardwareResults : Obligations.HardwareResults :=
  ⟨hardwareEvents, packets⟩

end Sys2Proof.Machine
end
